-- ==== Sys2Proof/Word.lean ====
section
/-! DEFINITION. The word types of the KY8 model and the sparse map every table of State is held in
(plain data: a list of (key, value) pairs with rising keys; what an unlisted key reads as is named beside each field). -/

namespace Sys2Proof

abbrev Byte := BitVec 8
abbrev U16 := BitVec 16
abbrev U32 := BitVec 32
abbrev U64 := BitVec 64

/-- A sparse map from Nat: keys strictly rising. -/
abbrev SMap (α : Type) := List (Nat × α)

end Sys2Proof
end

