-- ==== Sys2Proof/Syntax.lean ====
section
/-! DEFINITION. The commands of the block: one constructor per row of spec/opcode_table.json, with the row's operands.
An operand is what comes from outside the step: the queue, tile or function concerned, a register value, the bytes a
host, a peer or a sensor delivers, a fault of the hardware that a detector sees. The table gives no row any bits. -/

namespace Sys2Proof

/-- A scalar operand of a sequencer instruction: a register or an immediate (05 R125, R126). -/
inductive SOp where
  | reg (n : Fin 32)
  | imm (v : BitVec 64)
  deriving DecidableEq, Repr

/-- SOP operations (05 R126). -/
inductive SopOp where
  | add | sub | mul | shl | shr | min | max
  deriving DecidableEq, Repr

/-- How a vector instruction is masked (05 R118, R119). -/
inductive VMask where
  | unmasked
  | zero (m : Fin 8)
  | merge (m : Fin 8)
  deriving DecidableEq, Repr

/-- ARITH operations (05 R116); `b` and `c` are further source registers. -/
inductive ArithOp where
  | add | sub | mul | fma | min | max | abs | neg | copysign
  deriving DecidableEq, Repr

/-- INT operations (05 R116). -/
inductive IntOp where
  | add | sub | mul | shl | shrl | shra | and | or | xor | min | max | satAdd | satSub
  deriving DecidableEq, Repr

/-- CMP operations (05 R116). -/
inductive CmpOp where
  | eq | ne | lt | le | gt | ge | unordered
  deriving DecidableEq, Repr

/-- MASKOP operations (05 R116). -/
inductive MaskOp where
  | and | or | xor | andn | not | set | clear | copy
  deriving DecidableEq, Repr

/-- CVT operations (05 R116): a pair of formats (03 R58), or a scale derivation (03 R75, R76) of a target format. -/
inductive CvtOp where
  | convert (src dst : Nat) (sat : Bool) (towardZero : Bool)
  | rescale (src dst : Nat) (towardZero : Bool) (mult : Int) (shift : Nat) (zp : Int)
  | expand (src : Nat) (e4m3 : Bool) (scale : Fin 32)
  | deriveE8M0 (target : Nat)
  | deriveFp32 (target : Nat)
  | deriveE4M3 (target : Nat)
  deriving DecidableEq, Repr

/-- TRANS functions (05 R116). -/
inductive TransFn where
  | exp | exp2 | log | log2 | tanh | sigmoid | gelu | silu | rsqrt | recip
  deriving DecidableEq, Repr

/-- PERM operations (05 R116). -/
inductive PermOp where
  | broadcast (lane : Fin 128)
  | shuffle (xorWith : Fin 128)      -- a fixed shuffle
  | permute (idx : Fin 32)           -- lane-index vector register
  deriving DecidableEq, Repr

/-- REDUCE operations (05 R123). -/
inductive RedOp where
  | sum | max | min | amax
  deriving DecidableEq, Repr

/-- A received Flochasel packet (14 R371 to R373): the 72-byte header, the decrypted payload, and what the receiver's
hardware found: sub-port, ingress stamp, CE mark, whether the GCM tag verified, and the sender's address and UDP port. -/
structure Packet where
  header  : List Byte
  payload : List Byte
  sub     : Nat
  ce      : Bool
  tagOk   : Bool
  addr    : Nat
  udp     : Nat
  deriving DecidableEq, Repr

/-- A received Ethernet frame as FRAME_RECEIVE judges it (14 R367). -/
structure Frame where
  sub    : Nat
  dstMac : Nat
  group  : Bool            -- a broadcast or multicast address of ARP, neighbour discovery or PTP
  vlan   : Nat
  tags   : Nat             -- number of VLAN tags
  ipDst  : Nat
  ipOk   : Bool            -- no option, fragment or extension header (14 R365)
  kind   : Nat             -- 0 PTP, 1 ARP or neighbour discovery, 2 UDP, 3 other
  udpDst : Nat
  pcp    : Nat
  bytes  : Nat
  deriving DecidableEq, Repr

/-- A stream descriptor of a launch: tile (die × 32 + tile), engine and the 64 bytes (05 R133). -/
structure StreamDesc where
  tile   : Nat
  engine : Nat
  bytes  : List Byte
  deriving DecidableEq, Repr

/-- TEST outcome for one unit (15 R413, R426, R427). -/
structure TestResult where
  columns : List Nat       -- faulty physical columns found
  lane    : Bool           -- an A-broadcast lane fault
  detail  : Nat            -- channel: corrected and uncorrectable reads; port: uncorrectable codewords
  fault   : Bool
  margin  : Nat            -- calibration margin (17 R461)
  deriving DecidableEq, Repr

/-- The commands. -/
inductive Instr where
  -- time and beats (ch. 2)
  | ptpMessage (sub domain transport : Nat) (source : Nat)
  | todMessage (bytes : List Byte)
  | ppsEdge
  | measurementTimeout
  | unlockedGroupTimeout
  | ppsOutEdge
  | todTransmit
  | tscLowRead (func : Nat)
  | beatEdge (devEnergyUj : Nat)
  | admissionResume
  | beatHeadEnd
  | beatPeriodSwitch
  | cloverWakeFire (n : Nat)
  | cloverTempFire (n : Nat) (celsius : Nat)
  | cloverSupplyFire (quarterVolts : Nat)
  | cloverLinkFire (source : Nat)
  | cloverFiredWrite (value : BitVec 32)
  -- tiles (ch. 4, 5)
  | instanceStart (tile : Nat) (flight inst : Nat)
  | setvl (tile : Nat) (src : SOp)
  | vloop (tile : Nat) (bodyLen : Nat)
  | vend (tile : Nat)
  | loop (tile : Nat) (src : SOp) (bodyLen : Nat)
  | lend (tile : Nat)
  | sop (tile : Nat) (op : SopOp) (dst : Fin 32) (a b : SOp)
  | swait (tile : Nat) (stream : Nat) (n : SOp)
  | swaitMet (tile : Nat)
  | sadv (tile : Nat) (stream : Nat) (n : SOp)
  | gq (tile : Nat) (stream : Nat) (off cnt : SOp)
  | sdrain (tile : Nat) (stream : Nat)
  | sdrainDone (tile : Nat)
  | mma (tile : Nat) (d : SOp)
  | mwait (tile : Nat)
  | fsig (tile : Nat) (fence value : SOp)
  | fwait (tile : Nat) (fence value : SOp)
  | fwaitMet (tile : Nat)
  | bar (tile : Nat) (group : Fin 64) (members : List Nat)
  | barGroupComplete (die : Nat) (group : Fin 64)
  | end_ (tile : Nat)
  | instanceEnd (tile : Nat)
  | arith (tile : Nat) (op : ArithOp) (bf16 : Bool) (m : VMask) (d a b c : Fin 32)
  | int (tile : Nat) (op : IntOp) (m : VMask) (d a b : Fin 32)
  | cmp (tile : Nat) (op : CmpOp) (m : VMask) (d : Fin 8) (a b : Fin 32)
  | maskop (tile : Nat) (op : MaskOp) (d a b : Fin 8)
  | cvt (tile : Nat) (op : CvtOp) (m : VMask) (d a : Fin 32)
  | trans (tile : Nat) (fn : TransFn) (m : VMask) (d a : Fin 32)
  | div (tile : Nat) (sqrt : Bool) (m : VMask) (d a b : Fin 32)
  | perm (tile : Nat) (op : PermOp) (m : VMask) (d a : Fin 32)
  | reduce (tile : Nat) (op : RedOp) (bf16 : Bool) (m : VMask) (d a : Fin 32)
  | ldv (tile : Nat) (m : VMask) (d : Fin 32) (addr : SOp)
  | stv (tile : Nat) (m : VMask) (a : Fin 32) (addr : SOp)
  | matrixInstanceEnd (tile : Nat)
  | guardReplayDone (tile : Nat)
  | debugHalt (tile : Nat)
  | dbgResume (func : Nat)
  | dbgAbort (func : Nat)
  | arrayRampDown (tile : Nat)
  | kernelComplete (flight : Nat)
  | durationOverrun (tile : Nat)
  | longInstanceCheck (tile : Nat) (duplicateTile : Nat)
  -- checks and tests (ch. 15)
  | checkAgeExpiry (tile : Nat)
  | checkWatermarkTick
  | provisionalExpiry
  | quarantineTestDone (tile : Nat) (r : TestResult)
  | testSlotStart (tile : Nat)
  | testSlotEnd (tile : Nat) (r : TestResult)
  | calibrationTimer
  | scratchpadEccError (tile : Nat) (doubleBit : Bool)
  | hubSramEccError (doubleBit : Bool)
  | lockstepMismatch
  | flitCrcError (link : Nat) (replayed : Bool)
  | trngHealthFail
  -- memory (ch. 5, 8)
  | streamResponse (tile engine : Nat) (bytes : Nat) (hostData : List Byte)
  | storeAck (tile engine : Nat) (index : Nat)
  | channelRequest (context : Nat) (who : Nat × Nat) (write : Bool) (pa len : Nat) (data : List Byte)
      (nibbles : List Nat) (teasel lc background : Bool)
  | channelServe (channel : Nat) (errorSymbols : Nat)
  | guardWindowStart (channel : Nat)
  | refresh (channel : Nat)
  | retrainSlot
  | retrainDone (channel : Nat) (ok : Bool)
  | zeroFillDone (stack : Nat)
  | scrubRead (channel : Nat) (corrected uncorrectable : List Nat)
  | scrubPriorityTimeout (channel : Nat)
  | ceHourRollover
  | mapoutStart (stack : Nat)
  | mapoutCmd (value : BitVec 32)
  | mapoutFrameStaged (stack slot : Nat)
  | mapoutFrameWritten (stack slot : Nat)
  -- host link (ch. 13)
  | cxlMemRead (dpa : Nat) (exclusive : Bool)
  | cxlMemWrite (dpa : Nat) (data : List Byte)
  | birsp (line : Nat) (data : Option (List Byte))
  | biTimeout (line : Nat)
  | hostSnoop (line : Nat)
  | hostReadCompletion (id : Nat) (data : List Byte)
  | hostWriteGo (id : Nat)
  | hostAccessReject (id : Nat)
  | bar4Read (func : Nat) (off len : Nat)
  | bar4Write (func : Nat) (off : Nat) (data : List Byte)
  | linkLoss (cause : Nat)
  | linkUp (width speed : Nat) (cxl : Bool)
  | perstAssert
  | functionLevelReset (func : Nat)
  | ideIntegrityFail (func : Option Nat)
  | ideKm (func : Option Nat)
  | tdispRequest (func : Nat) (req : Nat)
  | msixUnmask (func vector : Nat)
  -- SPDM and sideband (ch. 16, 17, 19)
  | getVersion (transport : Nat)
  | getCapabilities (transport : Nat)
  | negotiateAlgorithms (transport : Nat) (supported : Bool)
  | getDigests (transport : Nat)
  | getCertificate (transport : Nat) (slot off len : Nat)
  | challenge (transport : Nat) (nonce : List Byte)
  | getMeasurements (transport : Nat) (index : Nat) (nonce : List Byte)
  | keyExchange (transport : Nat) (peerKey : List Byte)
  | finish (transport session : Nat) (ok : Bool)
  | heartbeat (transport session : Nat)
  | keyUpdate (transport session : Nat)
  | endSession (transport session : Nat)
  | vendorDefinedRequest (transport : Nat) (code func : Nat) (nonce : List Byte)
  | mctpControl (code : Nat) (eid : Nat)
  | getPdr (handle : Nat)
  | getPdrRepositoryInfo
  | getSensorReading (sensor : Nat)
  | getSensorThresholds (sensor : Nat)
  | setSensorThresholds (sensor : Nat) (lowCrit upWarn upCrit : Option Int)
  | setEventReceiver (receiver : Nat)
  | pldmFirmwareUpdate (image : List Byte)
  -- queues (ch. 10)
  | queueEnable (func q : Nat)
  | queueDisable (func q : Nat)
  | queueReset (func q : Nat)
  | queueResetDone (queue : Nat)
  | sqDb (func q : Nat) (value : BitVec 64)
  | cqDb (func q : Nat) (value : BitVec 64)
  | resumeCompletions (func q : Nat) (gen : Nat) (rejectAt : Option Nat)
  | reissue (func q : Nat) (gen : Nat)
  | clearHalt (func q : Nat) (gen : Nat)
  | slotFetch (queue : Nat) (hostData : List Byte)
  | slotReread (queue : Nat) (hostData : List Byte)
  | doorbellSweep (hostData : List (Nat × List Byte))
  | fenceCheckTick
  | fenceTimeout (queue seq : Nat)
  | waitMapTimeout (queue : Nat)
  | deadlineExpiry (queue : Nat)
  | commandCompletion (flight : Nat) (measuredUj : Nat) (rejected : Bool)
  -- submitted commands (ch. 11): dispatch of the command at the head of a queue
  | nop (queue : Nat)
  | fenceWait (queue : Nat)
  | fenceSignal (queue : Nat)
  | barrier (queue : Nat)
  | marker (queue : Nat)
  | copyH2d (queue : Nat)
  | copyD2h (queue : Nat)
  | copyD2d (queue : Nat)
  | copyNet (queue : Nat)
  | launchKernel (queue : Nat) (streams : List StreamDesc)
  | launchGraph (queue : Nat)
  | graphNodeDispatch (flight node : Nat) (streams : List StreamDesc)
  | streamRearm (queue : Nat)
  | tableCreate (queue : Nat)
  | tableLoad (queue : Nat) (hostRows : List Byte)
  | tablePrepare (queue : Nat)
  | tableCommit (queue : Nat)
  | tableRetire (queue : Nat)
  | gather (queue : Nat)
  | updateApply (queue : Nat)
  | publishRows (queue : Nat)
  | extentMap (queue : Nat)
  | extentUnmap (queue : Nat)
  | retireContext (queue : Nat)
  | retireContextDrained (context : Nat)
  | windowOpen (queue : Nat)
  | windowClose (queue : Nat)
  | configStage (queue : Nat)
  | configArm (queue : Nat)
  | partitionSet (queue : Nat)
  | classSet (queue : Nat)
  | regulatorSet (queue : Nat)
  | powerSet (queue : Nat)
  | beatSet (queue : Nat)
  | samplingSet (queue : Nat)
  | testRun (queue : Nat)
  | checkStatus (queue : Nat)
  | monitorArm (queue : Nat)
  | monitorRead (queue : Nat)
  | recorderArm (queue : Nat)
  | recorderStop (queue : Nat)
  | query (queue : Nat)
  | groupJoin (queue : Nat)
  | groupLeave (queue : Nat)
  | groupState (queue : Nat)
  | attest (queue : Nat)
  | keyDomainCreate (queue : Nat)
  | keyDomainErase (queue : Nat)
  | flowKey (queue : Nat)
  -- gathers and updates (ch. 6, 7)
  | yarrowBatchDone (flight die : Nat) (violation : Bool)
  | collectionClose (part : Nat)
  | updateMergeDone (part die : Nat)
  | applyWindowStart (part : Nat)
  | applyWindowEnd (part : Nat)
  | schedCtrlWrite (value : BitVec 32)
  | faultqBaseWrite (operator : Bool) (func : Nat) (value : BitVec 64)
  | faultqHeadWrite (operator : Bool) (func : Nat) (value : BitVec 32)
  | billBaseWrite (value : BitVec 64)
  | billHeadWrite (value : BitVec 32)
  -- network (ch. 14)
  | frameReceive (f : Frame)
  | arpRequest (sub : Nat) (target : Nat)
  | neighbourSolicitation (sub : Nat) (target : Nat)
  | pfcFrame (port : Nat) (paused : Nat)
  | portLinkChange (sub : Nat) (up locked : Bool)
  | portModeWrite (port : Nat) (value : BitVec 32)
  | packetTransmit (sub : Nat)
  | rtoExpiry (peer psn : Nat)
  | ackTimer (peer : Nat)
  | ccTick
  | configNackResend (peer mseq : Nat)
  | dataWrite (p : Packet)
  | dataReadReq (p : Packet)
  | dataReadResp (p : Packet)
  | send (p : Packet)
  | atomicAddF32 (p : Packet)
  | checkClear (p : Packet)
  | retract (p : Packet)
  | beatSync (p : Packet)
  | joinReq (p : Packet)
  | joinAccept (p : Packet)
  | joinRefuse (p : Packet)
  | configPush (p : Packet)
  | memberUp (p : Packet)
  | leave (p : Packet)
  | groupMismatch (p : Packet)
  | versionQuery (p : Packet)
  | versionReply (p : Packet)
  | versionReplyTimeout (table : Nat)
  | ack (p : Packet)
  | nack (p : Packet)
  -- telemetry, power, boot (ch. 16 to 19)
  | sensorSample (values : List (Nat × Int))
  | eventArrival
  | pwrTargetS0
  | pwrTargetS1
  | pwrTargetS2
  | pwrTargetS3
  | idleTimeout
  | powerEntryDrained
  | wakeComplete
  | warmReset (hubIntact : Bool)
  | coldReset
  | powerOn (straps : Nat)
  | bootReady (okA okB : Bool) (svnA svnB minA minB : Nat) (digest : List Byte) (components : List (List Byte))
      (regionOk : Bool)
  | minSvnUpdate (writeOk : Bool)
  | testUnlock (signatureOk : Bool) (svn : Nat) (bind nonce : List Byte)
  | supplyUndervoltage (quarterVolts : Nat)
  | supplyRecovery (quarterVolts : Nat)
  | thermalProtectEntry (die : Nat) (milliC : Int)
  | junctionLimit (die : Nat) (milliC : Int)
  | dieTrip (die : Nat) (milliC : Int)
  | hubTrip (milliC : Int)
  | hubTripRecovery (milliC : Int)
  | registerWrite (func : Nat) (off size : Nat) (value : BitVec 64)
  | holdover
  | agingSummary
  | yarrowProgress (flight die records : Nat)
  | regulatorRefill (part res : Nat) (ns : Nat)
  | inputPowerLoss
  deriving DecidableEq, Repr

end Sys2Proof
end

