-- ==== Sys2Proof/Config.lean ====
section
/-! DEFINITION. What an implementation fixes and the free values: constants with no body, so that nothing can be
proved of a value spec/ leaves open. Each is named in a log entry (notes/assumptions). -/

namespace Sys2Proof

/-- A byte of HBM read under another key pair than the one its granule was written under, or of a granule nothing has
written: "bytes unrelated to its plaintext" (08 R221). Arguments: physical address, key pair of the read, key pair of
the granule (0: never written), the granule's plaintext. Log 4. -/
opaque Config.unrelated : Nat → Nat → Nat → List Byte → Byte

/-- The n-th 64-bit draw of the DRBG (16 R440): sampling draws, keys, nonces. Log 8. -/
opaque Config.draw : Nat → U64

/-- Which of the FP32 values within the bound a transcendental function takes: function number and input give an
offset (04 R105, 05 R116). Log 9. -/
opaque Config.ulpChoice : Nat → U32 → Nat

/-- The value of a quantity spec/ names and gives no way to compute from what the block holds: a number of the
quantity, its arguments folded into one number, and an index (16 R432 to R445). Log 10. -/
opaque Config.secretByte : Nat → Nat → Nat → Byte

/-- A 32-bit value the spec leaves unstated for some operands of a vector instruction: which case, and the operands. Log 13. -/
opaque Config.unstated : Nat → U32 → U32 → U32

/-- A 64-bit value the spec leaves unstated: which case, and the operands. Log 13. -/
opaque Config.unstated64 : Nat → U64 → U64 → U64

/-- A fresh value for the n-th value the spec leaves undefined (log 8). -/
opaque Config.freeValue : Nat → U64

end Sys2Proof
end

