-- ==== Sys2Proof/Machine/Bytes.lean ====
section
/-! DEFINITION. Sparse maps, little-endian byte strings, bit fields, and the check codes the spec names
(CRC-16/CCITT-FALSE, CRC-32C, CRC-64/ECMA-182, SHA-256). -/

namespace Sys2Proof.Machine

/-! ### Sparse maps -/

def smFind {α : Type} : SMap α → Nat → Option α
  | [], _ => none
  | (k, v) :: m, i => if i = k then some v else if i < k then none else smFind m i

def smGet {α : Type} (m : SMap α) (d : α) (i : Nat) : α := (smFind m i).getD d

def smSet {α : Type} : SMap α → Nat → α → SMap α
  | [], i, v => [(i, v)]
  | (k, w) :: m, i, v =>
    if i = k then (k, v) :: m else if i < k then (i, v) :: (k, w) :: m else (k, w) :: smSet m i v

/-- The map without key `i`. -/
def smDel {α : Type} (m : SMap α) (i : Nat) : SMap α := m.filter fun kv => kv.1 != i

/-- Values at lo, lo + 1, … over what the map held there. -/
def smPutRange {α : Type} (m : SMap α) (lo : Nat) (vs : List α) : SMap α :=
  m.filter (fun kv => kv.1 < lo) ++ (vs.zipIdx.map fun v => (lo + v.2, v.1)) ++
    m.filter (fun kv => lo + vs.length ≤ kv.1)

def smMap {α : Type} (m : SMap α) (f : Nat → α → α) : SMap α := m.map fun kv => (kv.1, f kv.1 kv.2)

def smFilter {α : Type} (m : SMap α) (p : Nat → α → Bool) : SMap α := m.filter fun kv => p kv.1 kv.2

def smKeys {α : Type} (m : SMap α) : List Nat := m.map (·.1)

/-! ### Bytes, least significant first (00 R4) -/

/-- The `n` low bytes of `v`, least significant first. -/
def le : Nat → Nat → List Byte
  | 0, _ => []
  | n + 1, v => BitVec.ofNat 8 v :: le n (v / 256)

/-- The number a byte string holds, least significant first. -/
def unle : List Byte → Nat
  | [] => 0
  | b :: bs => b.toNat + 256 * unle bs

/-- The number in bytes [off, off + n). -/
def num (bs : List Byte) (off n : Nat) : Nat := unle ((bs.drop off).take n)

/-- The bytes [off, off + n), zero beyond the end. -/
def slice (bs : List Byte) (off n : Nat) : List Byte :=
  let x := (bs.drop off).take n
  x ++ List.replicate (n - x.length) 0

/-- `bs` with `xs` written over it at `off` (the length of `bs` is kept). -/
def patch (bs : List Byte) (off : Nat) (xs : List Byte) : List Byte :=
  bs.take off ++ xs.take (bs.length - off) ++ bs.drop (off + xs.length)

def zeros (n : Nat) : List Byte := List.replicate n 0

/-- Bits [hi:lo] of a number. -/
def bits (v hi lo : Nat) : Nat := v / 2 ^ lo % 2 ^ (hi + 1 - lo)

def bit (v i : Nat) : Bool := v.testBit i

def b2n (b : Bool) : Nat := if b then 1 else 0

/-- `v` with bits [hi:lo] replaced by those of `x`. -/
def setBits (v hi lo x : Nat) : Nat :=
  v - bits v hi lo * 2 ^ lo + (x % 2 ^ (hi + 1 - lo)) * 2 ^ lo

def clampN (lo hi v : Nat) : Nat := max lo (min hi v)

def ceilDiv (a b : Nat) : Nat := (a + b - 1) / b

def roundUp (a b : Nat) : Nat := ceilDiv a b * b

/-- Saturating count (n bits). -/
def satAdd (n v k : Nat) : Nat := min (v + k) (2 ^ n - 1)

/-- Signed value of `n` bits. -/
def signedOf (n v : Nat) : Int := if v % 2 ^ n < 2 ^ (n - 1) then (v % 2 ^ n : Nat) else (v % 2 ^ n : Nat) - (2 ^ n : Nat)

/-- A record of `n` bytes, zero but for the fields (offset, bytes, value), each least significant byte first. -/
def rec_ (n : Nat) (fields : List (Nat × Nat × Nat)) : List Byte :=
  fields.foldl (fun b f => patch b f.1 (le f.2.1 f.2.2)) (zeros n)

/-- Two's complement of `n` bits. -/
def unsignedOf (n : Nat) (v : Int) : Nat := (v % (2 ^ n : Nat)).toNat

/-! ### Check codes -/

/-- One byte into a CRC whose register shifts towards the high end. -/
def crcUpByte (width poly : Nat) (crc : Nat) (b : Byte) : Nat :=
  (List.range 8).foldl (fun c _ =>
    if c.testBit (width - 1) then (2 * c % 2 ^ width) ^^^ poly else 2 * c % 2 ^ width)
    (crc ^^^ (b.toNat * 2 ^ (width - 8)))

/-- CRC-16/CCITT-FALSE: polynomial 0x1021, initial value 0xFFFF (02 R39). -/
def crc16 (bs : List Byte) : Nat := bs.foldl (crcUpByte 16 0x1021) 0xFFFF

/-- CRC-64/ECMA-182: polynomial 0x42F0E1EBA9EA3693, initial value 0 (15 R408). -/
def crc64 (bs : List Byte) : Nat := bs.foldl (crcUpByte 64 0x42F0E1EBA9EA3693) 0

/-- CRC-32C (Castagnoli), reflected (07 R195, 14 R371). -/
def crc32c (bs : List Byte) : Nat :=
  (bs.foldl (fun c (b : Byte) =>
    (List.range 8).foldl (fun c _ => if c % 2 = 1 then (c / 2) ^^^ 0x82F63B78 else c / 2) (c ^^^ b.toNat))
    0xFFFFFFFF) ^^^ 0xFFFFFFFF

/-- The first 32 bits after the point of the `e`-th root of `p`, by trial of each bit (FIPS 180-4 takes its constants so). -/
def rootFrac (e p : Nat) : U32 :=
  BitVec.ofNat 32 ((List.range 36).foldl (fun r i =>
    let up := r + 2 ^ (35 - i)
    if up ^ e ≤ p * 2 ^ (32 * e) then up else r) 0)

/-- The 64 primes below 312. -/
def firstPrimes : List Nat :=
  (List.range 312).filter fun n => 2 ≤ n && [2, 3, 5, 7, 11, 13, 17].all fun d => n = d || n % d != 0

/-- The exclusive or of a word's rotations. -/
def spin (by_ : List Nat) (x : U32) : U32 := by_.foldl (fun y n => y ^^^ x.rotateRight n) 0

/-- Working variables (key 0 = a … 7 = h) and the next sixteen schedule words, oldest first. -/
structure Digest where
  var : List U32
  next : List U32
  deriving DecidableEq, Repr

/-- One round: the oldest schedule word is used up, the one sixteen places on is made. -/
def Digest.turn (d : Digest) (k : U32) : Digest :=
  let v := fun i => d.var.getD i 0
  let w := fun i => d.next.getD i 0
  let pick := ((v 5 ^^^ v 6) &&& v 4) ^^^ v 6
  let most := ((v 0 ||| v 1) &&& v 2) ||| (v 0 &&& v 1)
  let add := v 7 + k + w 0 + pick + spin [6, 11, 25] (v 4)
  let grown := w 9 + w 0 + (spin [7, 18] (w 1) ^^^ w 1 >>> 3) + (spin [17, 19] (w 14) ^^^ w 14 >>> 10)
  { var := (add + most + spin [2, 13, 22] (v 0)) :: d.var.take 3 ++ (v 3 + add) :: (d.var.drop 4).take 3
    next := d.next.drop 1 ++ [grown] }

/-- Four bytes, most significant first. -/
def wordAt (bs : List Byte) (i : Nat) : U32 := BitVec.ofNat 32 (unle (slice bs (4 * i) 4).reverse)

/-- One 64-byte block into the chaining value. -/
def absorb (h : List U32) (block : List Byte) : List U32 :=
  let start : Digest := { var := h, next := (List.range 16).map (wordAt block) }
  List.zipWith (· + ·) h ((firstPrimes.map (rootFrac 3)).foldl Digest.turn start).var

/-- SHA-256 as FIPS 180-4 (16 R434, 14 R393). -/
def sha256 (bs : List Byte) : List Byte :=
  let fill := zeros ((119 - bs.length % 64) % 64)
  let text := bs ++ 0x80#8 :: fill ++ (le 8 (8 * bs.length)).reverse
  let seed := (firstPrimes.take 8).map (rootFrac 2)
  let out := (List.range (text.length / 64)).foldl (fun h i => absorb h (slice text (64 * i) 64)) seed
  out.flatMap fun w => (le 4 w.toNat).reverse

end Sys2Proof.Machine
end

