-- ==== Sys2Proof/Machine/Codes.lean ====
section
/-! DEFINITION. The numbers the spec gives status codes (11 R315), local sources (02 R55) and event codes (17 R457). -/

namespace Sys2Proof.Machine

/-! ### Status codes (11 R315) -/

abbrev stSuccess : Nat := 0
abbrev stInvalidOpcode : Nat := 0x0101
abbrev stFenceNotOwned : Nat := 0x0102
abbrev stFenceCycle : Nat := 0x0103
abbrev stFenceTimeout : Nat := 0x0104
abbrev stQueueNotOwned : Nat := 0x0105
abbrev stArrayTooNarrow : Nat := 0x0201
abbrev stProgramTooLarge : Nat := 0x0202
abbrev stDeadlineExpired : Nat := 0x0203
abbrev stInstanceAborted : Nat := 0x0204
abbrev stTilesUnavailable : Nat := 0x0205
abbrev stItemInvalid : Nat := 0x0206
abbrev stTableNotOwned : Nat := 0x0301
abbrev stTableIdInUse : Nat := 0x0302
abbrev stTableInvalid : Nat := 0x0303
abbrev stTableWrongDie : Nat := 0x0304
abbrev stVersionSlotBusy : Nat := 0x0305
abbrev stVersionInUse : Nat := 0x0306
abbrev stVersionUnavailable : Nat := 0x0307
abbrev stYarrowBatchLimit : Nat := 0x0308
abbrev stYarrowWorkArea : Nat := 0x0309
abbrev stUpdatesDisabled : Nat := 0x030A
abbrev stUpdateCollectFull : Nat := 0x030B
abbrev stUnmapped : Nat := 0x0401
abbrev stStreamFragmented : Nat := 0x0402
abbrev stNoWrite : Nat := 0x0403
abbrev stAccessDenied : Nat := 0x0404
abbrev stMemUncorrectable : Nat := 0x0405
abbrev stMemChannelDead : Nat := 0x0406
abbrev stContextNotOwned : Nat := 0x0407
abbrev stContextRetired : Nat := 0x0408
abbrev stExtentLimit : Nat := 0x0409
abbrev stExtentOverlap : Nat := 0x040A
abbrev stExtentNotOwned : Nat := 0x040B
abbrev stFrameInUse : Nat := 0x040C
abbrev stExtentNoSpace : Nat := 0x040D
abbrev stShareListFull : Nat := 0x040E
abbrev stExtentSplit : Nat := 0x040F
abbrev stExtentInUse : Nat := 0x0410
abbrev stWindowNotOwned : Nat := 0x0411
abbrev stWindowInUse : Nat := 0x0412
abbrev stMapoutPending : Nat := 0x0413
abbrev stStackLost : Nat := 0x0414
abbrev stShareRevoked : Nat := 0x0415
abbrev stFaultqOverflow : Nat := 0x0416
abbrev stNoRead : Nat := 0x0417
abbrev stShareSourceInvalid : Nat := 0x0418
abbrev stBeatRenumbered : Nat := 0x0501
abbrev stExpertNotGranted : Nat := 0x0502
abbrev stNotOperator : Nat := 0x0503
abbrev stConfigSetArmed : Nat := 0x0504
abbrev stPartitionOverlap : Nat := 0x0505
abbrev stConfigDiscarded : Nat := 0x0506
abbrev stRetracted : Nat := 0x0601
abbrev stTestFailed : Nat := 0x0602
abbrev stTargetNotOwned : Nat := 0x0603
abbrev stRecorderArmed : Nat := 0x0701
abbrev stMonitorNotArmed : Nat := 0x0702
abbrev stTimeUnlocked : Nat := 0x0801
abbrev stNotInGroup : Nat := 0x0802
abbrev stAlreadyInGroup : Nat := 0x0803
abbrev stGroupRefused : Nat := 0x0804
abbrev stKeyDomainNotOwned : Nat := 0x0901
abbrev stKeyDomainInvalid : Nat := 0x0902
abbrev stKeyDomainInUse : Nat := 0x0903
abbrev stKeyDomainExists : Nat := 0x0904
abbrev stHostAccessFault : Nat := 0x0A01
abbrev stCompletionBlocked : Nat := 0x0A02
abbrev stNetNack : Nat := 0x0B01
abbrev stNetUnreachable : Nat := 0x0B02
abbrev stNetConfigMismatch : Nat := 0x0B03

/-- The codes marked Record in R315: such a failure places a fault record and halts its queue (10 R273). -/
def placesRecord (st : Nat) : Bool :=
  st ∈ [stUnmapped, stStreamFragmented, stNoWrite, stAccessDenied, stMemUncorrectable, stMemChannelDead, stNoRead,
    stHostAccessFault, stNetNack, stNetUnreachable]

/-! ### Local sources (02 R55) -/

abbrev srcClover : Nat := 0x0000
abbrev srcCmd : Nat := 0x0001
def srcTile (t : Nat) : Nat := 0x0010 + t
def srcChan (c : Nat) : Nat := 0x0100 + c
def srcPort (k : Nat) : Nat := 0x0200 + k
abbrev srcHost : Nat := 0x0210
def srcH2d (e : Nat) : Nat := 0x0300 + e
def srcD2h (e : Nat) : Nat := 0x0308 + e
def srcYarrow (d : Nat) : Nat := 0x0400 + d
/-- The Teasel scheduler of a die (02 R55). -/
def srcTeasel (d : Nat) : Nat := 0x0410 + d
abbrev srcPower : Nat := 0x0500

/-! ### Event codes (17 R457) -/

abbrev evTimeStep : Nat := 0x0001
abbrev evTimeState : Nat := 0x0002
abbrev evCloverFired : Nat := 0x0003
abbrev evConfigApplied : Nat := 0x0101
abbrev evApplyOverrun : Nat := 0x0201
abbrev evUpdateLate : Nat := 0x0202
abbrev evVersionFreed : Nat := 0x0203
abbrev evMemCorrected : Nat := 0x0301
abbrev evMemUncorrectable : Nat := 0x0302
abbrev evMapoutCandidate : Nat := 0x0303
abbrev evMapoutDone : Nat := 0x0304
abbrev evRetrainFail : Nat := 0x0305
abbrev evChannelDead : Nat := 0x0306
abbrev evStackReady : Nat := 0x0307
abbrev evAccessDenied : Nat := 0x0401
abbrev evClockStep : Nat := 0x0501
abbrev evThermalProtect : Nat := 0x0502
abbrev evEstimateLow : Nat := 0x0601
abbrev evDurationOverrun : Nat := 0x0602
abbrev evFlowGiveUp : Nat := 0x0701
abbrev evLinkState : Nat := 0x0702
abbrev evGroupChange : Nat := 0x0703
abbrev evMismatch : Nat := 0x0801
abbrev evSuspectWindow : Nat := 0x0802
abbrev evTileState : Nat := 0x0803
abbrev evModuleFault : Nat := 0x0804
abbrev evRollbackUpdateFailed : Nat := 0x0901
abbrev evBoot : Nat := 0x0902
abbrev evLinkLoss : Nat := 0x0A01
abbrev evScrubPass : Nat := 0x0B01
abbrev evCalibration : Nat := 0x0B02
abbrev evFlashWear : Nat := 0x0B03
abbrev evAgingSummary : Nat := 0x0B04
abbrev evMarker : Nat := 0x0C01
abbrev evEventsSuppressed : Nat := 0x0C02

/-- The events marked Boot in R457. -/
def bootEvent (code : Nat) : Bool :=
  code ∈ [evTimeStep, evTimeState, evCloverFired, evMapoutCandidate, evMapoutDone, evChannelDead, evStackReady,
    evThermalProtect, evGroupChange, evSuspectWindow, evTileState, evModuleFault, evRollbackUpdateFailed, evBoot,
    evLinkLoss, evFlashWear]

/-- The events the rate limit never suppresses (17 R458). -/
def neverSuppressed (code : Nat) : Bool :=
  code ∈ [evTimeStep, evTimeState, evModuleFault, evBoot, evMarker]

end Sys2Proof.Machine
end

