-- ==== Sys2Proof/Machine/State.lean ====
section
/-! DEFINITION. The state of the KY8 as plain data: every register, table, queue, buffer, counter, mode and pin
spec/ names, with the queue of commands waiting. Sparse maps (SMap) hold the numbered tables; what an unlisted
entry reads as is the table's default, named beside it. -/

namespace Sys2Proof.Machine

/-- Why a step stops with a fault. -/
inductive Fault where
  /-- LOOP at nesting depth 8: the spec allows at most 8 and gives no effect beyond (05 R126). Raised by LOOP. Safe. -/
  | loopDepth
  /-- LEND with no LOOP open in the present body: the spec gives no effect (05 R126). Raised by LEND. Safe. -/
  | lendWithoutLoop
  /-- VEND with no VLOOP open: the spec gives no effect (05 R126). Raised by VEND. Safe. -/
  | vendWithoutVloop
  /-- LOOP or VLOOP inside a VLOOP body, which R126 forbids without an effect. Raised by LOOP and VLOOP. Safe. -/
  | loopInVloop
  deriving DecidableEq, Repr

/-- Why a step has no meaning. -/
inductive Refusal where
  /-- The command has no meaning yet. Raised by Dispatch only. Safe. -/
  | notModelled (mnemonic : String)
  deriving DecidableEq, Repr

/-! ### Time, beats, Clover (02_time_and_beats) -/

/-- TIME.STATUS.STATE (02 R43, R49). -/
inductive LockState where
  | unlocked | degraded | locked
  deriving DecidableEq, Repr

/-- The correction in force (02 R42). -/
inductive Correction where
  | none
  | slew (offset : Int)      -- remaining offset in ns, corrected at up to 500 ppm
  | halfRate (offset : Int)  -- TSC ahead by more than 1 ms and no group member
  deriving DecidableEq, Repr

/-- A kept ToD message (02 R39). -/
structure Tod where
  taiSec    : Nat
  utcOffset : Nat
  flags     : Nat
  arrived   : Nat
  deriving DecidableEq, Repr

/-- Clover's time-stamp counter and its discipline (02 R34 to R44). -/
structure Clock where
  /-- TIME.TSC, 64 bits, R34; reset 0 (R37) -/
  tsc : Nat := 0
  /-- sub-nanosecond fraction, 16 bits, R34; reset DESIGN CHOICE 0 (log 7) -/
  frac : Nat := 0
  /-- ticks of the oscillator since the last whole 125, for a slew of exactly 500 ppm (the MODEL's, log 3), R42; reset DESIGN CHOICE 0 (log 3) -/
  phase : Nat := 0
  /-- latched upper half of TIME.TSC per function, 32 bits, R36; reset: nothing latched, DESIGN CHOICE 0 (log 7) -/
  latch : SMap U32 := []
  /-- TIME.CTRL, 32 bits, R49; reset 0 -/
  ctrl : U32 := 0
  /-- TIME.STATUS.STATE, 2 bits, R43 R49; reset UNLOCKED -/
  lock : LockState := .unlocked
  /-- TIME.STATUS.EVER_LOCKED, 1 bit, R49; reset 0 -/
  everLocked : Bool := false
  /-- TIME.STATUS.HOLDOVER, 1 bit, R49; reset 0 -/
  holdover : Bool := false
  /-- TIME.STATUS.STEP_OCCURRED, 1 bit W1C, R42 R49; reset 0 -/
  stepOccurred : Bool := false
  /-- TIME.STATUS.GOOD_COUNT, 8 bits, R43 R49; reset 0 -/
  goodCount : Nat := 0
  /-- TIME.OFFSET, 32 bits signed, R49; reset 0 -/
  offset : Int := 0
  /-- a measurement has arrived since power-on, R42; reset no -/
  measured : Bool := false
  /-- TSC of the last valid measurement, R43; reset 0 (power-on) -/
  lastValid : Nat := 0
  /-- TSC at which the state became UNLOCKED, R44; reset 0 -/
  unlockedSince : Nat := 0
  /-- the correction in force, R42; reset none -/
  corr : Correction := .none
  /-- the kept ToD message, R39; reset none -/
  tod : Option Tod := none
  /-- UTC_OFFSET of the last ToD message that labelled an edge, 16 bits, R39; reset DESIGN CHOICE 0 (log 7) -/
  utcOffset : Nat := 0
  /-- FLAGS of that message, 8 bits, R39; reset DESIGN CHOICE 0 (log 7) -/
  todFlags : Nat := 0
  /-- 1PPS output: TSC of the last rising edge driven, R41; reset none -/
  ppsEdge : Option Nat := none
  deriving DecidableEq, Repr

/-- A pending BEAT.PERIOD switch (02 R47). -/
structure Switch where
  at_       : Nat    -- S in ns (BEAT.SWITCH_AT)
  periodUs  : Nat
  headUs    : Nat
  deriving DecidableEq, Repr

/-- Beats (02 R45 to R53). -/
structure Beat where
  /-- BEAT.PERIOD.US, 14 bits, R45 R49; reset 250 -/
  periodUs : Nat := 250
  /-- BEAT.HEAD.US, 6 bits, R45 R49; reset 10 -/
  headUs : Nat := 10
  /-- a new head waiting for the next beat, R47; reset none -/
  nextHeadUs : Option Nat := none
  /-- BEAT.SWITCH_AT and the pending new values, 64 bits, R47 R49; reset 0 (none) -/
  switch : Option Switch := none
  /-- start of the last beat whose edge was taken, R50; reset none -/
  edge : Option Nat := none
  /-- beat edges seen, for durations counted in beats, R48; reset 0 -/
  edges : Nat := 0
  /-- the last period switch: S and the old period in ns, for beats named by messages formed before it, R48; reset none -/
  lastSwitch : Option (Nat × Nat) := none
  /-- admission is paused (steps 2 to 7), R50 R51; reset not paused -/
  paused : Bool := false
  /-- the beat head is running, R45; reset no -/
  inHead : Bool := false
  /-- BROWNOUT limit in force for this beat, R481; reset no -/
  brownout : Bool := false
  deriving DecidableEq, Repr

/-- Clover's comparators (02 R56). -/
structure Clover where
  /-- CLOVER.WAKE0 to WAKE3, 64 bits each, R56; reset 0 -/
  wake : SMap U64 := []
  /-- CLOVER.TEMP0.LIMIT, 8 bits, R56; reset 0x5F -/
  temp0 : Nat := 0x5F
  /-- CLOVER.TEMP1.LIMIT, 8 bits, R56; reset 0x5F -/
  temp1 : Nat := 0x5F
  /-- CLOVER.SUPPLY.LIMIT, 8 bits, R56; reset 0xB4 -/
  supply : Nat := 0xB4
  /-- CLOVER.LINK.SEL, 5 bits, R56; reset 0x10 -/
  link : Nat := 0x10
  /-- CLOVER.CTRL, 32 bits, R56; reset 0 -/
  ctrl : U32 := 0
  /-- CLOVER.FIRED, 8 bits W1C, R56; reset 0 -/
  fired : U32 := 0
  deriving DecidableEq, Repr

/-! ### Power, module registers, boot (18, 19, 16) -/

/-- Power states (18 R464). -/
inductive PState where
  | s0 | s1 | s2 | s3
  deriving DecidableEq, Repr

/-- What supplies run (19 R481, R487). -/
inductive Rails where
  | on            -- all rails of the power state
  | uvOff         -- the hot-swap switch is open: Clover alone
  | hubOff        -- the hub tripped: Clover alone
  | none_         -- input lost
  deriving DecidableEq, Repr

structure Power where
  /-- PWR.CTRL.TARGET, 2 bits, R465; reset 0 -/
  target : PState := .s0
  /-- PWR.CTRL.AUTO_S1, 1 bit, R465; reset 0 -/
  autoS1 : Bool := false
  /-- PWR.CTRL.IDLE_US, 16 bits, R465; reset 100 -/
  idleUs : Nat := 100
  /-- PWR.STATUS.STATE, 2 bits, R465; reset S0 -/
  state : PState := .s0
  /-- PWR.STATUS.ENTERING, 1 bit, R465; reset 0 -/
  entering : Bool := false
  /-- PWR.STATUS.READY, 1 bit, R465; reset 0 -/
  ready : Bool := false
  /-- PWR.STATUS.LAST_WAKE, 4 bits, R465; reset 0 -/
  lastWake : Nat := 0
  /-- PWR.STATUS.LAST_RESET, 8 bits, R465; reset 0 -/
  lastReset : Nat := 0
  /-- PWR.STATUS.WARM_RESETS, 32 bits saturating, R465; reset 0 -/
  warmResets : Nat := 0
  /-- a wake from S2 is running, R468; reset no -/
  waking : Bool := false
  /-- supplies, R481 R487; reset on -/
  rails : Rails := .on
  /-- WAKE# asserted, R469 R477; reset no -/
  wakePin : Bool := false
  /-- a module fault is in force (cause code of R457), R424; reset none -/
  moduleFault : Option Nat := none
  /-- MOD.THERMAL.PROTECT, 4 bits, R488; reset 0 -/
  protect : U32 := 0
  /-- MOD.THERMAL.DIE_TRIP, 4 bits W1C, R488; reset 0 -/
  dieTrip : U32 := 0
  /-- MOD.THERMAL.HUB_TRIP, 1 bit W1C, R488; reset 0 -/
  hubTrip : Bool := false
  /-- MOD.SUPPLY.INPUT, 8 bits, R488; reset 0 -/
  input : Nat := 0
  /-- MOD.SUPPLY.BROWNOUT, 1 bit, R488; reset 0 -/
  brownout : Bool := false
  /-- MOD.SUPPLY.UV_TRIP, 1 bit W1C, R488; reset 0 -/
  uvTrip : Bool := false
  /-- MOD.PPS, 32 bits, R483 R488; reset 0 -/
  modPps : U32 := 0
  /-- MOD.STRAP, 2 bits, R478 R488; sampled at power-on; reset DESIGN CHOICE 3, both straps open (log 7) -/
  strap : Nat := 3
  deriving DecidableEq, Repr

/-- What module flash keeps (18 R471) and the identity (16 R430 to R439). -/
structure Sec where
  /-- booted slot, SEC.STATUS.SLOT, 1 bit, 16 R439; reset 0 -/
  slot : Nat := 0
  /-- recovery mode, SEC.STATUS.RECOVERY, 1 bit, 16 R436 R439; reset 0 -/
  recovery : Bool := false
  /-- TEST_PORT_OPENED, 1 bit, 16 R438 R439; reset 0 -/
  testPort : Bool := false
  /-- the manufacturing test access port is open, 16 R438; reset closed -/
  portOpen : Bool := false
  /-- the write of MIN_SVN was tried at this boot, 16 R437; reset no -/
  svnTried : Bool := false
  /-- SEC.STATUS.TRNG, 2 bits, 16 R439 R440; reset 0 -/
  trng : Nat := 0
  /-- consecutive TRNG health failures, 16 R440; reset 0 -/
  trngFails : Nat := 0
  /-- running SVN, 32 bits, 16 R433 R439; reset 0 -/
  svn : Nat := 0
  /-- manifest MIN_SVN of the running image, 32 bits, 16 R434; reset DESIGN CHOICE 0 (log 7) -/
  manifestMinSvn : Nat := 0
  /-- stored MIN_SVN (flash), 32 bits, 16 R437; reset DESIGN CHOICE 0 (log 7) -/
  minSvn : Nat := 0
  /-- preferred slot (flash), 16 R435 R437; reset DESIGN CHOICE 0 (log 7) -/
  preferred : Nat := 0
  /-- stored MIN_SVN of the TEST_UNLOCK record type (flash), 16 R437 R438; reset DESIGN CHOICE 0 (log 7) -/
  unlockMinSvn : Nat := 0
  /-- firmware measurement (32 bytes), 16 R434; reset DESIGN CHOICE empty (log 7) -/
  fwDigest : List Byte := []
  /-- component digests in manifest order, 16 R434 R444; reset DESIGN CHOICE empty (log 7) -/
  components : List (List Byte) := []
  /-- firmware images written over PLDM into the two slots: (slot, bytes), 16 R436; reset none -/
  images : SMap (List Byte) := []
  /-- slot that failed verification last, 16 R436; reset none -/
  failedSlot : Option Nat := none
  /-- TSC at which the firmware started, for the 60 s of 16 R437; reset none -/
  fwStart : Option Nat := none
  /-- REPLACE mark (flash), 15 R424, 16 R433; reset 0 -/
  replace : Bool := false
  /-- TSC and cause of module faults within 24 h, 15 R424; reset none -/
  faultLog : List (Nat × Nat) := []
  /-- TEST_UNLOCK nonce issued at this boot: its draw number, 16 R438; reset none -/
  unlockNonce : Option Nat := none
  /-- key domains created: domain -> incarnation number of the pair (0 = not created), 16 R441; reset none -/
  keyDomains : SMap Nat := []
  /-- number of key pairs drawn so far, 16 R441; reset 0 -/
  keyDraws : Nat := 0
  /-- configuration digests of partitions 0 to 15 and, at 16, of the device, as computed at the last beat head, 16 R446; reset DESIGN CHOICE none, read as zero (log 7) -/
  digests : SMap (List Byte) := []
  /-- SPDM connection per transport (0 PCIe VDM, 1 sideband, 2 PF DOE): negotiation stage 0 to 3, 16 R444; reset 0 -/
  spdmStage : SMap Nat := []
  /-- SPDM sessions per transport: (session id, finished, key phase), 16 R444; reset none -/
  spdmSessions : SMap (List (Nat × Bool × Nat)) := []
  /-- the MCTP endpoint ID the bus owner assigned, 19 R489; reset DESIGN CHOICE 0 (log 7) -/
  mctpEid : Nat := 0
  deriving DecidableEq, Repr

/-! ### Host link (13) -/

/-- TDISP interface states (13 R360). -/
inductive Tdi where
  | unlocked | locked | run | error
  deriving DecidableEq, Repr

/-- One MSI-X vector (13 R350). -/
structure Vector_ where
  addr    : U64 := 0
  data    : U32 := 0
  masked  : Bool := true
  pending : Bool := false
  deriving DecidableEq, Repr

/-- One PCIe function (13 R341 to R347). -/
structure Func where
  /-- HOST.APERTURE, 64 bits, R347; reset 0 -/
  aperture : U64 := 0
  /-- HOST.FUNC.TDISP, 2 bits, R347 R360; reset CONFIG_UNLOCKED -/
  tdi : Tdi := .unlocked
  /-- MSI-X table (2,048 vectors of the PF, 64 of a VF), R350; reset masked and clear -/
  msix : SMap Vector_ := []
  /-- MSI-X enable, R350; reset 0 -/
  msixEnable : Bool := false
  /-- selective IDE stream of the function: key set and secure, R347 R359; reset 0 -/
  ideSecure : Bool := false
  /-- IDE key refreshes seen (key set number), R359; reset 0 -/
  ideKeySet : Nat := 0
  /-- ARRAY.DBG_CTRL.TILE, 7 bits, R103; reset 0 (held per function: the register is in the partition's expert page) -/
  dbgTile : Nat := 0
  /-- ARRAY.DBG_ROW, 32 bits, R103; reset 0 -/
  dbgRow : U32 := 0
  deriving DecidableEq, Repr

/-- A device request waiting for a back-invalidate response (13 R352 to R355). -/
structure BiWait where
  line   : Nat          -- physical address / 64
  inv    : Bool         -- BISnpInv (else BISnpData)
  since  : Nat
  /-- a host CXL.mem request held by an eviction, or none for a device request: (line, exclusive, data of a write) -/
  host   : Option (Nat × Bool × Option (List Byte))
  deriving DecidableEq, Repr

/-- The re-attach record (13 R363). -/
structure Attach where
  epoch   : Nat := 0
  flags   : Nat := 0
  downTsc : Nat := 0
  upTsc   : Nat := 0
  frozen  : Nat := 0
  stalled : Nat := 0
  lines   : Nat := 0
  /-- AFLAGS bits that the next link-up will show: a loss (1), by time-out (2), a warm reset (4) -/
  next    : Nat := 0
  deriving DecidableEq, Repr

/-- A request of the module to host memory that awaits its answer (13 R356, 09 R253). -/
structure HostReq where
  id      : Nat
  write   : Bool
  addr    : Nat
  len     : Nat
  flight  : Nat            -- command it belongs to
  /-- device address the data goes to (physical), for a read -/
  dest    : Option Nat
  func    : Nat := 0       -- function whose requester ID it carries
  part    : Nat := 0xFF    -- partition whose host tags it holds (05 R143), 0xFF none
  posted  : Bool := false  -- a posted write, which no response answers
  issued  : Bool := true   -- it has its tags and is on the link; else it waits for them (05 R141)
  data    : List Byte := []
  deriving DecidableEq, Repr

structure Link where
  /-- link trained, R339; reset down -/
  up : Bool := false
  /-- HOST.LINK.WIDTH, 5 bits, R347; reset 0 -/
  width : Nat := 0
  /-- HOST.LINK.SPEED, 3 bits, R347; reset 0 -/
  speed : Nat := 0
  /-- HOST.LINK.CXL, 1 bit, R340 R347; reset 0 -/
  cxl : Bool := false
  /-- HOST.LINK.FLIT, 1 bit, R347; reset 0 -/
  flit : Bool := false
  /-- link IDE stream and CXL IDE secure, R359; reset no -/
  linkIde : Bool := false
  /-- HOST.PF_CTRL.PERST_MODE, 1 bit, R347 R362; reset 0 -/
  perstMode : Bool := false
  /-- HOST.PF_CTRL.BI_TIMEOUT_MS, 10 bits, R347 R355; reset 10 -/
  biTimeoutMs : Nat := 10
  /-- SR-IOV VF Enable, R361 R474; reset 0 -/
  vfEnable : Bool := false
  /-- functions 0 to 255, R341; reset each at its defaults -/
  funcs : SMap Func := []
  /-- re-attach record, 64 bytes, R363; reset 0 -/
  attach : Attach := {}
  /-- snoop filter: set -> its ways in order, at most 16, each free or (line, EXCLUSIVE), R352; reset empty -/
  snoop : SMap (List (Option (Nat × Bool))) := []
  /-- rotating pointer per snoop-filter set, R354; reset 0 -/
  snoopPtr : SMap Nat := []
  /-- back-invalidates without a response, R352 R355; reset none -/
  biWaits : List BiWait := []
  /-- host-memory requests in flight, R356; reset none -/
  hostReqs : List HostReq := []
  /-- copy engines 0 to 15: the copy each served last, R357; reset none -/
  engines : SMap Nat := []
  /-- next host request number (the MODEL's tag), R142; reset 0 -/
  nextReq : Nat := 0
  deriving DecidableEq, Repr

/-! ### Device memory (08, 09) -/

/-- A frame-owner entry (09 R243). -/
structure Owner where
  owner     : Nat
  keyDomain : Nat
  partition : Nat
  ownerW    : Bool
  /-- SHARE0 to SHARE3 with their write bits, by slot -/
  shares    : SMap (Nat × Bool)
  hdm       : Bool
  deriving DecidableEq, Repr

/-- An extent-table entry (09 R238). -/
structure Extent where
  context   : Nat
  read      : Bool
  write     : Bool
  shared    : Bool
  hostVis   : Bool
  vaFrame   : Nat
  lenFrames : Nat
  paFrame   : Nat
  keyDomain : Nat
  owner     : Nat
  mapBeat   : Nat
  deriving DecidableEq, Repr

/-- Traffic classes in service order (08 R212). -/
inductive TClass where
  | lcRead | lcWrite | beRead | beWrite | background
  deriving DecidableEq, Repr

/-- Who asks (08 R218, 09 R494). -/
inductive Requester where
  | command (queue seq : Nat)   -- a stream, gather, copy or Yarrow of a command
  | cxlMem                      -- host CXL.mem
  | bar4 (func : Nat)
  | window (window : Nat)       -- an arriving Flochasel message
  | scrub
  | moving                      -- map-out, zero-fill, calibration
  deriving DecidableEq, Repr

/-- A request at a channel controller (08 R204 to R214). -/
structure ChanReq where
  id       : Nat
  context  : Option Nat        -- none: background, carries no context (R245)
  write    : Bool
  pa       : Nat
  bytes    : List Byte         -- data of a write
  nibbles  : List Nat          -- nibble index from pa of a lone-nibble write (R60, R208)
  len      : Nat
  cls      : TClass
  teasel   : Bool
  who      : Requester
  partition : Nat
  arrived  : Nat
  stream   : Nat               -- which stream of its command asks (R206): 0 the command itself
  mode     : Nat               -- MEM.ECC_CTRL.MODE as the request was issued (R216)
  deriving DecidableEq, Repr

/-- What a served request answered (08 R217, R218). -/
structure ChanDone where
  id     : Nat
  data   : List Byte
  status : Nat                 -- 0, ACCESS_DENIED, MEM_UNCORRECTABLE or MEM_CHANNEL_DEAD
  deriving DecidableEq, Repr

/-- Channel states (08 R232). -/
inductive ChState where
  | active | retraining | mappedOut | dead
  deriving DecidableEq, Repr

/-- One HBM channel (08 R204 to R232). -/
structure Channel where
  /-- MEM.CH_STATUS.STATE, 2 bits, R232; reset ACTIVE -/
  st : ChState := .active
  /-- MEM.CH_STATUS.CANDIDATE, 1 bit, R225 R232; reset 0 -/
  candidate : Bool := false
  /-- MEM.CH_STATUS.CE_HOUR, 24 bits saturating, R217 R232; reset 0 -/
  ceHour : Nat := 0
  /-- MEM.CH_STATUS.UE_COUNT, 16 bits saturating, R218 R232; reset 0 -/
  ueCount : Nat := 0
  /-- MEM.CH_STATUS.RETRAIN_FAIL, 8 bits saturating, R232; reset 0 -/
  retrainFail : Nat := 0
  /-- consecutive failed retrainings, R223 R230; reset 0 -/
  failRun : Nat := 0
  /-- TSCs of the latest uncorrectable reads, for 16 within 1 ms, R230; reset none -/
  ueTimes : List Nat := []
  /-- 16 uncorrectable reads have come within 1 ms: the channel dies, R230; reset no -/
  ueKill : Bool := false
  /-- requests waiting, oldest first, R206 R212; reset none -/
  queue : List ChanReq := []
  /-- unmet BE guard of the 10 us window in 1/3,840 ns, R213; reset 1,920,000 (500 ns) -/
  beGuard : Nat := 1920000
  /-- unmet background guard in 1/3,840 ns, R213; reset 768,000 (200 ns) -/
  bgGuard : Nat := 768000
  /-- start of the guard window, R213; reset 0 -/
  window : Nat := 0
  /-- slot in which the channel's retraining failed and waits for its retry, R223; reset none -/
  retry : Option Nat := none
  /-- the previous long-path request: who, which stream and where, for a hidden T_OPEN, R206; reset none -/
  last : Option (Requester × Nat × Nat) := none
  /-- refreshes done, R222; reset 0 -/
  refreshes : Nat := 0
  /-- corrected and uncorrectable granules of the present scrub pass, R457 SCRUB_PASS; reset 0 -/
  passCe : Nat := 0
  passUe : Nat := 0
  deriving DecidableEq, Repr

/-- A staging slot of the map-out journal (08 R227). -/
inductive SlotPhase where
  | reading | staged | written
  deriving DecidableEq, Repr

structure StageSlot where
  stack : Nat
  frame : Nat
  phase : SlotPhase
  deriving DecidableEq, Repr

/-- MEM.MAPOUT_STATUS.PHASE (08 R233). -/
inductive MapPhase where
  | idle | waiting | moving | zeroFill
  deriving DecidableEq, Repr

/-- One HBM stack (08 R205, R225 to R231, R233). -/
structure Stack where
  /-- MEM.MAPOUT_STATUSn.PHASE, 2 bits, R233; reset IDLE -/
  phase : MapPhase := .idle
  /-- MEM.MAPOUT_STATUSn.CHANNEL, 4 bits, R233; reset 0 -/
  channel : Nat := 0
  /-- lowest owned frame named in the last MAPOUT_PENDING record, R226; reset none -/
  waitFrame : Option Nat := none
  /-- the channel left out of the 15-way map (flash), R205 R227; reset none -/
  out : Option Nat := none
  /-- MEM.MAPOUT_STATUSn.REDUCED, 1 bit, R233; reset 0 -/
  reduced : Bool := false
  /-- MEM.MAPOUT_STATUSn.RETIRED, 1 bit, R230 R233; reset 0 -/
  retired : Bool := false
  /-- journal: next frame to read, counting down, R227; reset none -/
  next : Option Nat := none
  deriving DecidableEq, Repr

/-- A receive window (09 R247). -/
structure Window where
  kind     : Nat           -- 0 DATA, 1 UPDATE, 2 GATHER
  read     : Bool
  write    : Bool
  atomic   : Bool
  context  : Nat
  peerMode : Nat
  peers    : List Nat      -- PEER_COUNT peers (LIST) or lowest and highest (RANGE)
  base     : Nat
  length   : Nat
  table    : Nat
  epoch    : Nat
  deriving DecidableEq, Repr

/-- A fault queue or the billing ring (09 R255 to R259, 12 R336). -/
structure Ring where
  /-- BASE (VA and CONTEXT), 64 bits, R259; reset 0 -/
  base : U64 := 0
  /-- CTRL.VECTOR, 11 bits, R259; reset 0 -/
  vector : Nat := 0
  /-- CTRL.IRQ_EN, 1 bit, R259; reset 0 -/
  irqEn : Bool := false
  /-- CTRL.BASE_VALID, 1 bit, R255 R259; reset 0 -/
  valid : Bool := false
  /-- HEAD, 32 bits, R259; reset 0 -/
  head : Nat := 0
  /-- TAIL, 32 bits, R259; reset 0 -/
  tail : Nat := 0
  /-- OVERFLOW, 32 bits saturating, R257 R259; reset 0 -/
  overflow : Nat := 0
  /-- LOST, 32 bits saturating, R255 R259; reset 0 -/
  lost : Nat := 0
  /-- records dropped since the last FAULTQ_OVERFLOW record, R257; reset 0 -/
  dropped : Nat := 0
  /-- RSEQ of the next record, 8 bits, R256; reset 0 -/
  rseq : Nat := 0
  deriving DecidableEq, Repr

/-- Context states (09 R251). -/
structure Retiring where
  context : Nat
  flight  : Option Nat     -- the RETIRE_CONTEXT that waits; none for a partition reset
  deriving DecidableEq, Repr

structure Mem where
  /-- HBM plaintext bytes by physical address, 44 bits, 09 R235; an unlisted byte of a written granule is 0, of a granule nothing has written free (log 4); reset: nothing listed -/
  cells : List Host.Cell := []
  /-- key pair (incarnation) each written granule was encrypted under: granule (PA/64) -> incarnation, 08 R220 R221; reset none -/
  keyTag : SMap Nat := []
  /-- frames zero-filled by the device and the key pair used: an unlisted granule of such a frame is zero plaintext under it, 08 R231, 09 R239; reset none -/
  zeroed : SMap Nat := []
  /-- poisoned granules (PA/64), ascending, 08 R219; reset none -/
  poison : List Nat := []
  /-- frame-owner tables of the four dies: frame number -> entry, 09 R243; reset none owned -/
  owners : SMap Owner := []
  /-- extent table, 65,536 entries, 09 R238; reset none -/
  extents : SMap Extent := []
  /-- contexts in RETIRING, with the command that waits (the retired vector of 09 R251); reset none -/
  retiring : List Retiring := []
  /-- receive-window table, 4,096 entries, 09 R247; reset all closed -/
  windows : SMap Window := []
  /-- memory channels 0 to 255, 08 R232; reset ACTIVE and zero -/
  channels : SMap Channel := []
  /-- HBM stacks 0 to 15, 08 R233; reset 16-way -/
  hbm : SMap Stack := []
  /-- served requests not yet consumed, 08 R206; reset none -/
  done : List ChanDone := []
  /-- requests that wait for a tag of their pool, oldest first, 05 R141 R142; reset none -/
  tagWaits : List ChanReq := []
  /-- stored granules with wrong symbols: how many, and whether the decoder miscorrects them beyond its reach, 08 R215 R216; reset none -/
  errors : SMap (Nat × Bool) := []
  /-- the two staging slots of hub SRAM with their journal, 08 R227 R233; reset none -/
  stage : SMap StageSlot := []
  /-- stack whose frame took a staging slot last, 08 R233; reset DESIGN CHOICE 15 (log 32) -/
  stageLast : Nat := 15
  /-- number of the retraining slot begun last, counted from TSC 0, 08 R223; reset 0 -/
  trainSlot : Nat := 0
  /-- next channel request number (the MODEL's), 08 R214; reset 0 -/
  nextId : Nat := 0
  /-- MEM.ECC_CTRL.MODE, 2 bits, 08 R216 R233; reset 0 -/
  eccMode : Nat := 0
  /-- MEM.MAPOUT_CTRL.THRESH, 16 bits, 08 R233; reset 4096 -/
  thresh : Nat := 4096
  /-- MEM.MAPOUT_CTRL.AUTO, 1 bit, 08 R233; reset 1 -/
  auto : Bool := true
  /-- MEM.MAPOUT_CTRL.RATE, 8 bits, 08 R233; reset 40 -/
  rate : Nat := 40
  /-- the partitions' fault queues, 09 R255; reset each at its defaults -/
  faultqs : SMap Ring := []
  /-- the operator's fault queue, 09 R255; reset defaults -/
  opFaultq : Ring := {}
  /-- the billing ring, 12 R336; reset defaults -/
  bill : Ring := {}
  /-- TEASEL.COALESCED0 to 3, 64 bits wrapping, 17 R462; reset 0 -/
  coalesced : SMap U64 := []
  deriving DecidableEq, Repr

/-! ### Queues and commands (10, 11) -/

/-- A fetched command (10 R263 to R269, 14 R382). -/
structure Cmd where
  seq     : Nat                    -- READY
  bytes   : List Byte              -- the 256-byte slot
  fetched : Nat                    -- TSC of the fetch
  covered : Nat                    -- TSC at which PROD first covered the slot
  /-- network origin: peer, REPLY_TAG, RESPOND -/
  origin  : Option (Nat × Nat × Bool)
  deriving DecidableEq, Repr

/-- The head command once ready: charged, admitted or held (12 R330). -/
structure Ready where
  since    : Nat
  charge   : Nat
  sampling : Nat                   -- sampling fraction code at its admission (02 R51)
  deadline : Nat
  admitted : Bool
  lc       : Bool
  hold     : Bool                  -- held for energy (R330)
  kernel   : Bool                  -- a LAUNCH_KERNEL: `tiles` and `durUs` count (R320, R321)
  tiles    : Nat
  durUs    : Nat
  slot     : List Byte             -- the slot, expert block and matrix descriptors after indirection (11 R301)
  expert   : List Byte
  mats     : List (List Byte)
  part     : Nat                   -- partition it acts for
  deriving DecidableEq, Repr

/-- Work of a running command that is admitted on its own: a node of a graph, the fetch and pooling stage of a gather on one
die of its partition (12 R327, R328). -/
structure Stage where
  flight : Nat
  index  : Nat                     -- node, or place of the die
  ready  : Ready
  deriving DecidableEq, Repr

/-- Exponent histogram and per-tensor results of a kernel's output (03 R81). -/
structure Hist where
  bins      : SMap Nat := []
  elements  : Nat := 0
  zero      : Nat := 0
  subnormal : Nat := 0
  nan       : Nat := 0
  inf       : Nat := 0
  saturated : Nat := 0
  flushed   : Nat := 0
  amax      : U32 := 0
  qstat     : U32 := 0
  replays   : Nat := 0
  deriving DecidableEq, Repr

/-- A physical segment of an armed stream (05 R135). -/
structure Seg where
  off  : Nat                          -- offset of the segment in the stream's address range, from BASE
  pa   : Nat                          -- physical (or host) address
  len  : Nat
  deriving DecidableEq, Repr

/-- A store of a store stream, issued and not acknowledged. -/
structure PendStore where
  pos   : Nat                         -- stream position of its first byte
  bytes : List Byte
  deriving DecidableEq, Repr

/-- An armed stream (05 R133 to R141). -/
structure Stream where
  kind      : Nat
  path      : Nat
  persistent : Bool
  waitMap   : Bool
  signalEn  : Bool
  rowBytes  : Nat
  rows      : Nat
  stride    : Nat
  spadOff   : Nat
  ring      : Nat
  fence     : Nat
  fenceVal  : Nat
  base      : Nat
  context   : Nat
  queue     : Nat                     -- queue that armed it
  flight    : Nat                     -- flight using it
  inUse     : Bool
  segs      : List Seg                -- [] : lost, translated again at the next use
  ready     : Nat                     -- bytes delivered (load, gather)
  pos       : Nat                     -- consumer or producer position
  acked     : Nat                     -- bytes acknowledged (store)
  pend      : List PendStore
  idx       : List Nat                -- queued row indices (gather)
  gqCount   : Nat                     -- rows delivered (gather)
  complete  : Bool
  deriving DecidableEq, Repr

/-- The kernel of a LAUNCH_KERNEL command or node (11 R307). -/
structure Kernel where
  program    : Nat
  progBytes  : Nat
  instances  : Nat
  next       : Nat                 -- next instance never started
  again      : List Nat            -- instances to start again (R413, R423)
  ended      : Nat
  tileMask   : Nat                 -- absolute tiles, bit die × 32 + tile
  sregs      : List U64
  energyUj   : Nat
  durationUs : Nat
  flagsAddr  : Nat
  shape      : Nat
  descs      : List (List Byte)
  spad       : Nat
  pin        : Bool
  noPreload  : Bool
  level      : Bool
  flags      : U32
  hists      : SMap Hist           -- per matrix descriptor
  histScale  : SMap U32            -- history scale code per descriptor, read at dispatch (R78)
  hbufs      : SMap (List Byte)    -- the 320-byte histories as read then (R78, R79)
  mma        : List (List Byte)    -- descriptors that only MMA names, numbered from 8 (04 R86)
  cls        : Bool                -- latency-critical
  lcReady    : Nat                 -- TSC at which it became ready (R448 KIND 1)
  streams    : List (Nat × Nat × Stream)   -- (tile, engine, stream) armed at dispatch (05 R135)
  started    : Bool
  deriving DecidableEq, Repr

/-- A key routed to a die's Yarrow with its destination and weight (06 R163, R164). -/
structure YKey where
  key  : Nat
  dest : Nat
  pos  : Nat
  weight : U32
  deriving DecidableEq, Repr

/-- A gather feature as resolved (06 R160, R161). -/
structure GFeature where
  table   : Nat
  version : Nat
  slot    : Nat                    -- 0 CURRENT, 2 RETIRING (slot served from)
  pool    : Nat
  outFmt  : Nat
  out     : Nat
  stride  : Nat
  counts  : List Nat               -- positions per bag (or 1 per position for NONE)
  first   : Nat                    -- number of its first position in the batch (R162)
  span    : Nat                    -- COUNT
  colgroup : Nat                   -- the table's column group
  rowOwner : Bool                  -- layout of the version
  deriving DecidableEq, Repr

/-- A GATHER in progress (06 R161 to R176). -/
structure Gather where
  /-- dies whose Yarrow has begun the batch (07 R191) -/
  begun    : List Nat := []
  /-- this device's part is pooled -/
  pooled   : Bool := false
  /-- peers whose answers are outstanding: (peer, 0 slices of a column split or 1 partials of row owners, messages arrived) -/
  awaits   : List (Nat × Nat × Nat) := []
  /-- FP32 partial vectors of row-owner features in order of arrival: (feature, destination, codes), R176 -/
  partials : List (Nat × Nat × List U32) := []
  features : List GFeature
  bags     : Nat
  keys     : SMap (List YKey)      -- per partition die
  work     : List Nat
  workBytes : Nat
  pfence   : Nat
  clamped  : Bool
  done     : List Nat              -- dies whose Yarrow batch has ended
  reran    : List Nat              -- dies whose batch was re-run once (R423)
  fetched  : List Nat              -- dies whose fetch and pooling stage has ended
  held     : Bool                  -- fetches withheld by an apply window (R201)
  echoAddr : Nat
  deriving DecidableEq, Repr

/-- A LAUNCH_GRAPH in progress (11 R308). -/
structure Graph where
  nodes   : Nat
  addr    : Nat
  started : List Nat
  starts  : SMap (Nat × Nat)       -- node -> TSC and beat-edge count of its dispatch (15 R419)
  ended   : List Nat
  failed  : Option (Nat × Nat)     -- first node to fail and its status
  cur     : SMap Nat               -- running node -> flight number of its sub-command
  deriving DecidableEq, Repr

/-- What a dispatched command still waits for. -/
inductive Work where
  | none_
  | kernel (k : Kernel)
  | gather (g : Gather)
  | graph (g : Graph)
  | fences (l : List (Nat × Nat)) (since : Nat)      -- FENCE_WAIT entries
  | unmap (extents : List Nat)                        -- EXTENT_UNMAP waiting for kernels (R138)
  | rearm (tile engine base : Nat)                    -- STREAM_REARM waiting for its stream (R137)
  | host                                              -- host transfers in flight
  | net                                               -- Flochasel messages in flight
  | beat                                              -- an armed table action, set, join or leave
  | retire                                            -- RETIRE_CONTEXT draining
  | window (window : Nat)                             -- WINDOW_CLOSE draining
  | test (left : List Nat) (failed : List Nat) (detail action : Nat)   -- TEST_RUN: units left, units with a fault
  deriving DecidableEq, Repr

/-- A dispatched command, until its (last) completion record is written. -/
structure Flight where
  num      : Nat                   -- the MODEL's number of this flight
  queue    : Nat
  seq      : Nat
  opcode   : Nat
  slot     : List Byte             -- 256 bytes, after indirection
  expert   : List Byte             -- 256 bytes expert block or []
  level    : Bool
  part     : Nat
  context  : Nat
  node     : Option (Nat × Nat)    -- graph flight number and node index, for a node
  origin   : Option (Nat × Nat × Bool)
  covered  : Nat
  start    : Nat
  since    : Nat                   -- TSC at which it became ready (12 R330)
  charge   : Nat
  sampling : Nat                   -- sampling fraction code at its admission (02 R51)
  lc       : Bool
  reserved : Bool                  -- dispatched: its records are counted in the completion ring (R277)
  status   : Nat
  done     : Option Nat            -- END: conditions met at this TSC
  echo     : Nat
  echoBlock : Bool
  signalled : Bool
  early    : Bool                  -- first record of an EARLY command written
  deps     : List Nat              -- unresolved checks it depends on (R416)
  prov     : List (Nat × Nat)      -- provisional messages it depends on: (sender, tag)
  repeatable : Bool
  startEdge : Nat                  -- beat edges seen at dispatch (R421)
  denied   : Option (Nat × Nat)    -- first blocked granule's address, granules (R494)
  deniedW  : Bool
  uncorr   : Option (Nat × Nat)    -- first uncorrectable granule's address, granules (R494)
  hostFault : Option Nat           -- first rejected host address (R253)
  record   : Option Nat            -- address named by a fault record of STATUS
  netReason : Nat                  -- NACK reason (R387)
  chan     : Nat                   -- channel concerned by MEM_CHANNEL_DEAD (R256 DETAIL)
  msgs     : Nat                   -- Flochasel messages outstanding
  hosts    : Nat                   -- host requests outstanding
  engine   : Option Nat := none    -- copy engine it runs on, 13 R357
  retracted : Bool
  work     : Work
  deriving DecidableEq, Repr

/-- Whether a queue is enabled (10 R291). -/
inductive QLife where
  | disabled | enabled | resetting
  deriving DecidableEq, Repr

/-- One queue (10 R261). -/
structure Queue where
  /-- QCTX.SQ, 64 bits, R261; reset 0 -/
  sq : U64 := 0
  /-- QCTX.CQ, 64 bits, R261; reset 0 -/
  cq : U64 := 0
  /-- QCTX.SHADOW, 64 bits, R261; reset 0 -/
  shadow : U64 := 0
  /-- QCTX.CFG.SQ_SIZE, 4 bits, R261; reset 6 -/
  sqSize : Nat := 6
  /-- QCTX.CFG.CQ_SIZE, 4 bits, R261; reset 6 -/
  cqSize : Nat := 6
  /-- QCTX.CFG.SQ_LOC, 1 bit, R261; reset 0 -/
  sqHost : Bool := false
  /-- QCTX.CFG.CQ_LOC, 1 bit, R261; reset 0 -/
  cqHost : Bool := false
  /-- QCTX.CFG.SOURCE, 1 bit, R261; reset 0 -/
  netFed : Bool := false
  /-- QCTX.CFG.ON_FAIL, 1 bit, R261; reset 0 -/
  onFail : Bool := false
  /-- QCTX.CFG.DEPTH, 9 bits, R261; reset 64 -/
  depth : Nat := 64
  /-- QCTX.CFG.VECTOR, 11 bits, R261; reset 0 -/
  vector : Nat := 0
  /-- QCTX.CTRL.CLASS, 1 bit, R261 R319; reset 0 (best-effort) -/
  lc : Bool := false
  /-- QCTX.CTRL.CFG_ERR, 1 bit, R261; reset 0 -/
  cfgErr : Bool := false
  /-- DISABLED, enabled or RESETTING, R291; reset DISABLED -/
  life : QLife := .disabled
  /-- FROZEN, R285 R291; reset no -/
  frozen : Bool := false
  /-- HALTED, R273 R291; reset no -/
  halted : Bool := false
  /-- COMPLETION_BLOCKED, R282 R291; reset no -/
  blocked : Bool := false
  /-- WAIT_MAP since this TSC, R136 R290 R291; reset no -/
  waitMap : Option Nat := none
  /-- REISSUE written: the head starts again from a fresh translation, R274; reset no -/
  reissue : Bool := false
  /-- WAIT_FENCE since this TSC, R287 R291; reset no -/
  waitFence : Option Nat := none
  /-- PARKED, R270 R291; reset no -/
  parked : Bool := false
  /-- QCTX.CTRL.GEN, 16 bits wrapping, R261; reset 0 -/
  gen : Nat := 0
  /-- QCTX.PROD, 32 bits, R261; reset 0 -/
  prod : Nat := 0
  /-- QCTX.SQ_HEAD, 32 bits, R261; reset 0 -/
  sqHead : Nat := 0
  /-- QCTX.CQ_TAIL, 32 bits, R261; reset 0 -/
  cqTail : Nat := 0
  /-- QCTX.CQ_HEAD, 32 bits, R261; reset 0 -/
  cqHead : Nat := 0
  /-- the shadow completion ring's records with their interrupt due, oldest first (SHADOW_CNT is its length, 9 bits), R282 to R284; reset empty -/
  shadowRing : List (List Byte × Bool) := []
  /-- QCTX.COUNTS.DB_STALE_GEN, 16 bits saturating, R261; reset 0 -/
  staleGen : Nat := 0
  /-- QCTX.COUNTS.DB_CLAMPED, 16 bits saturating, R261; reset 0 -/
  clamped : Nat := 0
  /-- QCTX.COUNTS.PARKS, 16 bits saturating, R261; reset 0 -/
  parks : Nat := 0
  /-- QCTX.COUNTS.SWEEP_RESUMES, 16 bits saturating, R261; reset 0 -/
  resumes : Nat := 0
  /-- QCTX.HALT.SEQ, 32 bits, R261 R273; reset 0 -/
  haltSeq : Nat := 0
  /-- QCTX.HALT.STATUS, 16 bits, R261 R273; reset 0 -/
  haltStatus : Nat := 0
  /-- re-reads of a stale slot done and the TSC of the last read (none: no stale read outstanding), R270; reset none -/
  rereads : Option (Nat × Nat) := none
  /-- peer, REPLY_TAG and RESPOND of the SENDs in slots not fetched, by slot count, R268, 14 R382; reset none -/
  origins : SMap (Nat × Nat × Bool) := []
  /-- TSC at which PROD last rose, R448; reset 0 -/
  coveredAt : List (Nat × Nat) := []
  /-- commands fetched and not dispatched, oldest first, R269; reset none -/
  fetched : List Cmd := []
  /-- the head once ready, R330; reset none -/
  ready : Option Ready := none
  deriving DecidableEq, Repr

/-! ### Tiles (04, 05) -/

/-- What a run of an instance is for (15 R401 to R412). -/
inductive Role where
  | primary | duplicate | third
  deriving DecidableEq, Repr

/-- The run on a tile (05 R126, 15 R402). -/
structure Run where
  flight   : Nat
  inst     : Nat
  role     : Role
  start    : Nat
  check    : Option Nat
  lc       : Bool
  durationUs : Nat
  overrun  : Bool                     -- DURATION_OVERRUN already written
  meter    : Nat                      -- TSC up to which its tile time is metered (12 R335)
  hold     : Bool                     -- in place and checked: stores held (R405)
  outs     : SMap Byte                -- bytes stored, by offset within the instance's output (device virtual address)
  nibs     : SMap Nat                 -- lone nibbles stored, key 2 × address + 1 for a high one (03 R60)
  hists    : SMap Hist
  guardBits : List Bool                -- guard decisions in order
  fences   : List (Nat × Nat)         -- fences signalled while its stores are held: raised once they are written (01 R24)
  deriving DecidableEq, Repr

/-- What stalls a sequencer (05 R126). -/
inductive Stall where
  | none_
  | swait (s n : Nat)
  | sdrain (s : Nat)
  | mwait
  | fwait (f v since : Nat)
  | bar (g : Nat)
  | ending
  deriving DecidableEq, Repr

/-- An open LOOP (05 R126). -/
structure Loop where
  body : Nat                          -- pc of the body's first instruction
  left : Nat                          -- runs left, this one included
  deriving DecidableEq, Repr

/-- An open VLOOP (05 R113). -/
structure VLoop where
  body   : Nat
  strip  : Nat
  strips : Nat
  deriving DecidableEq, Repr

/-- A matrix instance on an array (04 R84 to R111). -/
structure Matrix where
  desc     : Nat                      -- index of the descriptor: the launch's own, from 8 on those named by MMA alone (R86)
  bytes    : List Byte                -- the 256-byte descriptor
  halted   : Bool
  resumed  : Bool
  chunks   : Nat                      -- DBG_STATE.CHUNKS
  runPos   : Nat                      -- DBG_STATE.RUN_POS
  replay   : Bool                     -- guard replay running (R80)
  held     : List (Nat × List Byte)   -- inputs held in scratchpad for it: address and bytes (R80)
  ended    : Bool
  deriving DecidableEq, Repr

/-- Ramp states of an array (04 R108). -/
inductive Ramp where
  | idle | up
  deriving DecidableEq, Repr

/-- Why a tile is withdrawn (15 R413, R426 to R429). -/
inductive Withdrawn where
  | selfTest | calibration | test (flight : Nat) | quarantine
  deriving DecidableEq, Repr

structure Tile where
  /-- context whose data the scratchpad holds, 05 R130; reset none -/
  context : Option Nat := none
  /-- scratchpad, 6 MiB, 05 R129; unlisted bytes read 0; reset DESIGN CHOICE 0 (log 7) -/
  spad : SMap Byte := []
  /-- VREG0 to VREG31, 128 lanes of 32 bits, key register × 128 + lane, 05 R115; reset 0 -/
  vreg : SMap U32 := []
  /-- MASK0 to MASK7, 128 bits, 05 R115; reset 0 -/
  mask : SMap (BitVec 128) := []
  /-- SEQ.SREG0 to SREG31, 64 bits, 05 R125; reset 0 -/
  sreg : SMap U64 := []
  /-- SEQ.VL, 05 R113 R115; reset 128 -/
  vl : Nat := 128
  /-- SETVL of 0: the next VLOOP runs no strips, 05 R114; reset no -/
  vlZero : Bool := false
  /-- sequencer position, 05 R124 R126; reset 0 -/
  pc : Nat := 0
  /-- open LOOPs, innermost first, at most 8, 05 R126; reset none -/
  loops : List Loop := []
  /-- the open VLOOP, 05 R113; reset none -/
  vloop : Option VLoop := none
  /-- what the sequencer waits for, 05 R126; reset none -/
  stall : Stall := .none_
  /-- sticky flag word of the instance, 32 bits, 05 R121; reset 0 -/
  flags : U32 := 0
  /-- REDUCE running totals by destination register: (strips folded, total), 05 R123; reset none -/
  redTotal : SMap U32 := []
  /-- program memory: address in the context and length of the loaded program, 05 R124; reset none -/
  prog : Option (Nat × Nat) := none
  /-- program memory, 64 KiB, 05 R124; unlisted bytes 0; reset DESIGN CHOICE 0 (log 66) -/
  progMem : List Byte := []
  /-- kernel whose program the program memory holds (its flight, the MODEL's), 05 R124; reset none -/
  progFor : Option Nat := none
  /-- second program memory, 64 KiB, 05 R124 R127; reset DESIGN CHOICE 0 (log 66) -/
  nextMem : List Byte := []
  /-- shadow SREG0 to SREG15, 05 R127; reset DESIGN CHOICE 0 (log 66) -/
  shadow : SMap U64 := []
  /-- kernel preloaded into the second program memory (its flight, the MODEL's), 05 R127; reset none -/
  preload : Option Nat := none
  /-- stream engines 0 to 7, 05 R133; reset not armed -/
  streams : SMap Stream := []
  /-- the run in progress, 05 R126; reset none -/
  run : Option Run := none
  /-- the matrix instance in progress, 04 R84; reset none -/
  matrix : Option Matrix := none
  /-- accumulator file, FP32 (hi with TWO_WORD), 256 rows × 128 columns, key row × 128 + physical column; unlisted 0, 04 R101; reset 0 -/
  accHi : SMap U32 := []
  /-- accumulator file, lo words with TWO_WORD, 128 rows × 128 columns, 04 R101; reset 0 -/
  accLo : SMap U32 := []
  /-- second accumulator file, the partials, 256 rows × 128 columns of 16 bits, 04 R101; reset 0 -/
  accPart : SMap U32 := []
  /-- first tile of the array whose halted instance the files hold (the MODEL's), 04 R103; reset none -/
  accFor : Option Nat := none
  /-- array ramp, 04 R108; reset idle -/
  ramp : Ramp := .idle
  /-- ARRAY.WIDTHn.WIDTH, 8 bits, 04 R92; reset 128 -/
  width : Nat := 128
  /-- ARRAY.WIDTHn.RETIRED, 1 bit, 04 R92; reset 0 -/
  retired : Bool := false
  /-- ARRAY.WIDTHn.QUARANTINED, 1 bit, 04 R92; reset 0 -/
  quarantined : Bool := false
  /-- ARRAY.WIDTHn.LANE_FAULT, 1 bit, 04 R92; reset 0 -/
  laneFault : Bool := false
  /-- ARRAY.WIDTHn.BYPASS0 to BYPASS3, up to four physical columns, 04 R89 R92; reset none -/
  bypass : List Nat := []
  /-- ARRAY.WIDTHn.GEN, 16 bits wrapping, 04 R92; reset 0 -/
  gen : Nat := 0
  /-- a width change that takes effect at the next beat head: (bypass, retired, lane fault), 04 R92, 15 R413; reset none -/
  widthNext : Option (List Nat × Bool × Bool) := none
  /-- the tile returns from quarantine at the next beat head, 15 R413; reset no -/
  returning : Bool := false
  /-- start of the check age, 15 R409; reset 0 -/
  ageStart : Nat := 0
  /-- start of the last passed check, 15 R414; reset 0 -/
  lastPass : Nat := 0
  /-- the next instance is forced, 15 R402 R409; reset no -/
  forced : Bool := false
  /-- reserved for the duplicate of this check, 15 R410; reset none -/
  reserved : Option Nat := none
  /-- withdrawn for, 15 R413 R428; reset none -/
  withdrawn : Option Withdrawn := none
  /-- TSCs of the quarantines within 24 h (flash), 15 R413, 18 R471; reset none -/
  quarTimes : List Nat := []
  /-- accumulated stress in ns of weighted array time, 17 R461; reset 0 -/
  stress : Nat := 0
  /-- residency list: up to 8 (scratchpad offset, length, device address), 15 R404; reset none -/
  resident : List (Nat × Nat × Nat) := []
  deriving DecidableEq, Repr

/-! ### Partitions, energy, configuration (12, 11 R313) -/

/-- A staged configuration item (11 R313). -/
inductive Item where
  | partition (p first sixteenths : Nat) (grant : Bool) (share lcPercent : Nat) (qmap : List Nat)
  | cls (queue : Nat) (lc : Bool)
  | regulator (p res rate burst : Nat)
  | power (limit maxStep minStep : Nat)
  | beat (period head : Nat)
  | sampling (p code : Nat)
  deriving DecidableEq, Repr

/-- A shadow set (11 R313). -/
structure CfgSet where
  opened : Bool := false
  items  : List Item := []
  /-- armed: beat, flight of the CONFIG_ARM -/
  armed  : Option (Nat × Nat) := none
  /-- applied; the transition ends at this beat-edge count -/
  ends   : Option (Nat × Nat) := none
  deriving DecidableEq, Repr

/-- A token bucket (12 R334). -/
structure Bucket where
  rate   : Nat                       -- in 100 MB/s
  burst  : Nat                       -- in bytes
  tokens : Int
  waiting : List Nat                 -- bytes of the requests that wait, oldest first
  deriving DecidableEq, Repr

/-- Per-beat meters of a partition (12 R335). -/
structure Meters where
  energy : Nat := 0
  tileNs : Nat := 0
  hbm    : Nat := 0
  d2d    : Nat := 0
  host   : Nat := 0
  net    : Nat := 0
  keys   : Nat := 0
  deriving DecidableEq, Repr

/-- A partition (12 R317 to R331). -/
structure Part where
  /-- FIRST sixteenth, R318 -/
  first : Nat
  /-- SIXTEENTHS, R318 -/
  sixteenths : Nat
  /-- EXPERT_GRANT, R318 -/
  expert : Bool
  /-- SHARE, R318 R323 -/
  share : Nat
  /-- LC_PERCENT, R318 -/
  lcPercent : Nat
  /-- QMAP: function per block of 256 queues, 10 R260 -/
  qmap : List Nat
  /-- CARRY, R324 -/
  carry : Bool
  /-- RESIZING, R338 -/
  resizing : Bool
  /-- BUDGET_UJ (B'), R323 -/
  budget : Nat
  /-- AVAIL_UJ (A_p), R324 R329 (may be negative) -/
  avail : Int
  /-- the LC reserve R_p, R323 -/
  reserve : Nat
  /-- LC energy admitted in this beat, R330 -/
  lcUsed : Nat
  /-- DEBT_UJ, R324 -/
  debt : Nat
  /-- a kernel was held for energy in this beat, R332 -/
  held : Bool
  /-- charges admitted in this beat, R332 -/
  charged : Nat
  /-- totals, R318 -/
  total : Meters
  /-- meters of the running beat, R335 -/
  beat : Meters
  /-- LC_HELD, R318 -/
  lcHeld : Nat
  /-- ESTIMATE_LOW, R318 -/
  estLow : Nat
  /-- DURATION_OVERRUN, R318 -/
  durOver : Nat
  /-- SAMPLING fraction code, 11 R314; default 1/32 -/
  sampling : Nat
  /-- four token buckets by RESOURCE, R334 -/
  regs : SMap Bucket
  /-- TELE.SORREL_SKIPPED, 17 R462 -/
  skipped : U64
  deriving DecidableEq, Repr

/-- A removal of sixteenths in progress (12 R338). -/
structure Removal where
  part   : Nat
  blocks : List Nat                  -- sixteenths to remove
  edge   : Nat                       -- beat-edge count at which the set applied
  stage  : Nat                       -- 0: reset due at edge+1; 1: free at edge+2
  add    : Option (Nat × Nat)        -- FIRST, SIXTEENTHS to add once free
  qmap   : List Nat                  -- QMAP of the partition once the removal has ended
  deriving DecidableEq, Repr

structure Sched where
  /-- partitions 0 to 15, R317; reset none -/
  parts : SMap Part := []
  /-- shadow sets: 0 to 15 partition sets, 16 the device set, 11 R313; reset empty -/
  sets : SMap CfgSet := []
  /-- removals in progress, R338; reset none -/
  removals : List Removal := []
  /-- LIMIT_W, 11 R313; reset 1800 (default) -/
  limitW : Nat := 1800
  /-- CLOCK_MAX, R332; reset 2 (default) -/
  clockMax : Nat := 2
  /-- CLOCK_MIN, R332; reset 0 (default) -/
  clockMin : Nat := 0
  /-- clock step per die, R332; unlisted 2; reset DESIGN CHOICE 2, 1.25 GHz (log 7) -/
  steps : SMap Nat := []
  /-- SCHED.CTRL.BE_MAX_US, 16 bits, R322; reset 100 -/
  beMaxUs : Nat := 100
  /-- SCHED.CTRL.SPARE_EN, 1 bit, R322; reset 1 -/
  spareEn : Bool := true
  /-- SCHED.CTRL written, in force from step 5 of the next head, R322; reset none -/
  ctrlNext : Option U32 := none
  /-- spare pool in uJ, R325; reset 0 -/
  spare : Nat := 0
  /-- thermal factor f_d x 16 per die, R323; unlisted 16; reset DESIGN CHOICE 16 (log 7) -/
  thermal : SMap Nat := []
  /-- graph nodes and gather stages that are ready and not yet running, R327, R328, R330; reset none -/
  stages : List Stage := []
  deriving DecidableEq, Repr

/-! ### Tables and updates (06, 07) -/

/-- Version slot states (06 R152). -/
inductive VState where
  | empty | loading | prepared | current | retiring | draining
  deriving DecidableEq, Repr

/-- A version slot (06 R152). -/
structure VSlot where
  version    : Nat := 0
  st         : VState := .empty
  rowOwner   : Bool := false
  recBytes   : Nat := 0
  base       : Nat := 0
  beat       : Nat := 0
  ownerRows  : Nat := 0
  slabBytes  : Nat := 0
  /-- opened by TABLE_LOAD from CURRENT: a tracking version (07 R200) -/
  tracking   : Bool := false
  /-- beat-edge count of the transition (06 R153) -/
  edge       : Nat := 0
  /-- retire fence and value (06 R157) -/
  rfence     : Option (Nat × Nat) := none
  deriving DecidableEq, Repr

/-- A table descriptor (06 R144 to R152, 07 R181). -/
structure Table where
  partition : Nat
  context   : Nat
  colgroup  : Nat
  rows      : Nat
  elems     : Nat
  format    : Nat
  rowScale  : Nat
  zpEn      : Bool
  block     : Nat
  gsize     : Nat
  slice     : Nat
  hotShift  : Nat
  nullCount : Nat
  opt       : Nat
  discard   : Bool
  granule   : Bool
  vtarget   : Bool
  cutoff    : Nat
  paramAddr : Nat
  cur       : VSlot
  pend      : VSlot
  retir     : VSlot
  destroy   : Bool
  destroyFence : Option (Nat × Nat)
  /-- the device may not serve it until its versions are checked (18 R475) -/
  unserved  : Bool
  deriving DecidableEq, Repr

/-- A table action armed for a beat (06 R155 to R159, 14 R398). -/
structure Armed where
  kind    : Nat                      -- 0 prepare, 1 commit, 2 retire, 3 commit armed from BEAT_SYNC, 4 local commit of R475
  table   : Nat
  version : Nat
  beat    : Nat
  flight  : Option Nat
  rfence  : Option (Nat × Nat)
  destroy : Bool
  deriving DecidableEq, Repr

/-- A collected update entry (07 R184). -/
structure Entry where
  table   : Nat
  row     : Nat
  kind    : Nat                      -- 0 gradient, 1 overwrite, 2 tracking overwrite
  stamp   : Nat
  dev     : Nat
  src     : Nat
  version : Nat
  pformat : Nat
  keep    : Bool
  withState : Bool
  beat    : Nat                      -- APPLY_BEAT
  first   : Nat
  nelems  : Nat
  pos     : Nat                      -- BATCH_POS
  payload : List Byte
  die     : Nat                      -- partition die whose area holds it
  bytes   : Nat                      -- room it occupies in the collection area (R189)
  deriving DecidableEq, Repr

/-- The apply window in progress (07 R192). -/
structure Window_ where
  beat   : Nat
  tables : List Nat
  overrun : Bool
  deriving DecidableEq, Repr

/-- A gather of another device that this one takes part in (06 R174, R176): what its messages brought. -/
structure Served where
  peer     : Nat
  tag      : Nat                      -- the requester's number for its gather
  op       : Nat                      -- 0 unique records of a column split, 1 keys of a row owner
  partition : Nat
  context  : Nat
  work     : Nat                      -- the requester's WORK0, which names the gather later (07 R190)
  features : List (Nat × GFeature)    -- with their places in the batch
  bags     : Nat
  keys     : SMap (List YKey)         -- per partition die
  got      : Nat                      -- messages arrived
  total    : Nat
  done     : Bool                     -- pooled and answered
  grads    : List (Nat × Nat × List U32)   -- slices of destination gradients: (table, destination, codes), 07 R190
  gotGrads : SMap Nat                 -- messages of them arrived, per table
  deriving DecidableEq, Repr

structure Tables where
  /-- table descriptors, 4,096 of 192 bytes, 06 R144; reset none -/
  tab : SMap Table := []
  /-- armed prepares, commits and retirements, in arming order, 06 R155 to R159; reset none -/
  armed : List Armed := []
  /-- prepare beat of each PREPARED pending version: table -> beat, 06 R156; reset none -/
  prepBeat : SMap Nat := []
  /-- collection areas: entries in arrival order, 07 R186 to R189; reset empty -/
  entries : List Entry := []
  /-- merges ended: (partition, die, apply beat), 07 R191; reset none -/
  merged : List (Nat × Nat × Nat) := []
  /-- collections closed: (partition, apply beat), 07 R187; reset none -/
  closed : List (Nat × Nat) := []
  /-- apply windows running per partition, 07 R192; reset none -/
  windows : SMap Window_ := []
  /-- bytes 0 to 47 of each table's parameter block, as read at the start of the latest apply window, 07 R183; reset none -/
  params : SMap (List Byte) := []
  /-- counts of a table waiting for the write of its parameter block at the end of a window: table -> (offset -> count), 07 R183; reset none -/
  counts : SMap (SMap Nat) := []
  /-- version CURRENT after step 6 of a beat whose entries may still be applied: (apply beat, table, version), 07 R192 R199; reset none -/
  targets : List (Nat × Nat × Nat) := []
  /-- sticky flag word of each partition's optimiser-apply kernel, 07 R198; reset 0 -/
  applyFlags : SMap U32 := []
  /-- gathers of other devices that this one serves or has served, 06 R174 R176, 07 R190; reset none -/
  served : List Served := []
  /-- what the device keeps of the gathers that wrote work areas, for the gather form of UPDATE_APPLY: (context, gather), 07 R190; reset none -/
  worked : List (Nat × Gather) := []
  deriving DecidableEq, Repr

/-! ### Network (14) -/

/-- A GCM key (14 R377). -/
structure NKey where
  phase : Nat
  key   : List Byte
  salt  : List Byte
  high  : Option Nat                 -- highest NONCE_CTR seen
  seen  : List Nat                   -- counters seen within 1,024 of it
  deriving DecidableEq, Repr

/-- An outgoing message (14 R372, R388). -/
structure TxMsg where
  mseq    : Nat
  type    : Nat
  header  : List Byte                -- bytes 0 to 71 common to its packets (PSN, NONCE_CTR, TSC, SEG_INDEX filled per packet)
  payload : List Byte
  sent    : Nat                      -- segments sent
  segs    : Nat
  size    : Nat                      -- SEG_BYTES when the message was formed (R372)
  lc      : Bool
  flight  : Option Nat
  nackCfg : Option Nat               -- beat edges seen at the first NACK CONFIG (R387)
  resendAt : Option Nat              -- TSC of the resend after NACK CONFIG
  source  : Nat                      -- for DATA_READ_REQ: destination of the response
  port    : Option Nat               -- sub-port the command selects (11 R306)
  part    : Option Nat               -- sending partition, for its network regulator and meter (12 R334, R335)
  mem     : Option (Nat × Nat)       -- context and address the payload stands at, read at every transmission (R388)
  formed  : Nat                      -- TSC at which the message was formed (R373, 02 R48)
  deriving DecidableEq, Repr

/-- An outstanding packet (14 R388). -/
structure TxPkt where
  psn   : Nat
  mseq  : Nat
  seg   : Nat
  sent  : Nat
  tries : Nat
  due   : Nat
  fast  : Bool
  syn   : Bool                       -- it carries SYN, as its retransmissions do (R389)
  deriving DecidableEq, Repr

/-- A message being received (14 R379, R380). -/
structure RxMsg where
  mseq    : Nat
  type    : Nat
  header  : List Byte
  refused : Bool
  segs    : List Nat                 -- segments written
  last    : Option Nat               -- index of the last segment
  payload : List (Nat × List Byte)   -- segments of types kept until the message is whole
  prov    : Option Nat               -- tag when provisional
  arrived : Nat
  effects : Bool                     -- completion effects taken
  win     : Option Window            -- the window that admitted it (09 R249)
  part    : Option Nat               -- receiving partition
  denied  : Option (Nat × Nat)       -- first blocked granule and how many (09 R494)
  uncorr  : Option (Nat × Nat)
  deriving DecidableEq, Repr

/-- A flow (14 R376 to R390). -/
structure Flow where
  /-- owning partition of a client flow, R376; none: the device -/
  owner : Option Nat := none
  /-- transmit key (newest), R377; reset none -/
  tx : Option NKey := none
  /-- receive keys, newest first, at most two, R377; reset none -/
  rx : List NKey := []
  /-- transmit KEY_PHASE, 2 bits, R377; reset 0 -/
  txPhase : Nat := 0
  /-- receive KEY_PHASE, 2 bits, R377; reset 0 -/
  rxPhase : Nat := 0
  /-- NONCE_CTR of the next packet, 64 bits, R377; reset 0 -/
  txCtr : Nat := 0
  /-- transmit sub-port, 4 bits, R376; reset 0 -/
  port : Nat := 0
  /-- address learned from the last authenticated packet of a client, R378; reset none -/
  addr : Option (Nat × Nat) := none
  /-- next PSN, 32 bits, R388; reset 0 -/
  nextPsn : Nat := 0
  /-- next MSG_SEQ, 32 bits, R373; reset 0 -/
  nextMsg : Nat := 0
  /-- cumulative point of reception, R386; reset 0 -/
  cum : Nat := 0
  /-- PSNs written above the cumulative point, R386; reset none -/
  got : List Nat := []
  /-- lowest MSG_SEQ whose completion effects are due, R380; reset 0 -/
  rxNext : Nat := 0
  /-- messages being received, R379; reset none -/
  rxMsgs : List RxMsg := []
  /-- messages being sent, R388; reset none -/
  txMsgs : List TxMsg := []
  /-- packets outstanding, R388; reset none -/
  pkts : List TxPkt := []
  /-- the next packet carries SYN, R389; reset no -/
  syn : Bool := false
  /-- packets written and not acknowledged: count and due TSC, R386; reset none -/
  ackDue : Option (Nat × Nat) := none
  /-- ingress stamp of the newest packet to acknowledge, R386; reset 0 -/
  newest : Nat := 0
  /-- a newly acknowledged packet arrived with CE, R386; reset no -/
  ce : Bool := false
  /-- CE_ECHO arrived in this period, R390; reset no -/
  ceEcho : Bool := false
  /-- lowest RTT sample of this period, R390; reset none -/
  minRtt : Option Nat := none
  /-- sent in this period, R390; reset no -/
  active : Bool := false
  /-- alpha as an exact fraction (numerator, denominator), R390; reset 1 -/
  alpha : Nat × Nat := (1, 1)
  /-- rate and target in 0.1 Gb/s as exact fractions; none: line rate, R390; reset line rate -/
  rate : Option (Nat × Nat) := none
  target : Option (Nat × Nat) := none
  /-- stage, R390; reset 0 -/
  stage : Nat := 0
  /-- first instant at which pacing allows the next packet, R390; reset 0 -/
  nextAt : Nat := 0
  /-- a PROVISIONAL packet was carried since the previous clear; highest tag, 15 R418; reset none -/
  provTag : Option Nat := none
  /-- received watermark of this sender, 15 R418; reset 0 -/
  watermark : Nat := 0
  /-- RETRACTs of this sender not resolved: (check, first received), 15 R420; reset none -/
  retracts : List Nat := []
  deriving DecidableEq, Repr

/-- An Ethernet sub-port (14 R366, R370). -/
structure Sub where
  /-- NET.SUBk.MAC, 64 bits, R370; reset 0 -/
  mac : U64 := 0
  /-- NET.SUBk.GW, 48 bits, R370; reset 0 -/
  gw : U64 := 0
  /-- NET.SUBk.IP, 128 bits, R370; reset 0 -/
  ip : BitVec 128 := 0
  /-- NET.SUBk.STATUS.LINK_UP, 1 bit, R370; reset 0 -/
  linkUp : Bool := false
  /-- NET.SUBk.STATUS.PCS_LOCKED, 1 bit, R370; reset 0 -/
  pcs : Bool := false
  /-- NET.SUBk.STATUS.FEC_UNCORR, 16 bits saturating, R370; reset 0 -/
  fec : Nat := 0
  /-- NET.SUBk.STATUS.AUTH_DROP, 32 bits saturating, R370; reset 0 -/
  authDrop : Nat := 0
  /-- NET.SUBk.PTP.ASYM_NS, 32 bits signed, R370; reset 0 -/
  asym : U32 := 0
  /-- NET.SUBk.RX_DROP, 64 bits wrapping, 17 R462; reset 0 -/
  rxDrop : Nat := 0
  /-- round-robin pointer over the peers, per class, R391; reset 0 -/
  rr : SMap Nat := []
  deriving DecidableEq, Repr

/-- An Ethernet port (14 R366 to R370). -/
structure Port where
  /-- NET.PORTn.CTRL.MODE, 2 bits, R370; reset 0 -/
  mode : Nat := 0
  /-- NET.PORTn.CTRL.SUB_EN, 4 bits, R370; reset 0 -/
  subEn : Nat := 0
  /-- NET.PORTn.CTRL.PFC_EN, 1 bit, R370; reset 0 -/
  pfcEn : Bool := false
  /-- NET.PORTn.CTRL.PFC_MASK, 8 bits, R370; reset 0 -/
  pfcMask : Nat := 0
  /-- NET.PORTn.CTRL.MTU, 14 bits, R370; reset 9000 -/
  mtu : Nat := 9000
  /-- NET.PORTn.QOS, 27 bits, R370; reset DSCP 26, 10, 48 and PCP 5, 1, 6 -/
  qos : U32 := 0x0637029A
  /-- receive buffer occupancy in bytes per priority, R369; reset 0 -/
  rxBytes : SMap Nat := []
  /-- priorities for which this port has sent PFC, R369; reset none -/
  pfcSent : List Nat := []
  /-- priorities paused by received PFC, R369; reset none -/
  paused : List Nat := []
  deriving DecidableEq, Repr

/-- A group configuration record held (14 R392). -/
structure Group where
  /-- GROUP_STATE.EPOCH, 32 bits, R400; reset 0 -/
  epoch : Nat := 0
  /-- DIGEST, 32 bits, R393 R400; reset 0 -/
  digest : Nat := 0
  /-- device number, 16 bits, R55; reset 0xFFFF -/
  device : Nat := 0xFFFF
  /-- the configuration record (bytes), R392; reset none -/
  config : List Byte := []
  /-- JOIN_BEAT, 64 bits, R400; reset 0 -/
  joinBeat : Nat := 0
  /-- CONFIG_BEAT, 64 bits, R400; reset 0 -/
  configBeat : Nat := 0
  /-- GSTATE, R400: 0 NONE, 1 JOINING, 2 MEMBER, 3 LEAVING; reset 0 -/
  gstate : Nat := 0
  /-- VERSION_DIVERGED, 1 bit, R400; reset 0 -/
  diverged : Bool := false
  /-- CONFIG_NACKS, 64 bits wrapping, R400; reset 0 -/
  configNacks : Nat := 0
  /-- PRESENT_MAP: device numbers present, R400; reset none -/
  present : List Nat := []
  /-- the GROUP_JOIN in progress: flight, record, device, R394; reset none -/
  joining : Option (Nat × List Byte × Nat) := none
  /-- join accepted for this beat, R394; reset none -/
  joinAt : Option Nat := none
  /-- pushed configuration and its apply beat, R397; reset none -/
  push : Option (List Byte × Nat) := none
  /-- flight of the owner's own GROUP_JOIN that pushed, R397; reset none -/
  pushFlight : Option Nat := none
  /-- leave at the next beat head, R396, with the flight of GROUP_LEAVE; reset none -/
  leave : Option (Option Nat) := none
  /-- MISMATCH sent to the owner in this beat for these peers, R397; reset none -/
  mismatched : List Nat := []
  /-- devices whose JOIN_REQ was accepted: (device, join beat), R394; reset none -/
  accepted : List (Nat × Nat) := []
  /-- version replies awaited: (table, peers not answered, versions named, edge of the query), 18 R475; reset none -/
  queries : List (Nat × List Nat × List Nat × Nat) := []
  /-- commits originated on column groups: (flight, peers not acknowledged, any failure), 14 R398; reset none -/
  syncs : List (Nat × List (Nat × Nat) × Bool) := []
  deriving DecidableEq, Repr

structure Net where
  /-- NET.CTRL.UDP_PORT, 16 bits, R370; reset 41870 -/
  udpPort : Nat := 41870
  /-- NET.CTRL.RTO_US, 10 bits, R370; reset 20 -/
  rtoUs : Nat := 20
  /-- NET.CTRL.RETRY_MAX, 5 bits, R370; reset 10 -/
  retryMax : Nat := 10
  /-- NET.CC.T_HIGH_US, 8 bits, R370; reset 30 -/
  tHighUs : Nat := 30
  /-- NET.CC.AI, 8 bits, R370; reset 50 -/
  ai : Nat := 50
  /-- NET.CC.RATE_MIN, 8 bits, R370; reset 10 -/
  rateMin : Nat := 10
  /-- NET.CC.GSHIFT, 4 bits, R370; reset 4 -/
  gshift : Nat := 4
  /-- ports 0 to 3, R366; reset each at its defaults -/
  ports : SMap Port := []
  /-- sub-ports 0 to 15, R366; reset each at its defaults -/
  subs : SMap Sub := []
  /-- flow table, 65,536 peers, R376; reset empty -/
  flows : SMap Flow := []
  /-- group state, R392 to R400; reset outside a group -/
  group : Group := {}
  deriving DecidableEq, Repr

/-! ### Sorrel (15) -/

/-- States of a check (15 R422). -/
inductive CState where
  | pending | passed | corrected | failed
  deriving DecidableEq, Repr

/-- One ended run, for the comparison (15 R408). -/
structure RunEnd where
  tile : Nat
  sig  : Nat
  outs : SMap Byte
  nibs : SMap Nat
  fences : List (Nat × Nat)
  start : Nat
  deriving DecidableEq, Repr

/-- One check (15 R402 to R422). -/
structure Check where
  part     : Nat
  flight   : Nat
  inst     : Nat
  reason   : Nat
  start    : Nat
  beat     : Nat
  startEdge : Nat
  primary  : Nat
  dup      : Option Nat            -- tile once the duplicate has started
  third    : Option Nat
  ends     : SMap RunEnd           -- 0 primary, 1 duplicate, 2 third
  st       : CState
  resolved : Nat
  resolvedEdge : Nat
  inPlace  : Bool
  dupFirst : Bool
  deriving DecidableEq, Repr

/-- A received message of a partition that is still provisional (15 R416, R420). -/
structure Prov where
  part   : Nat
  sender : Nat
  tag    : Nat
  edge   : Nat             -- beat edges seen at its arrival
  since  : Nat             -- TSC of its arrival
  gone   : Bool            -- marked retracted
  deriving DecidableEq, Repr

structure Integ where
  /-- next check sequence, 63 bits, R415; reset DESIGN CHOICE 1 (log 7) -/
  nextSeq : Nat := 1
  /-- watermark W, R418; reset 0 -/
  mark : Nat := 0
  /-- checks kept, by sequence, R422; reset none -/
  checks : SMap Check := []
  /-- log of retracted checks, last 1,024, newest first: (sequence, partition), R422; reset none -/
  retracted : List (Nat × Nat) := []
  /-- the partitions' provisional sets, R416 R420; reset none -/
  prov : List Prov := []
  /-- sampling streams: draws made per partition in this beat, R402; reset 0 -/
  draws : SMap Nat := []
  /-- replay sets running: (check or none, sender, flights), R419 R420; reset none -/
  replays : List (Option Nat × Nat × List Nat) := []
  /-- calibration slots queued per die: tiles, R429; reset none -/
  calib : SMap (List Nat) := []
  /-- replays of one flit in a row per link, R21; reset 0 -/
  flitFails : SMap Nat := []
  /-- next TSC of the 60 s calibration timer, R429; reset 60 s after power-on, DESIGN CHOICE 60000000000 (log 7) -/
  calAt : Nat := 60000000000
  deriving DecidableEq, Repr

/-! ### Telemetry (17) -/

/-- An event on its way to the telemetry block (17 R456). -/
structure Event where
  stamp : Nat
  device : Nat
  source : Nat
  sseq  : Nat
  degraded : Bool
  code  : Nat
  part  : Nat
  data  : List Byte                 -- bytes 20 to 55
  deriving DecidableEq, Repr

/-- A monitor accumulator (17 R448 to R453). -/
structure Monitor where
  kind   : Nat
  index  : Nat
  owner  : Option Nat               -- partition, or none for the operator
  context : Nat
  buffer : Nat
  beats  : Nat
  active : Bool                     -- accumulates from the next beat head after arming
  w      : Nat
  startBeat : Nat
  partialW : Bool
  degraded : Bool
  sat    : Bool
  count  : Nat
  sum    : Nat
  min    : Nat
  max    : Nat
  bins   : SMap Nat
  closed : Option (List Byte)        -- last closed record
  disarm : Bool                     -- BUFFER 0: ends at the next beat head
  deriving DecidableEq, Repr

structure Tele where
  /-- events not yet arrived at the telemetry block, R458; reset none -/
  events : List Event := []
  /-- 8-bit event sequence per source, 02 R54; reset 0 -/
  sseq : SMap Nat := []
  /-- REC.STATUS.ARMED, 1 bit, R459; reset 0 -/
  armed : Bool := false
  /-- REC.STATUS.FULL, 1 bit, R459; reset 0 -/
  full : Bool := false
  /-- REC.STATUS.GEN, 8 bits, R454 R459; reset 0 -/
  gen : Nat := 0
  /-- REC.BASE_SEQ, 32 bits, R459; reset 0 -/
  baseSeq : Nat := 0
  /-- REC.COUNT, 64 bits, R459; reset 0 -/
  count : Nat := 0
  /-- REC.OVERFLOW, 64 bits, R459; reset 0 -/
  overflow : Nat := 0
  /-- REC.SUPPRESSED, 64 bits, R459; reset 0 -/
  suppressed : Nat := 0
  /-- REC.CAPACITY, 64 bits, R459; reset 0 -/
  capacity : Nat := 0
  /-- record sequence across arms, R456; reset 0 -/
  rseq : Nat := 0
  /-- region: context and address with its segments (va, pa, len), R454; reset none -/
  region : Option (Nat × Nat) := none
  /-- EVENT_MASK, 13 bits, R455; reset 0 -/
  mask : Nat := 0
  /-- records written this beat: (source, code, count), R458; reset none -/
  rate : List (Nat × Nat × Nat) := []
  /-- suppressed this beat: (source, code, count), R458; reset none -/
  supp : List (Nat × Nat × Nat) := []
  /-- boot recorder entries 0 to 127, R460; reset empty -/
  bootFirst : List (List Byte) := []
  /-- boot recorder ring 128 to 255, newest last, R460; reset empty -/
  bootRing : List (List Byte) := []
  /-- monitors, in arming order, R448 to R450; reset none -/
  monitors : List Monitor := []
  /-- latest 10 us sample per level sensor, R449 R463; reset DESIGN CHOICE 0 (log 7) -/
  sensors : SMap Int := []
  /-- hottest sample of each die in the running beat, in m°C, 12 R323; reset none -/
  hot : SMap Int := []
  /-- PLDM thresholds set: (sensor, (lower critical, upper warning, upper critical)), R463, 19 R490; unlisted: the defaults of R490; reset defaults -/
  thresholds : SMap (Option Int × Option Int × Option Int) := []
  /-- PLDM threshold state last reported per sensor (0 normal, 1 warning, 2 upper critical, 3 lower critical), R463; reset 0 -/
  threshState : SMap Nat := []
  /-- PLDM event receiver, R463; reset none -/
  receiver : Option Nat := none
  /-- BG.SCRUB.POS, 22 bits, R461; reset 0 -/
  scrubPos : Nat := 0
  /-- BG.SCRUB.PASSES, 32 bits, R461; reset 0 -/
  scrubPasses : Nat := 0
  /-- BG.CALn.NEXT_TILE, 5 bits, R461; reset 0 -/
  calNext : SMap Nat := []
  /-- BG.CALn.WORST_MARGIN of the last rotation, 8 bits, R461; unlisted 255; reset 255 -/
  calWorst : SMap Nat := []
  /-- worst margin and its tile in the present rotation, R461; reset none -/
  calRun : SMap (Nat × Nat) := []
  /-- BG.CALn.ROTATIONS, 32 bits, R461; reset 0 -/
  calRot : SMap Nat := []
  /-- BG.FLASH.MAX_ERASE, 32 bits, R461; reset 0 -/
  maxErase : Nat := 0
  /-- BG.FLASH.SPARE_BLOCKS, 16 bits, R461; reset 0 -/
  spareBlocks : Nat := 0
  /-- BG.AGINGn (MIN_STRESS_H, MAX_STRESS_H), 64 bits, R461; reset 0 -/
  aging : SMap (Nat × Nat) := []
  deriving DecidableEq, Repr

/-! ### Outputs: what the block sends out -/

/-- A SPDM, PLDM, MCTP, IDE_KM or TDISP answer (16 R444, 17 R463, 13 R359 R360). -/
structure Answer where
  code : Nat                        -- request code answered (the constructor's place in its family), 0xFF for an error
  data : List Byte
  deriving DecidableEq, Repr

/-- A Flochasel packet as it leaves (14 R371, R372, R377, R378, R391): its outer fields, header, payload before encryption. -/
structure OutPacket where
  sub     : Nat
  peer    : Nat
  srcMac  : Nat
  dstMac  : Nat
  vlan    : Nat                      -- 0: untagged
  pcp     : Nat
  dscp    : Nat
  ecn     : Nat                      -- 2: ECT(0) (14 R365)
  ipv4    : Bool
  df      : Bool                     -- IPv4 is sent with DF (14 R365)
  srcIp   : Nat
  dstIp   : Nat
  srcUdp  : Nat
  dstUdp  : Nat
  nonce   : List Byte                -- SALT and NONCE_CTR
  header  : List Byte
  payload : List Byte
  deriving DecidableEq, Repr

structure Out where
  /-- MSI-X messages sent: (function, vector, TSC), 13 R350; reset none -/
  msix : List (Nat × Nat × Nat) := []
  /-- writes to host memory issued: (function, address, bytes), 13 R356; reset none -/
  hostWrites : List (Nat × Nat × List Byte) := []
  /-- reads of host memory issued: (function, address, length), 13 R356; reset none -/
  hostReads : List (Nat × Nat × Nat) := []
  /-- Flochasel packets sent, 14 R371; reset none -/
  packets : List OutPacket := []
  /-- other frames sent: ARP and neighbour replies and PFC: (sub-port, kind, data), 14 R365 R369; reset none -/
  frames : List (Nat × Nat × List Byte) := []
  /-- ToD messages sent on TOD_TX, 19 R477; reset none -/
  tod : List (List Byte) := []
  /-- back-invalidate snoops sent: (line, invalidate), 13 R352; reset none -/
  snoops : List (Nat × Bool) := []
  /-- answers to host snoops (lines answered RspIHitI), 13 R356; reset none -/
  snoopRsp : List Nat := []
  /-- CXL.mem read responses: (address, poison, data), 13 R351; reset none -/
  cxl : List (Nat × Bool × List Byte) := []
  /-- BAR4 read completions: (function, poisoned, data), 13 R348; reset none -/
  bar4 : List (Nat × Bool × List Byte) := []
  /-- register reads answered (function, value), 02 R36; reset none -/
  reads : List (Nat × U32) := []
  /-- management and security answers, 16 R444; reset none -/
  answers : List Answer := []
  deriving DecidableEq, Repr

/-! ### The whole state -/

/-- The state of the block. -/
structure State where
  /-- commands waiting, first in first out (the block model); reset empty -/
  pending : List Instr := []
  /-- the MODEL's counter of free values drawn, log 4; reset DESIGN CHOICE 0 (log 4) -/
  freeCtr : Nat := 0
  clock  : Clock := {}
  beat   : Beat := {}
  clover : Clover := {}
  power  : Power := {}
  sec    : Sec := {}
  link   : Link := {}
  /-- queues 0 to 65,535 by global number, 10 R260; reset DISABLED with the defaults -/
  queues : SMap Queue := []
  /-- GEN of every queue that `queues` does not list, 16 bits wrapping, 10 R261, 18 R473; reset 0 -/
  queueGen : Nat := 0
  /-- commands dispatched and not complete, 10 R272; reset none -/
  flights : List Flight := []
  /-- next flight number (the MODEL's), 10 R272; reset 0 -/
  nextFlight : Nat := 0
  /-- fences, 262,144 counters of 64 bits, 10 R286; reset 0 -/
  fences : SMap Nat := []
  /-- Vetch barrier groups: die × 64 + group -> (members, arrived), 01 R23; reset none -/
  barriers : SMap (List Nat × List Nat) := []
  mem    : Mem := {}
  tables : Tables := {}
  /-- tiles 0 to 127, 01 R15; reset each at its defaults -/
  tiles  : SMap Tile := []
  sched  : Sched := {}
  net    : Net := {}
  integ  : Integ := {}
  tele   : Tele := {}
  /-- ARRAY.DBG_EN, 16 bits, 04 R103; reset 0 -/
  dbgEn  : U32 := 0
  out    : Out := {}
  deriving DecidableEq, Repr

/-- Power-on: every field at the value spec/ gives for reset (18 R470, R473), or the one a log entry names. -/
def State.reset : State := {}

end Sys2Proof.Machine
end

