-- ==== Sys2Proof/Machine/Ops.lean ====
section
/-! DEFINITION. The operations every family shares: reading and updating the parts of State, time, identifier blocks,
events, interrupts, device memory (owner check, key pairs, poison, translation), fault records and fences. -/

namespace Sys2Proof.Machine

/-- The answer of a meaning. -/
abbrev Res := Host.Outcome State Fault Refusal

/-- A command whose trigger does not hold changes nothing (log 1). -/
def doWhen (c : Bool) (t : State) (s : State) : Res := .next (if c then t else s)

/-! ### Parts of the state -/

def getTile (s : State) (t : Nat) : Tile := smGet s.tiles {} t
def updTile (t : Nat) (f : Tile → Tile) (s : State) : State := { s with tiles := smSet s.tiles t (f (getTile s t)) }

def getQueue (s : State) (q : Nat) : Queue := smGet s.queues { gen := s.queueGen } q
def updQueue (q : Nat) (f : Queue → Queue) (s : State) : State := { s with queues := smSet s.queues q (f (getQueue s q)) }

def getFunc (s : State) (f : Nat) : Func := smGet s.link.funcs {} f
def updFunc (n : Nat) (f : Func → Func) (s : State) : State :=
  { s with link := { s.link with funcs := smSet s.link.funcs n (f (getFunc s n)) } }

def getChan (s : State) (c : Nat) : Channel := smGet s.mem.channels {} c
def updChan (c : Nat) (f : Channel → Channel) (s : State) : State :=
  { s with mem := { s.mem with channels := smSet s.mem.channels c (f (getChan s c)) } }

def getStack (s : State) (k : Nat) : Stack := smGet s.mem.hbm {} k
def updStack (k : Nat) (f : Stack → Stack) (s : State) : State :=
  { s with mem := { s.mem with hbm := smSet s.mem.hbm k (f (getStack s k)) } }

def getSub (s : State) (k : Nat) : Sub := smGet s.net.subs {} k
def updSub (k : Nat) (f : Sub → Sub) (s : State) : State :=
  { s with net := { s.net with subs := smSet s.net.subs k (f (getSub s k)) } }

def getPort (s : State) (k : Nat) : Port := smGet s.net.ports {} k
def updPort (k : Nat) (f : Port → Port) (s : State) : State :=
  { s with net := { s.net with ports := smSet s.net.ports k (f (getPort s k)) } }

def findFlow (s : State) (p : Nat) : Option Flow := smFind s.net.flows p
def updFlow (p : Nat) (f : Flow → Flow) (s : State) : State :=
  match findFlow s p with
  | some w => { s with net := { s.net with flows := smSet s.net.flows p (f w) } }
  | none => s

def findPart (s : State) (p : Nat) : Option Part := smFind s.sched.parts p
def updPart (p : Nat) (f : Part → Part) (s : State) : State :=
  match findPart s p with
  | some w => { s with sched := { s.sched with parts := smSet s.sched.parts p (f w) } }
  | none => s

def findFlight (s : State) (n : Nat) : Option Flight := s.flights.find? fun f => f.num = n
def updFlight (n : Nat) (f : Flight → Flight) (s : State) : State :=
  { s with flights := s.flights.map fun w => if w.num = n then f w else w }
def dropFlight (n : Nat) (s : State) : State := { s with flights := s.flights.filter fun w => w.num != n }

def findTable (s : State) (t : Nat) : Option Table := smFind s.tables.tab t
def updTable (t : Nat) (f : Table → Table) (s : State) : State :=
  match findTable s t with
  | some w => { s with tables := { s.tables with tab := smSet s.tables.tab t (f w) } }
  | none => s

def updGroup (f : Group → Group) (s : State) : State := { s with net := { s.net with group := f s.net.group } }
def updInteg (f : Integ → Integ) (s : State) : State := { s with integ := f s.integ }
def updTele (f : Tele → Tele) (s : State) : State := { s with tele := f s.tele }
def updMem (f : Mem → Mem) (s : State) : State := { s with mem := f s.mem }
def updTables (f : Tables → Tables) (s : State) : State := { s with tables := f s.tables }
def updSched (f : Sched → Sched) (s : State) : State := { s with sched := f s.sched }
/-- A command's nodes and stages that wait for admission go. -/
def dropStages (n : Nat) (s : State) : State :=
  updSched (fun c => { c with stages := c.stages.filter fun x => x.flight != n }) s
def updClock (f : Clock → Clock) (s : State) : State := { s with clock := f s.clock }
def updBeat (f : Beat → Beat) (s : State) : State := { s with beat := f s.beat }
def updPower (f : Power → Power) (s : State) : State := { s with power := f s.power }
def updSec (f : Sec → Sec) (s : State) : State := { s with sec := f s.sec }
def updLink (f : Link → Link) (s : State) : State := { s with link := f s.link }
def updNet (f : Net → Net) (s : State) : State := { s with net := f s.net }
def updOut (f : Out → Out) (s : State) : State := { s with out := f s.out }
def updClover (f : Clover → Clover) (s : State) : State := { s with clover := f s.clover }

/-- A fresh value the spec leaves open (log 8). -/
def freshFree (s : State) : U64 × State := (Config.freeValue s.freeCtr, { s with freeCtr := s.freeCtr + 1 })

/-- A fresh DRBG draw (16 R440, log 8). -/
def freshDraw (s : State) : U64 × State := (Config.draw s.freeCtr, { s with freeCtr := s.freeCtr + 1 })

/-! ### Time (02 R34, R45) -/

def now (s : State) : Nat := s.clock.tsc
def beatNs (s : State) : Nat := s.beat.periodUs * 1000
def headNs (s : State) : Nat := s.beat.headUs * 1000
/-- BEAT.NUMBER: floor(TSC ÷ period), R45. -/
def beatNo (s : State) : Nat := now s / beatNs s
/-- The time-degraded flag, set unless LOCKED (R44). -/
def degraded (s : State) : Bool := s.clock.lock != .locked
/-- TIME.STATUS.STATE as a number (R49). -/
def lockCode : LockState → Nat
  | .unlocked => 0
  | .degraded => 1
  | .locked => 2
/-- The device number, 0xFFFF in no group (R55). -/
def deviceNo (s : State) : Nat := s.net.group.device
/-- Group member: GSTATE MEMBER or LEAVING (14 R400). -/
def isMember (s : State) : Bool := 2 ≤ s.net.group.gstate
/-- What is left of a correction once the TSC has moved by `d` ns: slewing corrects 1 ns in 1,999 of a TSC held back, in
2,001 of one hastened; at half rate the oscillator runs 1 ns further for each (R42, log 3). -/
def corrAfter (d : Nat) : Correction → Correction
  | .none => .none
  | .slew o =>
    let r : Int := if 0 < o then o - min o ((d / 1999 : Nat) : Int) else o + min (-o) ((d / 2001 : Nat) : Int)
    if r = 0 then .none else .slew r
  | .halfRate o =>
    if 1000000 < o - (d : Int) then .halfRate (o - d) else
    let r : Int := 1000000 - (((d : Int) - (o - 1000000)).toNat / 1999 : Nat)
    if r ≤ 0 then .none else .slew r

/-- An event's instant: the TSC moves up to it, never back (R42, log 2), and what corrects it goes on meanwhile. -/
def advance (t : Nat) (s : State) : State :=
  updClock (fun c => { c with
    tsc := max c.tsc t
    corr := corrAfter (t - c.tsc) c.corr }) s
/-- A named beat clamped later than the current one (11 R304). -/
def laterBeat (s : State) (b : Nat) : Nat := max b (beatNo s + 1)

/-! ### Events (02 R54, 17 R456) and interrupts (13 R350) -/

/-- Write an event of a source: it goes to the telemetry block with the source's next 8-bit sequence. -/
def emitAt (stamp src code part : Nat) (fields : List (Nat × Nat × Nat)) (s : State) : State :=
  let q := smGet s.tele.sseq 0 src
  let e : Event := { stamp, device := deviceNo s, source := src, sseq := q, degraded := degraded s, code, part,
                     data := (rec_ 56 fields).drop 20 }
  updTele (fun t => { t with events := t.events ++ [e], sseq := smSet t.sseq src ((q + 1) % 256) }) s

def emit (src code part : Nat) (fields : List (Nat × Nat × Nat)) (s : State) : State :=
  emitAt (now s) src code part fields s

/-- PARTITION of an event that concerns the device (17 R456). -/
abbrev devPart : Nat := 0xFF

/-- LINK_UP and PCS_LOCKED of a sub-port become these, with LINK_STATE where one changes (14 R370). -/
def setLinkState (sub : Nat) (up locked : Bool) (s : State) : State :=
  let w := getSub s sub
  if w.linkUp == up && w.pcs == locked then s
  else emit (srcPort sub) evLinkState devPart [(20, 1, b2n up), (21, 1, b2n locked)]
    (updSub sub (fun w => { w with
      linkUp := up
      pcs := locked }) s)

def vecCount (f : Nat) : Nat := if f = 0 then 2048 else 64

/-- An MSI-X message due at a vector: sent, or its pending bit set while masked or disabled (13 R350). -/
def msix (f v : Nat) (s : State) : State :=
  let fn := getFunc s f
  let x := smGet fn.msix {} v
  if fn.msixEnable && !x.masked then updOut (fun o => { o with msix := o.msix ++ [(f, v, now s)] }) s
  else updFunc f (fun g => { g with msix := smSet g.msix v { x with pending := true } }) s

/-! ### Identifier blocks (09 R234, 10 R260) -/

/-- The partition that holds sixteenth i. -/
def sixteenthOwner (s : State) (i : Nat) : Option Nat :=
  (s.sched.parts.find? fun p => p.2.first ≤ i && i < p.2.first + p.2.sixteenths).map (·.1)

def contextOwner (s : State) (c : Nat) : Option Nat := sixteenthOwner s (c / 4096)
def queueOwner (s : State) (q : Nat) : Option Nat := sixteenthOwner s (q / 4096)
def fenceOwner (s : State) (f : Nat) : Option Nat := sixteenthOwner s (f / 16384)
def windowOwner (s : State) (w : Nat) : Option Nat := sixteenthOwner s (w / 256)
def keyDomainOwner (s : State) (k : Nat) : Option Nat := sixteenthOwner s (k / 64)
def tableOwner (s : State) (t : Nat) : Option Nat := sixteenthOwner s (t / 256)
/-- Tile die × 32 + tile lies in sixteenth die × 4 + column ÷ 2 (01 R25). -/
def tileSixteenth (t : Nat) : Nat := t / 32 * 4 + t % 8 / 2
def tileOwner (s : State) (t : Nat) : Option Nat := sixteenthOwner s (tileSixteenth t)

/-- The partition's tiles in partition-local order: ascending die × 32 + tile. -/
def partTiles (p : Part) : List Nat :=
  (List.range 128).filter fun t => p.first ≤ tileSixteenth t && tileSixteenth t < p.first + p.sixteenths

/-- Dies of the partition, ascending. -/
def partDies (p : Part) : List Nat :=
  (List.range 4).filter fun d => p.first < 4 * d + 4 && 4 * d < p.first + p.sixteenths

/-- The partition owns its whole dies (01 R26). -/
def wholeDies (p : Part) : Bool := 4 ≤ p.sixteenths

/-- The function that holds a queue by QMAP; the physical function where no partition does. -/
def queueFunc (s : State) (q : Nat) : Nat :=
  match queueOwner s q with
  | none => 0
  | some p => match findPart s p with
    | none => 0
    | some w => w.qmap.getD ((q - w.first * 4096) / 256) 0

/-- The blocks of 256 queues a function holds, ascending; the physical function holds the blocks of sixteenths in no
partition (log 17). -/
def funcBlocks (s : State) (f : Nat) : List Nat :=
  (List.range 256).filter fun b => queueFunc s (b * 256) == f

/-- The queue at a function's local index (10 R260). -/
def localQueue (s : State) (f i : Nat) : Option Nat :=
  ((funcBlocks s f)[i / 256]?).map fun b => b * 256 + i % 256

/-- The partition a function is bound to (13 R342); the physical function's first one. -/
def funcPart (s : State) (f : Nat) : Option Nat :=
  (funcBlocks s f).findSome? fun b => queueOwner s (b * 256)

/-- A partition's primary function: QMAP entry 0 (13 R342). -/
def primaryFunc (s : State) (p : Nat) : Nat :=
  match findPart s p with
  | none => 0
  | some w => w.qmap.getD 0 0

/-- A function of the partition is locked under TDISP: CONFIG_LOCKED or RUN (13 R360). -/
def tdiLocked (s : State) (p : Nat) : Bool := match findPart s p with
  | some w => w.qmap.any fun f => f != 0 && ((getFunc s f).tdi == .locked || (getFunc s f).tdi == .run)
  | none => false

/-- ARRAY.DBG_EN of a partition, taken as 0 while it is locked under TDISP (04 R103, 13 R360). -/
def dbgEnabled (s : State) (p : Nat) : Bool := s.dbgEn.toNat.testBit p && !tdiLocked s p

/-- Clamp an identifier into a partition's blocks of `per` per sixteenth (R7, R316: the nearest). -/
def clampBlock (s : State) (p : Option Nat) (per v : Nat) : Nat :=
  match p.bind (findPart s) with
  | none => v
  | some w => clampN (w.first * per) ((w.first + w.sixteenths) * per - 1) v

/-! ### Device physical addresses (09 R235, 08 R205) -/

abbrev frameBytes : Nat := 2 ^ 21
abbrev stackBytes : Nat := 80 * 2 ^ 30

def frameOf (pa : Nat) : Nat := pa / frameBytes
/-- Stack of a physical address: die × 4 + die offset ÷ 80 GiB. -/
def stackOf (pa : Nat) : Nat := pa / 2 ^ 42 * 4 + pa % 2 ^ 42 / stackBytes
def stackOff (pa : Nat) : Nat := pa % 2 ^ 42 % stackBytes
/-- The physical address of an offset within a stack. -/
def stackPa (k o : Nat) : Nat := k / 4 * 2 ^ 42 + k % 4 * stackBytes + o
def stackFrame (k f : Nat) : Nat := frameOf (stackPa k (f * frameBytes))

/-- The working channels of the map of an offset: 16, or 15 without the one mapped out (R205, R228). -/
def stackWays (s : State) (k frame : Nat) : List Nat :=
  let x := getStack s k
  match x.out with
  | none => List.range 16
  | some c =>
    let fifteen := (List.range 16).filter (· != c)
    if x.phase = .moving then
      -- R228: above the slot frames 15-way, below 16-way; a slot frame is 15-way once WRITTEN
      match s.mem.stage.find? (fun v => v.2.stack = k && v.2.frame = frame) with
      | some v => if v.2.phase = .written then fifteen else List.range 16
      | none => match x.next with
        | some n => if n < frame then fifteen else List.range 16
        | none => fifteen
    else fifteen

/-- Channel number (stack × 16 + channel) of a physical address (R205). -/
def chanOf (s : State) (pa : Nat) : Nat :=
  let k := stackOf pa
  let o := stackOff pa
  let ways := stackWays s k (o / frameBytes)
  k * 16 + ways.getD (o / 2048 % ways.length) 0

/-- Populated frames of a stack: 40,960, or 38,400 once reduced, or none once retired (R227, R230). -/
def stackFrames (s : State) (k : Nat) : Nat :=
  let x := getStack s k
  if x.retired then 0 else if x.reduced || x.out.isSome then 38400 else 40960

/-- The stack answers MEM_CHANNEL_DEAD: being zero-filled after a dead channel, or retired (R230). -/
def stackDead (s : State) (k : Nat) : Bool :=
  let x := getStack s k
  x.phase == .zeroFill || x.retired

def populated (s : State) (frame : Nat) : Bool :=
  let pa := frame * frameBytes
  pa % 2 ^ 42 < 4 * stackBytes && stackOff pa / frameBytes < stackFrames s (stackOf pa)

/-! ### HBM contents (08 R208, R219 to R221; logs 4, 5) -/

/-- A byte as listed; unlisted bytes of a written granule are 0. -/
def cellGet (cells : List Host.Cell) (a : Nat) : Byte :=
  match cells.find? fun c => c.1 = a with
  | some c => c.2
  | none => 0

/-- The cells of a byte string from address `a`, zeros not listed. -/
def cellsOf : Nat → List Byte → List Host.Cell
  | _, [] => []
  | a, b :: bs => if b = 0 then cellsOf (a + 1) bs else (a, b) :: cellsOf (a + 1) bs

/-- Write a byte string over [a, a + length): the canonical form is kept. -/
def cellsPut (cells : List Host.Cell) (a : Nat) (bs : List Byte) : List Host.Cell :=
  cells.filter (fun c => c.1 < a) ++ cellsOf a bs ++ cells.filter (fun c => a + bs.length ≤ c.1)

/-- The canonical form: addresses strictly rising, no zero byte listed (what an unlisted byte reads as). -/
abbrev cellsWf (cells : List Host.Cell) : Prop :=
  cells.Pairwise (fun x y => x.1 < y.1) ∧ ∀ c ∈ cells, c.2 ≠ 0

abbrev Memory.wf (m : Mem) : Prop := cellsWf m.cells

/-- The key pair a granule was written under; 0 when nothing has written it. -/
def tagOf (m : Mem) (g : Nat) : Nat := (smFind m.keyTag g).getD (smGet m.zeroed 0 (g / 32768))

/-- The plaintext of a granule as stored. -/
def granuleBytes (m : Mem) (g : Nat) : List Byte := (List.range 64).map fun i => cellGet m.cells (64 * g + i)

/-- A byte read under key pair `k`: the plaintext when the granule was written under it, else a free value (R221). -/
def plainByte (m : Mem) (k pa : Nat) : Byte :=
  let t := tagOf m (pa / 64)
  if t = k && k != 0 then cellGet m.cells pa else Config.unrelated pa k t (granuleBytes m (pa / 64))

def plainBytes (m : Mem) (k pa n : Nat) : List Byte := (List.range n).map fun i => plainByte m k (pa + i)

/-- Store a whole granule under key pair `k`; a write of the whole granule clears its poison (R219). -/
def putGranule (m : Mem) (k g : Nat) (bs : List Byte) : Mem :=
  { m with
    cells := cellsPut m.cells (64 * g) bs
    keyTag := if smGet m.zeroed 0 (g / 32768) = k then smDel m.keyTag g else smSet m.keyTag g k
    errors := smDel m.errors g
    poison := m.poison.filter (· != g) }

/-- Zero a frame under a key pair (0: zero ciphertext, which reads as unwritten). -/
def zeroFrame (m : Mem) (k f : Nat) : Mem :=
  { m with
    cells := m.cells.filter fun c => c.1 / frameBytes != f
    keyTag := smFilter m.keyTag fun g _ => g / 32768 != f
    zeroed := if k = 0 then smDel m.zeroed f else smSet m.zeroed f k
    errors := smFilter m.errors fun g _ => g / 32768 != f
    poison := m.poison.filter fun g => g / 32768 != f }

/-- The key pair of a frame: the incarnation of its owner entry's key domain (R220, 16 R441). -/
def keyPair (s : State) (frame : Nat) : Nat :=
  match smFind s.mem.owners frame with
  | none => 0
  | some o => smGet s.sec.keyDomains 0 o.keyDomain

/-- The 2 MiB frame address at which a context maps a physical address; 0 where it does not (no physical address is ever
named to a partition, R236). -/
def vaOfPa (es : SMap Extent) (c pa : Nat) : Nat :=
  match es.find? fun e => e.2.context = c && e.2.paFrame ≤ frameOf pa && frameOf pa < e.2.paFrame + e.2.lenFrames with
  | some e => (e.2.vaFrame + (frameOf pa - e.2.paFrame)) * frameBytes
  | none => 0

/-- The owner check of a request with context `c` (09 R244). -/
def admits (s : State) (c : Nat) (write : Bool) (frame : Nat) : Bool :=
  match smFind s.mem.owners frame with
  | none => false
  | some o =>
    sixteenthOwner s (stackOf (frame * frameBytes)) == some o.partition &&
    ((o.owner == c && (!write || o.ownerW)) || o.shares.any fun x => x.2.1 == c && (!write || x.2.2))

/-- What an access met: blocked and uncorrectable granules, each with the address of the first and how many, and which
status came first (R494). -/
structure Acc where
  data   : List Byte := []
  denied : Option (Nat × Nat) := none
  uncorr : Option (Nat × Nat) := none
  dead   : Option Nat := none
  first  : Nat := 0
  /-- physical addresses of the uncorrectable granules, for MEM.CH_STATUS.UE_COUNT (08 R218) -/
  ues    : List Nat := []
  /-- physical addresses of the corrected granules, for MEM.CH_STATUS.CE_HOUR (08 R217) -/
  ces    : List Nat := []
  deriving DecidableEq, Repr

def bump (o : Option (Nat × Nat)) (pa : Nat) : Option (Nat × Nat) :=
  match o with
  | none => some (pa, 1)
  | some (f, n) => some (f, satAdd 32 n 1)

def accAdd (a : Acc) (st pa : Nat) : Acc :=
  { a with
    denied := if st = stAccessDenied then bump a.denied pa else a.denied
    uncorr := if st = stMemUncorrectable then bump a.uncorr pa else a.uncorr
    ues := if st = stMemUncorrectable then a.ues ++ [pa] else a.ues
    dead := if st = stMemChannelDead then some (a.dead.getD pa) else a.dead
    first := if a.first = 0 then st else a.first }

/-- The pieces of [pa, pa + n) by granule. -/
def pieces (pa n : Nat) : List (Nat × Nat) :=
  if n = 0 then [] else
  (List.range ((pa + n - 1) / 64 - pa / 64 + 1)).map fun i =>
    let g := pa / 64 + i
    let lo := max pa (64 * g)
    (lo, min (pa + n) (64 * g + 64) - lo)

/-- What the decoder makes of a granule: clean, corrected, uncorrectable, or miscorrected (R216). -/
inductive Ecc where
  | clean | corrected | bad | stray
  deriving DecidableEq, Repr

/-- The decoding of n wrong symbols under a mode; beyond the code's reach a word is miscorrected or detected, which `mis`
says (R216; log 32). -/
def eccOf (mode n : Nat) (mis : Bool) : Ecc :=
  if n = 0 then .clean
  else if mode = 0 then (if n ≤ 4 then .corrected else if mis then .stray else .bad)
  else if mode = 1 then (if n ≤ 2 then .corrected else if n ≤ 6 then .bad else if mis then .stray else .bad)
  else .bad

/-- What decoding a stored granule gives: poison is told before any correction (R219). -/
def eccAt (m : Mem) (mode g : Nat) : Ecc :=
  if m.poison.contains g then .bad
  else match smFind m.errors g with
    | some e => eccOf mode e.1 e.2
    | none => .clean

/-- Bytes of a miscorrected granule: a free value (log 32). -/
def strayBytes (m : Mem) (pa n : Nat) : List Byte :=
  (List.range n).map fun i => Config.unrelated (pa + i) (2 ^ 16) (tagOf m (pa / 64)) (granuleBytes m (pa / 64))

/-- Read a piece of one granule: zeros when blocked, dead or uncorrectable (R216, R218, R230, R244). -/
def readPiece (mode : Nat) (s : State) (ok : Nat → Bool) (a : Acc) (p : Nat × Nat) : Acc :=
  let f := frameOf p.1
  if stackDead s (stackOf p.1) then { accAdd a stMemChannelDead p.1 with data := a.data ++ zeros p.2 }
  else if !ok f then { accAdd a stAccessDenied p.1 with data := a.data ++ zeros p.2 }
  else match eccAt s.mem mode (p.1 / 64) with
    | .bad => { accAdd a stMemUncorrectable p.1 with data := a.data ++ zeros p.2 }
    | .stray => { a with
        data := a.data ++ strayBytes s.mem p.1 p.2
        ces := a.ces ++ [p.1] }
    | .corrected => { a with
        data := a.data ++ plainBytes s.mem (keyPair s f) p.1 p.2
        ces := a.ces ++ [p.1] }
    | .clean => { a with data := a.data ++ plainBytes s.mem (keyPair s f) p.1 p.2 }

/-- Read physical memory under a decoding policy. -/
def readMode (mode : Nat) (s : State) (ok : Nat → Bool) (pa n : Nat) (a : Acc) : Acc :=
  (pieces pa n).foldl (readPiece mode s ok) a

/-- Read physical memory now. -/
def readPhys (s : State) (ok : Nat → Bool) (pa n : Nat) (a : Acc) : Acc := readMode s.mem.eccMode s ok pa n a

/-- Write a piece of one granule: dropped when blocked or dead; a partial write whose merge cannot read the granule is
dropped (R208, R219); otherwise the granule is read, merged and written whole. `bs` are the whole write's bytes from
`pa0`. -/
def writePiece (mode : Nat) (ok : Nat → Bool) (pa0 : Nat) (bs : List Byte) (x : State × Acc) (p : Nat × Nat) : State × Acc :=
  let (s, a) := x
  let f := frameOf p.1
  let g := p.1 / 64
  let e := if p.2 < 64 then eccAt s.mem mode g else .clean
  if stackDead s (stackOf p.1) then (s, accAdd a stMemChannelDead p.1)
  else if !ok f then (s, accAdd a stAccessDenied p.1)
  else if e == .bad then (s, accAdd a stMemUncorrectable p.1)
  else
    let k := keyPair s f
    let old := if e == .stray then strayBytes s.mem (64 * g) 64 else plainBytes s.mem k (64 * g) 64
    (updMem (fun m => putGranule m k g (patch old (p.1 - 64 * g) (slice bs (p.1 - pa0) p.2))) s,
     if e == .clean then a else { a with ces := a.ces ++ [p.1] })

/-- Write physical memory under a decoding policy for its merges. -/
def writeMode (mode : Nat) (ok : Nat → Bool) (pa : Nat) (bs : List Byte) (x : State × Acc) : State × Acc :=
  (pieces pa bs.length).foldl (writePiece mode ok pa bs) x

/-- Write physical memory now. -/
def writePhys (ok : Nat → Bool) (pa : Nat) (bs : List Byte) (x : State × Acc) : State × Acc :=
  writeMode x.1.mem.eccMode ok pa bs x

/-- A partial write of single nibbles (03 R60, 08 R208): byte at `pa`, high or low nibble. -/
def nibbleMode (mode : Nat) (ok : Nat → Bool) (pa : Nat) (high : Bool) (v : Nat) (x : State × Acc) : State × Acc :=
  let old := match eccAt x.1.mem mode (pa / 64) with
    | .stray => num (strayBytes x.1.mem pa 1) 0 1
    | _ => (plainByte x.1.mem (keyPair x.1 (frameOf pa)) pa).toNat
  let new := if high then old % 16 + 16 * (v % 16) else old / 16 * 16 + v % 16
  writeMode mode ok pa [BitVec.ofNat 8 new] x

def writeNibble (ok : Nat → Bool) (pa : Nat) (high : Bool) (v : Nat) (x : State × Acc) : State × Acc :=
  nibbleMode x.1.mem.eccMode ok pa high v x

/-- Uncorrectable reads counted on their channels, with their times; 16 within 1 ms are the channel's end (08 R218,
R230). -/
def countUes (pas : List Nat) (s : State) : State :=
  pas.foldl (fun s pa => updChan (chanOf s pa) (fun c =>
    let l := (c.ueTimes ++ [now s]).drop (c.ueTimes.length + 1 - 16)
    { c with
      ueCount := satAdd 16 c.ueCount 1
      ueTimes := l
      ueKill := c.ueKill || (l.length = 16 && now s ≤ l.headD 0 + 1000000) }) s) s

/-! ### Contexts and extents (09 R237, R238, R254) -/

def insertExtent (e : Extent) : List Extent → List Extent
  | [] => [e]
  | x :: xs => if e.vaFrame ≤ x.vaFrame then e :: x :: xs else x :: insertExtent e xs

/-- The context is RETIRING: its bit of the channels' retired vector is set (09 R251). -/
def retiringCtx (s : State) (c : Nat) : Bool := s.mem.retiring.any fun r => r.context == c

/-- A context's extents in ascending virtual address. -/
def ctxExtents (s : State) (c : Nat) : List Extent :=
  (s.mem.extents.filter fun e => e.2.context = c).foldl (fun l e => insertExtent e.2 l) []

/-- The lowest unmapped frame of [cur, last], given ascending extents. -/
def firstGap (cur last : Nat) : List Extent → Option Nat
  | [] => if cur ≤ last then some cur else none
  | e :: es =>
    if e.vaFrame ≤ cur then firstGap (max cur (e.vaFrame + e.lenFrames)) last es
    else if cur ≤ last then some cur else none

/-- The lowest frame of [cur, last] in an extent without the permission. -/
def firstLack (ok : Extent → Bool) (cur last : Nat) (es : List Extent) : Option Nat :=
  (es.find? fun e => !ok e && e.vaFrame ≤ last && cur < e.vaFrame + e.lenFrames).map fun e => max cur e.vaFrame

/-- Whole-range translation (R254): UNMAPPED, then NO_READ, then NO_WRITE, with the address of the lowest such frame. -/
def checkRange (s : State) (c va n : Nat) (rd wr : Bool) : Option (Nat × Nat) :=
  if n = 0 then none else
  let es := ctxExtents s c
  let lo := va / frameBytes
  let hi := (va + n - 1) / frameBytes
  match firstGap lo hi es with
  | some f => some (stUnmapped, f * frameBytes)
  | none =>
    match (if rd then firstLack (·.read) lo hi es else none) with
    | some f => some (stNoRead, f * frameBytes)
    | none =>
      match (if wr then firstLack (·.write) lo hi es else none) with
      | some f => some (stNoWrite, f * frameBytes)
      | none => none

/-- The physical segments of a mapped range, in ascending address. -/
def segments (s : State) (c va n : Nat) : List Seg :=
  (ctxExtents s c).filterMap fun e =>
    let lo := max va (e.vaFrame * frameBytes)
    let hi := min (va + n) ((e.vaFrame + e.lenFrames) * frameBytes)
    if lo < hi then some { off := lo - va, pa := e.paFrame * frameBytes + (lo - e.vaFrame * frameBytes), len := hi - lo }
    else none

/-- Read a mapped range of a context, every granule checked (R244). -/
def readVa (s : State) (c va n : Nat) : Acc :=
  (segments s c va n).foldl (fun a g => readPhys s (admits s c false) g.pa g.len a) {}

/-- Write a mapped range of a context, every granule checked (R244). -/
def writeVa (c va : Nat) (bs : List Byte) (s : State) : State × Acc :=
  (segments s c va bs.length).foldl (fun x g => writePhys (admits s c true) g.pa (slice bs g.off g.len) x) (s, {})

/-- Write a mapped range of a context for the device itself (records of fault queues, rings, monitors, recorder). -/
def putVa (c va : Nat) (bs : List Byte) (s : State) : State :=
  ((segments s c va bs.length).foldl (fun x g => writePhys (fun _ => true) g.pa (slice bs g.off g.len) x) (s, {})).1

def getVa (s : State) (c va n : Nat) : List Byte :=
  ((segments s c va n).foldl (fun a g => readPhys s (fun _ => true) g.pa g.len a) {}).data

/-! ### Host-cached lines (13 R352, R353) -/

def snoopSet (line : Nat) : Nat := line % 262144

/-- The taken ways of a line's set, in the order of the ways. -/
def snoopWays (s : State) (line : Nat) : List (Nat × Bool) := (smGet s.link.snoop [] (snoopSet line)).filterMap id

/-- What the host holds of a line: EXCLUSIVE or not. -/
def snoopFind (s : State) (line : Nat) : Option Bool := ((snoopWays s line).find? fun e => e.1 = line).map (·.2)

/-- The back-invalidates a device access of these segments needs (R352): lines and whether to invalidate. -/
def neededSnoops (s : State) (write : Bool) (segs : List Seg) : List (Nat × Bool) :=
  segs.flatMap fun g => (pieces g.pa g.len).filterMap fun p =>
    let line := p.1 / 64
    let hdm := match smFind s.mem.owners (frameOf p.1) with
      | some o => o.hdm
      | none => false
    if !hdm then none else
    match snoopFind s line with
    | none => none
    | some ex => if write then some (line, true) else if ex then some (line, false) else none

/-- Send the back-invalidates that are not already waiting. -/
def sendSnoops (l : List (Nat × Bool)) (s : State) : State :=
  l.foldl (fun s x =>
    if s.link.biWaits.any fun b => b.line = x.1 then s
    else updOut (fun o => { o with snoops := o.snoops ++ [x] })
      (updLink (fun k => { k with biWaits := k.biWaits ++ [{ line := x.1, inv := x.2, since := now s, host := none }] }) s)) s

/-- A write to a frame that a staging slot holds waits (08 R228). -/
def writeHeld (s : State) (segs : List Seg) : Bool :=
  s.mem.stage.any fun v => v.2.phase != .written && segs.any fun g =>
    g.pa < (stackFrame v.2.stack v.2.frame + 1) * frameBytes && stackFrame v.2.stack v.2.frame * frameBytes < g.pa + g.len

/-- Do `act` unless the access must first wait: a write for the frame's map-out, or an access for back-invalidates, which
are then sent (R352, 08 R228; log 11). -/
def afterSnoops (write : Bool) (segs : List Seg) (act : State → State) (s : State) : State :=
  if write && writeHeld s segs then s else
  match neededSnoops s write segs with
  | [] => act s
  | l => sendSnoops l s

/-! ### Fault records (09 R255 to R258) -/

structure FaultRec where
  stamp   : Nat
  source  : Nat := srcCmd
  context : Nat := 0
  queue   : Option Nat := none
  status  : Nat
  seq     : Nat := 0
  opcode  : Nat := 0
  atype   : Nat := 3
  write   : Bool := false
  remote  : Bool := false
  waiting : Bool := false
  address : Nat := 0
  peer    : Nat := 0
  window  : Nat := 0
  detail  : Nat := 0
  deriving DecidableEq, Repr

/-- The 64-byte layout of R256. -/
def faultBytes (r : FaultRec) (rseq : Nat) (phase : Bool) : List Byte :=
  rec_ 64 [(0, 8, r.stamp), (8, 2, r.source), (10, 2, r.context), (12, 2, r.queue.getD 0), (14, 2, r.status),
    (16, 4, r.seq), (20, 2, r.opcode), (22, 1, r.atype),
    (23, 1, b2n r.queue.isSome + 2 * b2n r.write + 4 * b2n r.remote + 8 * b2n r.waiting),
    (24, 8, r.address), (32, 2, r.peer), (34, 2, r.window), (36, 4, r.detail), (62, 1, rseq), (63, 1, b2n phase)]

def ringVa (r : Ring) : Nat := r.base.toNat % 2 ^ 48 / 4096 * 4096
def ringCtx (r : Ring) : Nat := r.base.toNat / 2 ^ 48

/-- The ring of a fault queue: a partition's or the operator's. -/
def getFaultq (s : State) (p : Option Nat) : Ring :=
  match p with
  | some p => smGet s.mem.faultqs {} p
  | none => s.mem.opFaultq

def setFaultq (p : Option Nat) (r : Ring) (s : State) : State :=
  updMem (fun m => match p with
    | some p => { m with faultqs := smSet m.faultqs p r }
    | none => { m with opFaultq := r }) s

def faultqFunc (s : State) (p : Option Nat) : Nat :=
  match p with
  | some p => primaryFunc s p
  | none => 0

/-- Place a fault record in a fault queue: written, dropped when full, or counted in LOST (R255, R257). -/
def faultPut (p : Option Nat) (r : FaultRec) (s : State) : State :=
  let q := getFaultq s p
  let irq (s : State) : State := if q.irqEn then msix (faultqFunc s p) q.vector s else s
  if !q.valid then setFaultq p { q with lost := satAdd 32 q.lost 1 } s
  else if (q.tail + 2 ^ 32 - q.head) % 2 ^ 32 ≥ 4096 then
    let s := setFaultq p { q with overflow := satAdd 32 q.overflow 1, dropped := q.dropped + 1 } s
    if q.dropped = 0 then irq s else s
  else
    let s := putVa (ringCtx q) (ringVa q + 64 * (q.tail % 4096))
      (faultBytes r q.rseq (q.tail / 4096 % 2 = 0)) s
    irq (setFaultq p { q with tail := (q.tail + 1) % 2 ^ 32, rseq := (q.rseq + 1) % 256 } s)

/-- The FAULTQ_OVERFLOW record of R257. -/
def overflowRec (s : State) (dropped : Nat) : FaultRec :=
  { stamp := now s, status := stFaultqOverflow, detail := min dropped 0xFFFFFFFF }

/-! ### Fences (10 R286) -/

def fenceVal (s : State) (f : Nat) : Nat := smGet s.fences 0 f

/-- A signal: the maximum, or with `add` the saturating sum. -/
def fenceRaise (add : Bool) (f v : Nat) (s : State) : State :=
  let c := fenceVal s f
  { s with fences := smSet s.fences f (if add then satAdd 64 c v else max c v) }

end Sys2Proof.Machine
end

