-- ==== Sys2Proof/Machine/Monitor.lean ====
section
/-! DEFINITION. Monitors (17 R448 to R453): samples, the window record, closing a window. -/

namespace Sys2Proof.Machine

/-- Bin of a sample (R452). -/
def monBin (v : Nat) : Nat := if v = 0 then 0 else min 31 (Nat.log2 v + 1)

/-- A sample counts in an accumulator. -/
def monAdd (degr : Bool) (v : Nat) (m : Monitor) : Monitor :=
  let v := min v 0xFFFFFFFF
  let c := smGet m.bins 0 (monBin v)
  { m with
    sat := m.sat || c = 2 ^ 32 - 1 || m.count = 2 ^ 64 - 1 || 2 ^ 64 ≤ m.sum + v
    degraded := m.degraded || degr
    count := satAdd 64 m.count 1
    sum := satAdd 64 m.sum v
    min := if m.count = 0 then v else Nat.min m.min v
    max := Nat.max m.max v
    bins := smSet m.bins (monBin v) (satAdd 32 c 1) }

/-- A sample of a source, taken by every monitor of it that accumulates (R448, R451). -/
def monSample (kind index v : Nat) (s : State) : State :=
  updTele (fun t => { t with
    monitors := t.monitors.map fun m => if m.kind = kind && m.index = index && m.active then monAdd (degraded s) v m else m }) s

/-- The 192-byte record of an accumulator (R452). -/
def monRecord (m : Monitor) (isPartial isOpen : Bool) (w close : Nat) : List Byte :=
  patch (patch (rec_ 192 [(0, 8, w), (8, 8, m.startBeat), (16, 2, m.beats), (18, 1, m.kind),
    (19, 1, b2n isPartial + 2 * b2n isOpen + 4 * b2n m.degraded + 8 * b2n m.sat), (20, 2, m.index),
    (24, 8, m.count), (32, 8, m.sum), (40, 4, if m.count = 0 then 0xFFFFFFFF else m.min), (44, 4, m.max)])
    48 ((List.range 32).flatMap fun i => le 4 (smGet m.bins 0 i))) 188 (le 4 close)

/-- An empty accumulator for window `w` from beat `b` on. -/
def monEmpty (w b : Nat) (isPartial degr : Bool) (m : Monitor) : Monitor :=
  { m with
    w
    startBeat := b
    partialW := isPartial
    degraded := degr
    sat := false
    count := 0
    sum := 0
    min := 0
    max := 0
    bins := [] }

/-- Close a window: its record goes to slot w mod 2 of the buffer and stays as the last closed one (R451). -/
def monClose (isPartial : Bool) (m : Monitor) (s : State) : State × Monitor :=
  let r := monRecord m (m.partialW || isPartial) false m.w ((m.w + 1) % 2 ^ 32)
  (putVa m.context (m.buffer + 192 * (m.w % 2)) r s, { m with closed := some r })

/-- Step 3 of a beat head for one monitor: it ends when it was disarmed, starts after its arming, or closes a window at a
multiple of WINDOW_BEATS. -/
def monBeat (beat : Nat) (degr : Bool) (x : State × List Monitor) (m : Monitor) : State × List Monitor :=
  if m.disarm then
    if m.active then ((monClose true m x.1).1, x.2) else x
  else if !m.active then
    (x.1, x.2 ++ [{ monEmpty (beat / m.beats) beat (beat % m.beats != 0) degr m with active := true }])
  else if beat % m.beats = 0 || beat / m.beats != m.w then
    let y := monClose (beat % m.beats != 0) m x.1
    (y.1, x.2 ++ [monEmpty (beat / m.beats) beat (beat % m.beats != 0) degr y.2])
  else (x.1, x.2 ++ [{ m with degraded := m.degraded || degr }])

def monitorsBeat (s : State) : State :=
  let x := s.tele.monitors.foldl (monBeat (beatNo s) (degraded s)) (s, [])
  updTele (fun t => { t with monitors := x.2 }) x.1

/-- At a BEAT.PERIOD switch every open window closes with PARTIAL and windows follow the new numbering (R451). -/
def monitorsSwitch (newBeat : Nat) (s : State) : State :=
  let x := s.tele.monitors.foldl (fun (x : State × List Monitor) m =>
    if !m.active then (x.1, x.2 ++ [m]) else
    let y := monClose true m x.1
    (y.1, x.2 ++ [monEmpty (newBeat / m.beats) newBeat (newBeat % m.beats != 0) (degraded s) y.2])) (s, [])
  updTele (fun t => { t with monitors := x.2 }) x.1

end Sys2Proof.Machine
end

