-- ==== Sys2Proof/Machine/Channel.lean ====
section
/-! DEFINITION. What accesses do to the HBM channels: corrected reads and candidates (08 R217, R225), the start of a
map-out and its staging slots (R226, R227, R233). -/

namespace Sys2Proof.Machine

/-! ### Staging slots (08 R227, R233) -/

/-- A slot holds nothing that is still to be moved. -/
def slotFree (s : State) (i : Nat) : Bool := match smFind s.mem.stage i with
  | none => true
  | some v => v.phase == .written

/-- A stack in map-out may read its next frame: frames are left and none is being read. -/
def wantsSlot (s : State) (k : Nat) : Bool :=
  (getStack s k).phase == .moving && (getStack s k).next.isSome &&
  !(s.mem.stage.any fun v => v.2.stack = k && v.2.phase == .reading)

/-- A free slot takes the next frame of a stack; concurrent map-outs take the slots in turn. -/
def fillSlot (i : Nat) (s : State) : State :=
  if !slotFree s i then s else
  match ((List.range 16).map fun j => (s.mem.stageLast + 1 + j) % 16).find? (wantsSlot s) with
  | none => s
  | some k =>
    let f := (getStack s k).next.getD 0
    let s := updStack k (fun x => { x with next := if f = 0 then none else some (f - 1) }) s
    updMem (fun m => { m with
      stage := smSet m.stage i { stack := k, frame := f, phase := .reading }
      stageLast := k }) s

def fillSlots (s : State) : State := fillSlot 1 (fillSlot 0 s)

/-- The slots of a stack whose map-out is over are given up. -/
def dropSlots (k : Nat) (s : State) : State :=
  fillSlots (updMem (fun m => { m with stage := smFilter m.stage fun _ v => v.stack != k }) s)

/-! ### The start of a map-out (08 R225, R226) -/

/-- The owned frames of a stack from frame number `lo` of the stack on, ascending, with their owner entries. -/
def ownedFrom (s : State) (k lo : Nat) : List (Nat × Owner) :=
  s.mem.owners.filter fun o => stackFrame k lo ≤ o.1 && o.1 < stackFrame k 40960

/-- A MAPOUT_PENDING or STACK_LOST record names its channel (09 R256). -/
def chanRec (s : State) (st c ctx addr : Nat) : FaultRec :=
  { stamp := now s, source := srcChan c, context := ctx, status := st, atype := 0, address := addr, detail := c }

/-- Map-out of a channel starts (R227 step 1). -/
def mapoutBegin (c : Nat) (s : State) : State :=
  fillSlots (updStack (c / 16) (fun x => { x with
    phase := .moving
    channel := c % 16
    waitFrame := none
    out := some (c % 16)
    next := some 38399 }) s)

/-- The lowest candidate of a stack that may still be mapped out (R225, R226). -/
def candidateOf (s : State) (k : Nat) : Option Nat :=
  let x := getStack s k
  if x.out.isSome || x.retired then none
  else ((List.range 16).map (k * 16 + ·)).find? fun c => (getChan s c).candidate

/-- A candidate is held while the top frames are owned, else mapped out when AUTO is set or `force` (R226). -/
def mapoutTry (c : Nat) (force : Bool) (s : State) : State :=
  let k := c / 16
  match ownedFrom s k 38400 with
  | [] => if s.mem.auto || force then mapoutBegin c s else s
  | (f, o) :: _ =>
    let seen := (getStack s k).waitFrame == some f
    let s := updStack k (fun x => { x with
      phase := .waiting
      channel := c % 16
      waitFrame := some f }) s
    if seen then s else
    faultPut (some o.partition) (chanRec s stMapoutPending c o.owner (vaOfPa s.mem.extents o.owner (f * frameBytes))) s

/-- Held candidates are looked at again: the record is repeated when the lowest owned frame has changed, and with the last
frame released the map-out starts (R226). -/
def recheckMapouts (s : State) : State :=
  (List.range 16).foldl (fun s k =>
    if (getStack s k).phase != .waiting then s else
    match candidateOf s k with
    | some c => mapoutTry c false s
    | none => s) s

/-! ### Corrected and uncorrectable reads (08 R217, R218, R225) -/

/-- A corrected read: CE_HOUR, its events, and the candidate (R217, R225). -/
def noteCorrected (c : Nat) (s : State) : State :=
  let w := getChan s c
  let n := satAdd 24 w.ceHour 1
  let s := updChan c (fun w => { w with ceHour := n }) s
  let cross := n = s.mem.thresh && w.ceHour < n
  let p := (sixteenthOwner s (c / 16)).getD devPart
  let s := if w.ceHour = 0 || cross then emit (srcChan c) evMemCorrected p [(20, 4, n)] s else s
  if s.mem.thresh ≤ n && !w.candidate && w.st != .mappedOut && w.st != .dead then
    let s := updChan c (fun w => { w with candidate := true }) s
    let s := emit (srcChan c) evMapoutCandidate devPart [(20, 4, n)] s
    match candidateOf s (c / 16) with
    | some x => if (getStack s (c / 16)).phase == .idle then mapoutTry x false s else s
    | none => s
  else s

/-- What an access met is counted on the channels: corrected reads and uncorrectable ones. -/
def countErrors (a : Acc) (s : State) : State :=
  a.ces.foldl (fun s pa => noteCorrected (chanOf s pa) s) (countUes a.ues s)

end Sys2Proof.Machine
end

