-- ==== Sys2Proof/Machine/Operands.lean ====
section
/-! DEFINITION. The operand forms: the header of a submission slot (10 R263, 11 R295), parameter and expert bytes,
scalar operands of the sequencer (05 R125), and the clamps of fields that several commands share (11 R316). -/

namespace Sys2Proof.Machine

/-! ### The slot header -/

def hReady (b : List Byte) : Nat := num b 0 4
def hOpcode (b : List Byte) : Nat := num b 4 2
def hFlags (b : List Byte) : Nat := num b 6 1
def hLevel (b : List Byte) : Bool := bit (hFlags b) 0
def hOrdered (b : List Byte) : Bool := bit (hFlags b) 1
def hIrq (b : List Byte) : Bool := bit (hFlags b) 2
def hWaitMap (b : List Byte) : Bool := bit (hFlags b) 3
/-- EARLY is an expert field: with LEVEL 0 it takes its default (R298). -/
def hEarly (b : List Byte) : Bool := hLevel b && bit (hFlags b) 4
def hVis (b : List Byte) : Nat := bits (hFlags b) 6 5
def hWaitFence (b : List Byte) : Nat := num b 8 4 % 2 ^ 18
def hWaitEn (b : List Byte) : Bool := bit (num b 8 4) 31
def hSignalFence (b : List Byte) : Nat := num b 12 4 % 2 ^ 18
def hSignalAdd (b : List Byte) : Bool := hLevel b && bit (num b 12 4) 30
def hSignalEn (b : List Byte) : Bool := bit (num b 12 4) 31
def hWaitValue (b : List Byte) : Nat := num b 16 8
def hSignalValue (b : List Byte) : Nat := num b 24 8
/-- Fence timeout in ns: 0 selects 100 ms, others 1 to 10,000 ms (R263, R289). -/
def hTimeoutNs (b : List Byte) : Nat :=
  let v := num b 32 2
  (if v = 0 then 100 else min 10000 v) * 1000000
def hContext (b : List Byte) : Nat := num b 36 2
def hIndCount (b : List Byte) : Nat := min 8 (num b 38 1 % 16)
def hExpertPtr (b : List Byte) : Nat := num b 40 8 / 64 * 64
def hIndPtr (b : List Byte) : Nat := num b 48 8 / 64 * 64
def hDeadline (b : List Byte) : Nat := num b 56 8

/-- Virtual addresses have 48 bits. -/
def va48 (v : Nat) : Nat := v % 2 ^ 48
/-- A 48-bit address field of a slot. -/
def pAddr (b : List Byte) (off : Nat) : Nat := va48 (num b off 8)
/-- A fence word: number and enable bit 31 (R303). -/
def pFence (b : List Byte) (off : Nat) : Nat := num b off 4 % 2 ^ 18
def pFenceEn (b : List Byte) (off : Nat) : Bool := bit (num b off 4) 31
/-- An expert field; absent (LEVEL 0 or EXPERT_PTR 0) it reads 0, the default of every field that is not said otherwise. -/
def xField (x : List Byte) (off n : Nat) : Nat := num x off n

/-- log₂ of a ring's slots: 0 means 16, 1 to 5 are clamped to 6 (R261). -/
def ringLog (v : Nat) : Nat := if v = 0 then 16 else max 6 (min 15 v)

/-- Counts of 32 bits that wrap: how far `a` is ahead of `b`. -/
def ahead (a b : Nat) : Nat := (a + 2 ^ 32 - b) % 2 ^ 32

/-! ### Sequencer scalars (05 R125) -/

def sreg (t : Tile) (n : Fin 32) : U64 := smGet t.sreg 0 n.val
def sval (t : Tile) : SOp → Nat
  | .reg n => (sreg t n).toNat
  | .imm v => v.toNat

end Sys2Proof.Machine
end

