-- ==== Sys2Proof/Machine/Work.lean ====
section
/-! DEFINITION. The life of dispatched work: failing and finishing a command (10 R273, R279, R294, 09 R494), aborting
instances (05 R128), resetting queues (10 R293), retiring contexts (09 R251) and removing extents (09 R242, 08 R231). -/

namespace Sys2Proof.Machine

/-! ### Fault records of a command -/

/-- A fault record of a command (09 R256). -/
def cmdFault (f : Flight) (t st : Nat) : FaultRec :=
  { stamp := t, context := f.context, queue := some f.queue, status := st, seq := hReady f.slot, opcode := f.opcode }

/-- Place a fault record in the fault queue of the command's partition, the operator's where there is none (log 17). -/
def placeFault (f : Flight) (r : FaultRec) (s : State) : State :=
  faultPut (if (findPart s f.part).isSome then some f.part else none) r s

/-- The records and events of what the command's accesses met, one of each kind (R494). -/
def placeAccess (f : Flight) (s : State) : State :=
  let s := match f.denied with
    | none => s
    | some (pa, n) =>
      let c := chanOf s pa
      let s := emit (srcChan c) evAccessDenied f.part
        [(20, 2, f.context), (22, 1, b2n f.deniedW), (24, 8, frameOf pa)] s
      placeFault f { cmdFault f (now s) stAccessDenied with
        source := srcChan c, atype := 0, write := f.deniedW, address := vaOfPa s.mem.extents f.context pa, detail := n } s
  match f.uncorr with
  | none => s
  | some (pa, n) =>
    let c := chanOf s pa
    let s := emit (srcChan c) evMemUncorrectable f.part [(24, 8, frameOf pa)] s
    placeFault f { cmdFault f (now s) stMemUncorrectable with
      source := srcChan c, atype := 0, address := vaOfPa s.mem.extents f.context pa, detail := n } s

/-- The record of a status that names an address or a reason itself. -/
def placeStatus (f : Flight) (st : Nat) (s : State) : State :=
  let r := cmdFault f (now s) st
  if st = stHostAccessFault then
    placeFault f { r with source := srcHost, atype := 2, address := f.hostFault.getD 0 } s
  else if st = stAccessDenied || st = stMemUncorrectable then s
  else if st = stMemChannelDead then
    placeFault f { r with
      atype := 0
      address := f.record.getD 0
      detail := f.chan } s
  else if st = stNetNack then placeFault f { r with
      atype := if f.record.isSome then 0 else 3
      detail := f.netReason
      address := f.record.getD 0 } s
  else if placesRecord st then placeFault f { r with atype := if f.record.isSome then 0 else 3, address := f.record.getD 0 } s
  else s

/-- HALTED, with the first failure that halted the queue (10 R273). -/
def haltQueue (q seq st : Nat) (s : State) : State :=
  updQueue q (fun w => if w.halted then w else { w with halted := true, haltSeq := seq, haltStatus := st }) s

/-- Whether a failure halts the queue: it places a fault record, or ON_FAIL is HALT (R273). -/
def haltsQueue (s : State) (f : Flight) (st : Nat) : Bool :=
  st != 0 && (placesRecord st || f.denied.isSome || f.uncorr.isSome || f.hostFault.isSome || (getQueue s f.queue).onFail)

/-- The granules an operation met: the first is kept, the count saturates (R494). -/
def mergeMet : Option (Nat × Nat) → Option (Nat × Nat) → Option (Nat × Nat)
  | some (p, k), some (_, m) => some (p, satAdd 32 k m)
  | none, y => y
  | x, none => x

/-- What an access met, noted for the command's completion (R494). -/
def noteAcc (n : Nat) (write : Bool) (a : Acc) (s : State) : State :=
  let s := countErrors a s
  updFlight n (fun f => { f with
    denied := mergeMet f.denied a.denied, uncorr := mergeMet f.uncorr a.uncorr,
    deniedW := if f.denied.isNone && a.denied.isSome then write else f.deniedW,
    status := if f.status = 0 then a.first else f.status,
    chan := (match a.dead with | some pa => chanOf s pa | none => f.chan),
    record := (match a.dead with | some pa => some (f.record.getD (vaOfPa s.mem.extents f.context pa)) | none => f.record) }) s

/-- A condition of the record has come to hold: END moves to now unless the command failed (R275). -/
def touchDone (n : Nat) (s : State) : State :=
  updFlight n (fun f => if f.done.isSome && f.status = 0 then { f with done := some (now s) } else f) s

/-- Stores of the command's instances, or of its nodes', wait in a hold buffer for a comparison (15 R405). -/
def storesHeld (s : State) (n : Nat) : Bool := s.integ.checks.any fun c =>
  c.2.st == .pending && c.2.inPlace && !c.2.dupFirst &&
    (c.2.flight == n || (match findFlight s c.2.flight with
      | some f => (match f.node with
        | some x => x.1 == n
        | none => false)
      | none => false))

/-- Raise the SIGNAL fence of a command whose work has ended with success and whose writes are acknowledged on every
path, held ones too (R279, 01 R24). -/
def trySignal (n : Nat) (s : State) : State :=
  match findFlight s n with
  | none => s
  | some f =>
    if f.done.isSome && f.status == 0 && !f.signalled && f.hosts == 0 && f.msgs == 0 && f.node.isNone && !storesHeld s n then
      let s := updFlight n (fun f => { f with signalled := true }) s
      if hSignalEn f.slot then fenceRaise (hSignalAdd f.slot) (hSignalFence f.slot) (hSignalValue f.slot) s else s
    else s

/-- End a command that is no graph node: END and STATUS fixed, fault records placed, queue halted, fence raised. -/
def finishTop (n st : Nat) (s : State) : State :=
  match findFlight s n with
  | none => s
  | some f =>
    if f.done.isSome then s else
    let st' := if f.status = 0 then st else f.status
    let s := updFlight n (fun f => { f with done := some (now s), status := st' }) s
    let s := placeStatus f st' (placeAccess f (dropStages n s))
    let s := if haltsQueue s f st' then haltQueue f.queue (hReady f.slot) st' s else s
    trySignal n s

/-- A graph ends when no node runs and none can start (11 R308). -/
def graphEnd (g : Graph) : Bool := g.cur.isEmpty && (g.ended.length = g.nodes || g.failed.isSome)

/-- A node's accesses count for the graph, which is the one command of R494; the first node to fail gives the graph's status and
what its record names. -/
def mergeNode (st : Nat) (node f : Flight) : Flight :=
  let f := { f with
    denied := mergeMet f.denied node.denied
    deniedW := if f.denied.isNone then node.deniedW else f.deniedW
    uncorr := mergeMet f.uncorr node.uncorr }
  if st = 0 then f else
  { f with
    hostFault := node.hostFault
    record := node.record
    chan := node.chan
    netReason := node.netReason }

/-- A node of a graph has ended. -/
def graphNodeEnded (gn idx st : Nat) (node : Flight) (s : State) : State :=
  let s := updFlight gn (fun f => match f.work with
    | .graph g => { (if g.failed.isNone then mergeNode st node f else mergeNode 0 node f) with
        work := .graph { g with cur := smDel g.cur idx, ended := g.ended ++ [idx],
                                failed := if st != 0 && g.failed.isNone then some (idx, st) else g.failed }
        deps := f.deps ++ node.deps, prov := f.prov ++ node.prov, charge := f.charge + node.charge,
        repeatable := f.repeatable && node.repeatable }
    | _ => f) s
  match findFlight s gn with
  | some f => match f.work with
    | .graph g =>
      if graphEnd g then
        let s := updFlight gn (fun f => { f with echo := (match g.failed with | some x => x.1 | none => g.nodes) }) s
        finishTop gn (match g.failed with | some x => x.2 | none => 0) s
      else s
    | _ => s
  | none => s

/-- A check of this flight is unresolved: the flight is kept for its duplicate and third run (15 R403, R412). -/
def checkPends (s : State) (n : Nat) : Bool := s.integ.checks.any fun c => c.2.flight == n && c.2.st == .pending

/-- End a command: a node of a graph ends its part of the graph, which is the command that places the records (R494). -/
def finishFlight (n st : Nat) (s : State) : State :=
  match findFlight s n with
  | none => s
  | some f =>
    match f.node with
    | none => finishTop n st s
    | some (g, i) =>
      let st' := if f.status = 0 then st else f.status
      graphNodeEnded g i st' f (if checkPends s n then updFlight n (fun f => { f with done := some (now s) }) s else dropFlight n s)

/-! ### Aborting instances (05 R128) -/

/-- The sequencer, the array and the streams of the instance stop; persistent streams stay armed (R137). -/
def stopRun (t : Tile) : Tile :=
  { t with
    run := none, stall := .none_, matrix := none, loops := [], vloop := none, reserved := none
    accHi := [], accLo := [], accPart := [], accFor := none
    streams := (smMap t.streams fun _ x => { x with inUse := false }).filter fun x => x.2.persistent }

/-- The accumulator files that hold an instance of the arrays named are cleared to +0 (04 R101, R102). -/
def clearAcc (p : Nat → Bool) (s : State) : State :=
  { s with tiles := smMap s.tiles fun _ t => match t.accFor with
    | some u => if p u then { t with accHi := [], accLo := [], accPart := [], accFor := none } else t
    | none => t }

/-- Stop every run a predicate names. -/
def stopRuns (p : Nat → Run → Bool) (s : State) : State :=
  let s := clearAcc (fun u => match (getTile s u).run with
    | some r => p u r
    | none => false) s
  { s with tiles := smMap s.tiles fun i t => match t.run with
    | some r => if p i r then stopRun t else t
    | none => t }

/-- Sorrel forgets the checks of a command (15 R422: an aborted command's results are never released). -/
def dropChecks (n : Nat) (s : State) : State :=
  updInteg (fun g => { g with checks := smFilter g.checks fun _ c => c.flight != n || c.st != .pending }) s

/-- The command and, for a graph, its nodes. -/
def flightFamily (s : State) (n : Nat) : List Nat :=
  n :: (s.flights.filter fun f => match f.node with | some x => x.1 == n | none => false).map (·.num)

/-- Stop every instance of a command and of its nodes. -/
def stopFlight (n : Nat) (s : State) : State :=
  (flightFamily s n).foldl (fun s k => dropChecks k (stopRuns (fun _ r => r.flight == k) s)) (dropStages n s)

/-- Abort a command with a completion status (R294). -/
def abortFlight (n st : Nat) (s : State) : State :=
  let fam := flightFamily s n
  let s := stopFlight n s
  let s := (fam.drop 1).foldl (fun s k => dropFlight k s) s
  finishTop n st (updFlight n (fun f => { f with status := if f.done.isNone then st else f.status }) s)

/-- Abort a command that writes no record and signals no fence (R293, R294). -/
def discardFlight (n : Nat) (s : State) : State :=
  let fam := flightFamily s n
  fam.foldl (fun s k => dropFlight k s) (stopFlight n s)

/-- The command a flight belongs to: its graph, or itself. -/
def topFlight (f : Flight) : Nat := match f.node with
  | some (g, _) => g
  | none => f.num

/-! ### Persistent streams (05 R137) -/

def clearStreams (p : Stream → Bool) (s : State) : State :=
  { s with tiles := smMap s.tiles fun _ t => { t with streams := smFilter t.streams fun _ x => !p x } }

/-! ### Queue reset (10 R293) -/

/-- Steps 1 and 2: nothing more is fetched or dispatched, kernels are aborted, persistent streams cleared. -/
def queueResetStart (q : Nat) (s : State) : State :=
  let s := updQueue q (fun w => { w with
    life := .resetting, fetched := [], ready := none,
    waitMap := none, waitFence := none, reissue := false, rereads := none, parked := false }) s
  let s := (s.flights.filter fun f => f.queue == q).foldl (fun s f => stopFlight f.num s) s
  clearStreams (fun x => x.persistent && x.queue == q) s

/-- Steps 4 and 5: no records, no signals; GEN counts, every count 0, DISABLED. -/
def queueResetEnd (q : Nat) (s : State) : State :=
  let s := { s with flights := s.flights.filter fun f => f.queue != q }
  updQueue q (fun w => { w with
    life := .disabled, frozen := false, halted := false, blocked := false, waitMap := none, waitFence := none,
    parked := false, reissue := false, gen := (w.gen + 1) % 2 ^ 16, prod := 0, sqHead := 0, cqTail := 0, cqHead := 0,
    shadowRing := [], staleGen := 0, clamped := 0, parks := 0, resumes := 0, rereads := none, coveredAt := [], origins := [],
    fetched := [], ready := none }) s

def queueResetNow (q : Nat) (s : State) : State := queueResetEnd q (queueResetStart q s)

/-! ### Regions in device memory that are in use: windows, rings, buffers -/

def closeWindow (w : Nat) (s : State) : State := updMem (fun m => { m with windows := smDel m.windows w }) s

/-- A monitor's buffer, the recorder's region (17 R450, R454). -/
def monitorBuf (m : Monitor) : Nat × Nat × Nat := (m.context, m.buffer, 384)
def recorderRegion (s : State) : Option (Nat × Nat × Nat) :=
  s.tele.region.map fun r => (r.1, r.2, 64 * s.tele.capacity)

/-- RECORDER_STOP (R454). -/
def recorderStop (s : State) : State := updTele (fun t => { t with armed := false, region := none }) s

/-- Windows are closed, fault queues and the billing ring lose BASE_VALID, monitors and the recorder are disarmed where
their region is hit (08 R231, 09 R251). -/
def dropRegions (hit : Nat → Nat → Nat → Bool) (s : State) : State :=
  let ringHit (r : Ring) : Ring := if r.valid && hit (ringCtx r) (ringVa r) (4096 * 64) then { r with valid := false } else r
  let s := updMem (fun m => { m with
    windows := smFilter m.windows fun _ w => !hit w.context w.base w.length
    faultqs := smMap m.faultqs fun _ r => ringHit r
    opFaultq := ringHit m.opFaultq
    bill := ringHit m.bill }) s
  let s := updTele (fun t => { t with monitors := t.monitors.filter fun m => !hit m.context m.buffer 384 }) s
  match recorderRegion s with
  | some (c, va, n) => if hit c va n then recorderStop s else s
  | none => s

/-- The device-memory rings of a queue (10 R261): context, address, bytes. -/
def queueRings (w : Queue) : List (Nat × Nat × Nat) :=
  let ring (r : U64) (n : Nat) : Nat × Nat × Nat := (r.toNat / 2 ^ 48, r.toNat % 2 ^ 48 / 4096 * 4096, n)
  (if w.sqHost then [] else [ring w.sq (256 * 2 ^ ringLog w.sqSize)]) ++
  (if w.cqHost then [] else [ring w.cq (32 * 2 ^ ringLog w.cqSize)]) ++
  (if w.shadow.toNat % 2 ^ 48 / 8192 = 0 then [] else [(w.shadow.toNat / 2 ^ 48, w.shadow.toNat % 2 ^ 48 / 8192 * 8192, 8192)])

/-! ### Extents -/

/-- An extent maps part of a range of a context. -/
def touches (e : Extent) (c va n : Nat) : Bool :=
  e.context == c && va < (e.vaFrame + e.lenFrames) * frameBytes && e.vaFrame * frameBytes < va + n

/-- A physical segment lies partly in an extent's frames. -/
def segIn (e : Extent) (g : Seg) : Bool :=
  g.pa < (e.paFrame + e.lenFrames) * frameBytes && e.paFrame * frameBytes < g.pa + g.len

/-- The extents that share frames of an owner's extent (R241). -/
def sharersOf (s : State) (e : Extent) : List Nat :=
  ((s.mem.extents.filter fun x => x.2.shared && x.2.owner == e.context && x.2.context != e.context &&
    x.2.paFrame < e.paFrame + e.lenFrames && e.paFrame < x.2.paFrame + x.2.lenFrames).map (·.1))

/-- Remove an extent: an owner's frames lose their owner, a sharer leaves the one slot of each frame's share list that its
extent took. -/
def removeExtent (i : Nat) (s : State) : State :=
  match smFind s.mem.extents i with
  | none => s
  | some e =>
    let covers (f : Nat) : Bool := e.paFrame ≤ f && f < e.paFrame + e.lenFrames
    let unshare (o : Owner) : Owner := match o.shares.find? fun x => x.2 == (e.context, e.write) with
      | some x => { o with shares := smDel o.shares x.1 }
      | none => o
    updMem (fun m => { m with
      extents := smDel m.extents i
      owners := if e.shared then smMap m.owners fun f o => if covers f then unshare o else o
                else smFilter m.owners fun f _ => !covers f }) s

/-- Remove extents with the sharers of the owners' ones; one SHARE_REVOKED record for each that had sharers (R242). -/
def removeExtents (is : List Nat) (s : State) : State :=
  is.foldl (fun s i =>
    match smFind s.mem.extents i with
    | none => s
    | some e =>
      let sh := if e.shared then [] else sharersOf s e
      let s := (sh ++ [i]).foldl (fun s j => removeExtent j s) s
      if sh.isEmpty then s else
      faultPut (contextOwner s e.context)
        { stamp := now s, context := e.context, status := stShareRevoked, atype := 0, address := e.vaFrame * frameBytes } s) s

/-- As `removeExtents`; a held map-out candidate sees which frames are owned now (08 R226). -/
def dropExtents (is : List Nat) (s : State) : State := recheckMapouts (removeExtents is s)

/-- A stream holds a segment in one of the extents. -/
def streamIn (es : List Extent) (x : Stream) : Bool := x.path != 2 && x.segs.any fun g => es.any fun e => segIn e g

/-- Streams not in use, those of kernels that have not begun among them, lose their segments in an extent and are
translated again at their next use (R138). -/
def loseSegs (es : List Extent) (s : State) : State :=
  let lose (x : Stream) : Stream := if streamIn es x then { x with segs := [] } else x
  { s with
    tiles := smMap s.tiles fun _ t => { t with streams := smMap t.streams fun _ x => lose x }
    flights := s.flights.map fun f => match f.work with
      | .kernel k => if k.started then f else
          { f with work := .kernel { k with streams := k.streams.map fun y => (y.1, y.2.1, lose y.2.2) } }
      | _ => f }

/-- Running kernels that have a segment in one of the extents: begun and not ended, between instances too (R138). -/
def flightsIn (s : State) (es : List Extent) : List Nat :=
  (s.flights.filter fun f => f.done.isNone && match f.work with
    | .kernel k => k.started && k.streams.any fun y => streamIn es y.2.2
    | _ => false).map (·.num)

/-- The effects that R231 lists for extents removed at once: kernels aborted with `st` (none: without a record), streams
lose their segments, windows closed, queues reset, rings invalid, monitors and recorder disarmed. -/
def revokeExtents (is : List Nat) (st : Option Nat) (s : State) : State :=
  let es := is.filterMap fun i => smFind s.mem.extents i
  let all := es ++ (es.flatMap fun e => if e.shared then [] else (sharersOf s e).filterMap fun j => smFind s.mem.extents j)
  let hit (c va n : Nat) : Bool := all.any fun e => touches e c va n
  let tops := ((flightsIn s all).filterMap fun n => (findFlight s n).map topFlight).eraseDups
  let s := tops.foldl (fun s n => match st with
    | some st => abortFlight n st s
    | none => discardFlight n s) s
  let s := loseSegs all s
  let qs := (s.queues.filter fun q => q.2.life != .disabled && (queueRings q.2).any fun r => hit r.1 r.2.1 r.2.2).map (·.1)
  let s := qs.foldl (fun s q => queueResetNow q s) s
  dropExtents is (dropRegions hit s)

/-! ### Retiring a context (09 R251) -/

/-- Steps 1 to 5 of R251. `n` is the command that waits for the drain, none for a partition reset. -/
def retireStart (c : Nat) (n : Option Nat) (s : State) : State :=
  let s := updMem (fun m => { m with retiring := m.retiring ++ [{ context := c, flight := n }] }) s
  let tops := (s.flights.filter fun f => f.context == c && f.node.isNone && some f.num != n && f.done.isNone).map (·.num)
  let s := match n with
    | some _ => tops.foldl (fun s k => abortFlight k stContextRetired s) s
    | none => tops.foldl (fun s k => discardFlight k s) s
  let s := clearStreams (fun x => x.context == c) s
  let s := updTables (fun t => { t with served := t.served.filter fun w => w.context != c }) s
  dropRegions (fun x _ _ => x == c) s

/-- Messages the context's commands sent, host requests, and what channels accepted are over (R251). -/
def drained (s : State) (c : Nat) (n : Option Nat) : Bool :=
  !(s.flights.any fun f => f.context == c && some f.num != n && (f.msgs != 0 || f.hosts != 0)) &&
  !s.mem.channels.any fun w => w.2.queue.any fun r => r.context == some c

/-- The drain has ended: every extent of the context goes, and the context leaves RETIRING. -/
def retireEnd (c : Nat) (s : State) : State :=
  let is := (s.mem.extents.filter fun e => e.2.context == c).map (·.1)
  let s := dropExtents is s
  let ns := (s.mem.retiring.filter fun r => r.context == c).filterMap (·.flight)
  let s := updMem (fun m => { m with retiring := m.retiring.filter fun r => r.context != c }) s
  ns.foldl (fun s n => finishFlight n 0 s) s

/-! ### Choosing and crediting checks (15 R402, R409) -/

/-- A tile that may take work: not withdrawn, retired or quarantined. -/
def working (s : State) (t : Nat) : Bool :=
  let w := getTile s t
  w.withdrawn.isNone && !w.retired && !w.quarantined

/-- Agreeing runs renew the check age of their tiles (15 R409, R414). -/
def renewAge (ts : List Nat) (start : Nat) (s : State) : State :=
  ts.foldl (fun s t => updTile t (fun w => { w with
    ageStart := max w.ageStart start
    lastPass := max w.lastPass start }) s) s

/-- 65,536 × the sampling fraction (R402). -/
def sampleThreshold (code : Nat) : Nat := [512, 2048, 8192, 65536].getD code 65536

/-- 16 bits of a partition's sampling stream (R402). -/
def sampleDraw (p : Nat) (s : State) : Nat × State :=
  let d := freshDraw s
  (d.1.toNat % 65536, updInteg (fun g => { g with draws := smSet g.draws p (smGet g.draws 0 p + 1) }) d.2)

/-! ### The module fault (15 R424) -/

/-- Whether admission is stopped: module fault, not READY, entering S2 or S3, or out of S0 and S1. -/
def admissionStopped (s : State) : Bool :=
  s.power.moduleFault.isSome || !s.power.ready || s.power.entering ||
  !(s.power.state == .s0 || s.power.state == .s1) || s.power.rails != .on ||
  -- an exclusive TEST_RUN of device scope (15 R426)
  s.flights.any fun f => f.opcode == 0x601 && 4 ≤ num f.slot 64 1 && num f.slot 65 1 != 0 && f.done.isNone

end Sys2Proof.Machine
end

