-- ==== Sys2Proof/Machine/NetOps.lean ====
section
/-! DEFINITION. Forming Flochasel messages (14 R371 to R395, 15 R415): who a peer is, segment sizes, the header a
message carries, and its place on its flow. Packets are sent by PACKET_TRANSMIT. -/

namespace Sys2Proof.Machine

/-! ### Message types (R374) -/

abbrev tyWrite : Nat := 0x01
abbrev tyReadReq : Nat := 0x02
abbrev tyReadResp : Nat := 0x03
abbrev tySend : Nat := 0x04
abbrev tyAtomic : Nat := 0x05
abbrev tyClear : Nat := 0x06
abbrev tyRetract : Nat := 0x07
abbrev tyBeatSync : Nat := 0x08
abbrev tyGroup : Nat := 0x09
abbrev tyAck : Nat := 0x0A
abbrev tyNack : Nat := 0x0B

/-- Control class messages: sent first, with DSCP_CTL and PCP_CTL (R374, R391). -/
def ctlType (t : Nat) : Bool := t ∈ [tyClear, tyRetract, tyBeatSync, tyGroup, tyAck, tyNack]
def reliable (t : Nat) : Bool := 1 ≤ t && t ≤ 9
def epochChecked (t : Nat) : Bool := (1 ≤ t && t ≤ 6) || t == tyBeatSync
def digestChecked (t : Nat) : Bool := (1 ≤ t && t ≤ 5) || t == tyBeatSync

/-! ### NACK reasons (R387) -/

abbrev nkWindow : Nat := 0x01
abbrev nkPeer : Nat := 0x02
abbrev nkPermission : Nat := 0x03
abbrev nkRange : Nat := 0x04
abbrev nkUnmapped : Nat := 0x05
abbrev nkConfig : Nat := 0x06
abbrev nkVersion : Nat := 0x07
abbrev nkEpoch : Nat := 0x08
abbrev nkQueueFull : Nat := 0x09
abbrev nkQueue : Nat := 0x0A
abbrev nkMemory : Nat := 0x0B
abbrev nkFence : Nat := 0x0C
abbrev nkCollectFull : Nat := 0x0D
abbrev nkUpdatesDisabled : Nat := 0x0E
abbrev nkLate : Nat := 0x0F

/-! ### Peers (R375) -/

def groupPeer (p : Nat) : Bool := p < 0x0400
def clientPeer (p : Nat) : Bool := 0x1000 ≤ p && p < 0xFFFF
/-- The partition that owns a client peer number. -/
def clientOwner (s : State) (p : Nat) : Option Nat :=
  if clientPeer p then sixteenthOwner s ((p - 0x1000) / 0x0F00) else none

/-- Members of a configuration record: device numbers in order (R392). -/
def cfgMembers (c : List Byte) : List Nat := (List.range (num c 4 2)).map fun i => num c (64 + 96 * i) 2
def cfgOwner (c : List Byte) : Nat := num c 6 2
def cfgEpoch (c : List Byte) : Nat := num c 0 4
/-- The entry of a device in a configuration record. -/
def cfgEntry (c : List Byte) (d : Nat) : Option (List Byte) :=
  ((List.range (num c 4 2)).find? fun i => num c (64 + 96 * i) 2 = d).map fun i => slice c (64 + 96 * i) 96
/-- Column group c: its devices in slice order. -/
def cfgColgroup (c : List Byte) (g : Nat) : List Nat :=
  let off := 64 + 96 * num c 4 2 + 136 * g
  if g < num c 16 2 then (List.range (min 64 (num c off 1))).map fun j => num c (off + 8 + 2 * j) 2 else []

/-- The number this device sends under: its device number, or the one it is joining with (R373, R394; log 16). -/
def srcPeer (s : State) : Nat :=
  if deviceNo s != 0xFFFF then deviceNo s
  else match s.net.group.joining with
    | some (_, _, d) => d
    | none => 0xFFFF

/-- DST_PEER: 0xFFFF towards a device that is in no group (R373). -/
def dstPeer (s : State) (p : Nat) : Nat := if groupPeer p && !s.net.group.present.contains p then 0xFFFF else p

/-! ### Segments (R372) -/

def subIpv4 (s : State) (k : Nat) : Bool := bit (getSub s k).mac.toNat 60
def segBytes (s : State) (sub : Nat) : Nat :=
  let ip := if subIpv4 s sub then 20 else 40
  ((getPort s (sub / 4)).mtu - ip - 96) / 64 * 64

/-! ### The CHECK field (15 R415, R418) -/

/-- The highest check sequence issued on the device. -/
def checkTag (s : State) : Nat := s.integ.nextSeq - 1
def unresolved (s : State) : Bool := s.integ.checks.any fun c => c.2.st == .pending
/-- The partition holds received data that is provisional. -/
def provHeld (s : State) (p : Nat) : Bool := s.integ.prov.any fun x => x.part == p
/-- Messages to clients are never provisional. -/
def provisional (s : State) (peer : Nat) (part : Option Nat) : Bool :=
  groupPeer peer && (unresolved s || match part with
    | some p => provHeld s p
    | none => false)

/-! ### Messages -/

/-- What a message says before it is cut into packets. -/
structure Msg where
  type    : Nat
  lc      : Bool := false
  part    : Option Nat := none
  context : Nat := 0
  window  : Nat := 0
  respond : Bool := false
  ceEcho  : Bool := false
  check   : Option Nat := none            -- CHECK_SEQ named by CHECK_CLEAR and RETRACT
  spec    : List (Nat × Nat × Nat) := []
  epoch   : Option (Nat × Nat) := none    -- EPOCH and DIGEST of a JOIN_REQ (R394)
  payload : List Byte := []
  flight  : Option Nat := none
  source  : Nat := 0
  port    : Option Nat := none
  mem     : Option (Nat × Nat) := none    -- where the payload stands in memory: context and address (R388)
  deriving DecidableEq, Repr

/-- The header of a message; the fields of one packet are zero (R373). -/
def msgHeader (s : State) (peer mseq : Nat) (m : Msg) : List Byte :=
  let chk := match m.check with
    | some c => c
    | none => checkTag s + (if provisional s peer m.part then 2 ^ 63 else 0)
  let g := s.net.group
  let ed := m.epoch.getD (g.epoch, g.digest)
  rec_ 72 ([(0, 1, 1), (1, 1, m.type), (2, 1, b2n m.lc + 4 * b2n m.ceEcho + 64 * b2n m.respond),
    (4, 2, srcPeer s), (6, 2, dstPeer s peer), (8, 4, ed.1), (12, 4, ed.2), (36, 4, mseq), (40, 8, chk),
    (48, 2, m.context), (50, 2, m.window), (52, 4, m.payload.length)] ++ m.spec)

/-- Put a message on its flow (R373, R388). ACK and NACK take no place in the flow's sequence (log 16). -/
def sendMsg (peer : Nat) (m : Msg) (s : State) : State :=
  match findFlow s peer with
  | none => s
  | some f =>
    let rel := reliable m.type
    let mseq := if rel then f.nextMsg else 0
    let x : TxMsg := {
      mseq, type := m.type, header := msgHeader s peer mseq m, payload := m.payload, sent := 0,
      segs := max 1 (ceilDiv m.payload.length (segBytes s (m.port.getD f.port)))
      size := segBytes s (m.port.getD f.port), lc := m.lc, flight := m.flight,
      nackCfg := none, resendAt := none, source := m.source, port := m.port, part := m.part, mem := m.mem
      formed := now s }
    updFlow peer (fun f => { f with
      txMsgs := f.txMsgs ++ [x], nextMsg := if rel then (mseq + 1) % 2 ^ 32 else f.nextMsg }) s

/-- A message can leave for this peer: a transmit key, and for a client an address (R376, R378). -/
def reachable (s : State) (peer : Nat) : Bool :=
  match findFlow s peer with
  | none => false
  | some f => f.tx.isSome && (groupPeer peer || f.addr.isSome)

/-! ### Group control (R395) -/

def ctrlMsg (op reason beat : Nat) (payload : List Byte) : Msg :=
  { type := tyGroup
    spec := [(56, 1, op), (57, 1, reason), (64, 8, beat)]
    payload }

/-- The other members of the configuration held. -/
def otherMembers (s : State) : List Nat := (cfgMembers s.net.group.config).filter (· != deviceNo s)

def sendAll (ps : List Nat) (m : Msg) (s : State) : State := ps.foldl (fun s p => sendMsg p m s) s

/-- The GROUP_CHANGE event (17 R457). -/
def groupChange (s : State) : State :=
  let g := s.net.group
  emit srcCmd evGroupChange devPart [(20, 1, g.gstate), (24, 4, g.epoch), (28, 2, g.device)] s

/-- Leave the group: LEAVE to every member, number, EPOCH and DIGEST cleared (R396). -/
def leaveNow (s : State) : State :=
  let s := sendAll (otherMembers s) (ctrlMsg 5 0 (beatNo s) (le 2 (deviceNo s))) s
  groupChange (updGroup (fun g => { g with epoch := 0, digest := 0, device := 0xFFFF, gstate := 0, leave := none }) s)

/-- MISMATCH to the owner, once per peer and beat (R397). -/
def sendMismatch (peer peerEpoch peerDigest : Nat) (s : State) : State :=
  let g := s.net.group
  if g.mismatched.contains peer then s
  else
    let s := updGroup (fun g => { g with mismatched := g.mismatched ++ [peer] }) s
    sendMsg (cfgOwner g.config)
      (ctrlMsg 6 0 (beatNo s) (le 4 g.epoch ++ le 4 g.digest ++ le 4 peerEpoch ++ le 4 peerDigest)) s

/-! ### Clearing and retracting checks (15 R418, R419) -/

def clearMsg (lo hi : Nat) : Msg :=
  { type := tyClear
    check := some lo
    spec := [(56, 8, hi)] }

def retractMsg (c beat : Nat) : Msg :=
  { type := tyRetract
    check := some c
    spec := [(56, 8, beat)] }

/-- The group flows that carried a PROVISIONAL packet tagged at or above a sequence. -/
def provFlows (s : State) (c : Nat) : List Nat :=
  (s.net.flows.filter fun f => groupPeer f.1 && match f.2.provTag with
    | some t => c ≤ t
    | none => false).map (·.1)

end Sys2Proof.Machine
end

