-- ==== Sys2Proof/Machine/Submit.lean ====
section
/-! DEFINITION. From a fetched slot to a dispatched command: the dispatch conditions (10 R272, R277), the checks of 11 R300
with the expert block and indirection (R298 to R302), admission (12 R330, R331) and the new flight. -/

namespace Sys2Proof.Machine

/-- A command as it stands at dispatch, after its expert block was read and its indirection applied. -/
structure Req where
  queue    : Nat
  part     : Option Nat
  operator : Bool
  op       : Nat
  slot     : List Byte
  expert   : List Byte := []
  mats     : List (List Byte) := []
  deriving DecidableEq, Repr

def Req.ctx (r : Req) : Nat := hContext r.slot
def Req.level (r : Req) : Bool := hLevel r.slot

/-- What a check answers: pass, a status, or a status that names an address; the last flag lets an UNMAPPED wait (R136). -/
inductive Verdict where
  | ok
  | bad (st : Nat)
  | badAt (st addr : Nat) (wait : Bool)
  | snoop (l : List (Nat × Bool))      -- host-cached lines to invalidate first (13 R352; log 11)
  deriving DecidableEq, Repr

/-- The first check that fails. -/
def firstBad : List Verdict → Verdict
  | [] => .ok
  | .ok :: l => firstBad l
  | v :: _ => v

def need (c : Bool) (st : Nat) : Verdict := if c then .ok else .bad st

/-- A range must be mapped with these permissions; UNMAPPED may wait (R254). -/
def rangeOk (s : State) (c va n : Nat) (rd wr wait : Bool) : Verdict :=
  match checkRange s c va n rd wr with
  | some (st, a) => .badAt st a wait
  | none => .ok

/-- No host-cached line stands in the way of an access (13 R352). -/
def snoopOk (s : State) (write : Bool) (segs : List Seg) : Verdict :=
  if write && writeHeld s segs then .snoop [] else
  match neededSnoops s write segs with
  | [] => .ok
  | l => .snoop l

/-! ### Opcodes (11 R305 to R314) -/

def opDefined (op : Nat) : Bool :=
  op ≤ 4 || (0x100 ≤ op && op ≤ 0x103) || (0x200 ≤ op && op ≤ 0x202) || (0x300 ≤ op && op ≤ 0x307) ||
  (0x400 ≤ op && op ≤ 0x404) || (0x500 ≤ op && op ≤ 0x506) || (0x600 ≤ op && op ≤ 0x602) ||
  (0x700 ≤ op && op ≤ 0x704) || (0x800 ≤ op && op ≤ 0x802) || (0x900 ≤ op && op ≤ 0x903)

/-- The operator's queues: host-fed queues of the physical function (R299). -/
def isOperator (s : State) (q : Nat) : Bool := !(getQueue s q).netFed && queueFunc s q == 0

/-- Byte 64 as the name of a set: 0 the partition's, else the device's (R313, R7). -/
def setByte (b : List Byte) : Nat := min 1 (num b 64 1)

/-- Commands that only the operator may issue, with the forms that are (R299, R314). -/
def opOnly (op : Nat) (b : List Byte) (own : Option Nat) : Bool :=
  op ∈ [0x502, 0x504, 0x505, 0x506, 0x702, 0x703, 0x800, 0x801] ||
  (op == 0x400 && num b 88 1 == 1 && hLevel b) || (op == 0x601 && 4 ≤ num b 64 1) ||
  (op ∈ [0x500, 0x501] && setByte b == 1) ||
  (op == 0x600 && (setByte b == 1 || some (num b 66 1 % 16) != own)) || (op == 0x300 && some (num b 66 1 % 16) != own) ||
  (op == 0x704 && (num b 64 1 == 2 || num b 64 1 == 7)) || (op == 0x900 && 1 ≤ num b 108 1)

/-- The command's parameters carry an address or name a context (R296). -/
def usesCtx (op : Nat) (b : List Byte) : Bool :=
  op ∈ [0x100, 0x101, 0x102, 0x103, 0x200, 0x201, 0x202, 0x300, 0x301, 0x305, 0x306, 0x307, 0x400, 0x401, 0x402, 0x403] ||
  op ∈ [0x601, 0x602, 0x700, 0x701, 0x702, 0x704, 0x800, 0x802, 0x900] ||
  (op == 0x502 && pAddr b 80 != 0) || hIndCount b != 0 || (hLevel b && hExpertPtr b != 0)

def fenceCount (b : List Byte) : Nat := clampN 1 4 (num b 128 1)
def fenceEntry (b : List Byte) (i : Nat) : Nat := pFence b (64 + 16 * i)

/-- The table a command names. -/
def opTable (op : Nat) (b : List Byte) : Option Nat :=
  if op == 0x300 || (0x301 ≤ op && op ≤ 0x304) then some (num b 64 2 % 4096)
  else if op == 0x306 || op == 0x307 then some (num b 66 2 % 4096) else none

/-- The partition of the first identifier among the parameters of a command without an address (R299). -/
def firstIdent (s : State) (op : Nat) (b : List Byte) : Option (Option Nat) :=
  if op == 1 || op == 2 then some (fenceOwner s (fenceEntry b 0))
  else match opTable op b with
    | some t => some (tableOwner s t)
    | none =>
      if op == 0x404 then some (windowOwner s (num b 64 2 % 4096))
      else if op == 0x901 || op == 0x902 then some (keyDomainOwner s (num b 64 2 % 1024))
      else if op == 0x903 && clientPeer (num b 64 2) then some (clientOwner s (num b 64 2))
      else none

/-- The partition a command acts for (R299). -/
def actPart (s : State) (q op : Nat) (b : List Byte) : Option Nat :=
  if isOperator s q then
    if usesCtx op b then contextOwner s (hContext b) else (firstIdent s op b).getD (queueOwner s q)
  else queueOwner s q

/-- Dies of the acting partition. -/
def reqDies (s : State) (p : Option Nat) : List Nat := match p.bind (findPart s) with
  | some w => partDies w
  | none => []

/-- Step 4 of R300: every identifier the command names, in slot order; an EXTENT_MAP's key domain comes later, in the order of
R240 (log 105). -/
def idents (s : State) (p : Option Nat) (op : Nat) (b : List Byte) : List Verdict :=
  let fence (f : Nat) : Verdict := need (fenceOwner s f == p) stFenceNotOwned
  let window (w : Nat) : Verdict := need (windowOwner s w == p) stWindowNotOwned
  [if hWaitEn b then fence (hWaitFence b) else .ok, if hSignalEn b then fence (hSignalFence b) else .ok] ++
  (if usesCtx op b then [need (contextOwner s (hContext b) == p) stContextNotOwned,
    need (!retiringCtx s (hContext b)) stContextRetired] else []) ++
  (match opTable op b with
   | some t => [need (tableOwner s t == p) stTableNotOwned]
   | none => []) ++
  (if op == 1 || op == 2 then (List.range (fenceCount b)).map fun i => fence (fenceEntry b i)
   else if op == 0x300 then [need (contextOwner s (num b 68 2) == p) stContextNotOwned]
   else if op == 0x301 then
     (if num b 69 1 = 2 then [window (num b 104 2 % 4096)] else []) ++
     (if num b 116 2 % 4096 != 0 then [window (num b 116 2 % 4096)] else [])
   else if op == 0x303 || op == 0x304 then (if pFenceEn b 80 then [fence (pFence b 80)] else [])
   else if op == 0x305 then (reqDies s p).zipIdx.map fun k => fence ((pFence b 116 + k.2) % 2 ^ 18)
   else if op == 0x403 then [window (num b 64 2 % 4096), need (contextOwner s (num b 68 2) == p) stContextNotOwned]
   else if op == 0x404 then [window (num b 64 2 % 4096)]
   else if op == 0x901 || op == 0x902 then [need (keyDomainOwner s (num b 64 2 % 1024) == p) stKeyDomainNotOwned]
   else [])

/-- Steps 1 to 4 of R300. -/
def checkHead (s : State) (q : Nat) (p : Option Nat) (op : Nat) (b : List Byte) : Verdict :=
  let granted := isOperator s q || match (p.bind (findPart s)) with
    | some w => w.expert
    | none => false
  firstBad ([need (opDefined op) stInvalidOpcode, need (!opOnly op b p || isOperator s q) stNotOperator,
    need (!(isOperator s q && usesCtx op b && tdiLocked s (p.getD devPart))) stNotOperator,
    need (!hLevel b || granted) stExpertNotGranted] ++ idents s p op b)

/-- R299 and step 4 of R300 again, for a command whose indirection has replaced parameters: "a command that names an identifier
outside its partition's blocks" has no effect (09 R234). -/
def checkResolved (s : State) (r : Req) : Verdict :=
  firstBad (need (!opOnly r.op r.slot r.part || r.operator) stNotOperator :: idents s r.part r.op r.slot)

/-! ### Reading parameters (R298, R302, 09 R254) -/

/-- Read a mapped range whole, or the status and the address it names. -/
def readChecked (s : State) (c va n : Nat) (wait : Bool) : Verdict × List Byte :=
  match checkRange s c va n true false with
  | some (st, a) => (.badAt st a wait, [])
  | none =>
    let a := readVa s c va n
    if a.first != 0 then (.badAt a.first (va / frameBytes * frameBytes) false, a.data) else (.ok, a.data)

/-- The bytes of slot and expert block that an opcode defines (R301): ranges [lo, hi) in TARGET numbering. -/
def definedBytes (op : Nat) : List (Nat × Nat) :=
  match op with
  | 1 => [(64, 129)]
  | 2 => [(64, 129)]
  | 4 => [(64, 72)]
  | 0x100 | 0x101 => [(64, 88), (0x100, 0x110), (0x112, 0x113)]
  | 0x102 => [(64, 88), (0x100, 0x113)]
  | 0x103 => [(64, 77), (80, 96), (0x100, 0x110), (0x112, 0x113)]
  | 0x200 => [(64, 242), (244, 256), (0x100, 0x101), (0x200, 0x800)]
  | 0x201 => [(64, 74)]
  | 0x202 => [(64, 67), (72, 80)]
  | 0x300 => [(64, 128)]
  | 0x301 => [(64, 70), (72, 118), (120, 128)]
  | 0x302 => [(64, 68), (72, 80)]
  | 0x303 | 0x304 => [(64, 69), (72, 84), (88, 96)]
  | 0x305 => [(64, 74), (76, 128)]
  | 0x306 => [(64, 68), (72, 93), (96, 140), (0x100, 0x102)]
  | 0x307 => [(66, 68), (72, 94), (96, 100), (0x100, 0x102)]
  | 0x400 => [(72, 91), (92, 94), (96, 98), (104, 112), (0x100, 0x104)]
  | 0x401 => [(72, 88)]
  | 0x403 => [(64, 128)]
  | 0x404 => [(64, 66)]
  | 0x500 => [(64, 66)]
  | 0x501 => [(64, 65), (72, 80)]
  | 0x502 => [(64, 70), (72, 75), (80, 88)]
  | 0x503 => [(64, 69)]
  | 0x504 => [(64, 80)]
  | 0x505 => [(64, 65), (72, 76)]
  | 0x506 => [(64, 65), (72, 78)]
  | 0x600 => [(64, 68)]
  | 0x601 => [(64, 80)]
  | 0x602 => [(72, 88)]
  | 0x700 => [(64, 68), (72, 82)]
  | 0x701 => [(64, 68), (72, 80)]
  | 0x702 => [(72, 96)]
  | 0x704 => [(64, 68), (72, 84)]
  | 0x800 => [(72, 86)]
  | 0x802 => [(72, 80)]
  | 0x900 => [(64, 109)]
  | 0x901 | 0x902 => [(64, 66)]
  | 0x903 => [(64, 108)]
  | _ => []

def targetDefined (op lo n : Nat) : Bool := (definedBytes op).any fun r => r.1 ≤ lo && lo + n ≤ r.2

/-- The target of an indirection entry, rounded down to its width, and that width (R301). -/
def indTarget (e : List Byte) : Nat × Nat :=
  let tw := if bit (num e 2 1) 1 then 8 else 4
  (num e 0 2 % 2048 / tw * tw, tw)

/-- The source address of an indirection entry and its width. -/
def indSrc (e : List Byte) : Nat × Nat :=
  let sw := if bit (num e 2 1) 0 then 8 else 4
  (pAddr e 16 / sw * sw, sw)

/-- The entries whose defined target lies in a range; the others are ignored, and their sources not read (R301). -/
def indsIn (op lo hi : Nat) (es : List (List Byte)) : List (List Byte) :=
  es.filter fun e => lo ≤ (indTarget e).1 && (indTarget e).1 < hi && targetDefined op (indTarget e).1 (indTarget e).2

/-- One indirection entry applied to the parameters (R301). -/
def applyInd (s : State) (r : Req) (e : List Byte) : Req :=
  let g := indTarget e
  let mul := let m := num e 4 4; if m = 0 then 1 else m
  let v := (unle (readVa s r.ctx (indSrc e).1 (indSrc e).2).data * mul + num e 8 8) / 2 ^ (num e 3 1 % 64)
  let bs := le g.2 (min v (2 ^ (8 * g.2) - 1))
  if g.1 < 0x100 then { r with slot := patch r.slot g.1 bs }
  else if g.1 < 0x200 then { r with expert := patch r.expert (g.1 - 0x100) bs }
  else { r with mats := r.mats.zipIdx.map fun m =>
    if m.2 = (g.1 - 0x200) / 256 then patch m.1 ((g.1 - 0x200) % 256) bs else m.1 }

/-- The expert block of a LEVEL 1 command with EXPERT_PTR 0 whose indirection replaces bytes of it: the defaults of R306 for a
copy (ROWS 1, pitches BYTES, DST_CONTEXT the command's), else zeros. -/
def expertDefaults (r : Req) : List Byte :=
  if 0x100 ≤ r.op && r.op ≤ 0x103 then
    let n := num r.slot 80 8 % 2 ^ 40
    rec_ 256 [(0, 8, 1), (8, 4, n), (12, 4, n), (16, 2, r.ctx)]
  else zeros 256

/-- Matrix descriptors a launch names (R307). -/
def matCount (r : Req) : Nat := if r.op == 0x200 then min 6 (num r.slot 241 1) else 0

/-- Step 5 of R300: the indirection table and its sources, the expert block and the matrix descriptors are read, and the
entries applied: those of the slot before the descriptors that it names are read. -/
def resolve (s : State) (r : Req) (indPtr indCount : Nat) (xPtr : Nat) : Verdict × Req :=
  let wait := hWaitMap r.slot
  let t := if indCount = 0 then (.ok, []) else readChecked s r.ctx indPtr (32 * indCount) wait
  let es := (List.range indCount).map fun i => slice t.2 (32 * i) 32
  let se := indsIn r.op 0x40 0x100 es
  let xe := if r.level then indsIn r.op 0x100 0x200 es else []
  let r := se.foldl (applyInd s) r
  let x := if r.level && xPtr != 0 then readChecked s r.ctx xPtr 256 wait
    else (.ok, if xe.isEmpty then [] else expertDefaults r)
  let r := xe.foldl (applyInd s) { r with expert := x.2 }
  let n := matCount r
  let me := indsIn r.op 0x200 (0x200 + 256 * n) es
  let m := if n = 0 then (.ok, []) else readChecked s r.ctx (pAddr r.slot 248) (256 * n) wait
  let r := me.foldl (applyInd s) { r with mats := (List.range n).map fun i => slice m.2 (256 * i) 256 }
  let srcs := (se ++ xe ++ me).map fun e => (readChecked s r.ctx (indSrc e).1 (indSrc e).2 wait).1
  (firstBad ([x.1, t.1] ++ srcs ++ [m.1]), r)

/-! ### Charges (12 R327, R328) -/

/-- 1 + φ of a sampling code, as a fraction (11 R314). -/
def onePlusPhi (code : Nat) : Nat × Nat :=
  match code with
  | 0 => (129, 128)
  | 1 => (33, 32)
  | 2 => (9, 8)
  | _ => (2, 1)

/-- The energy factor of a clock step, in hundredths. -/
def stepFactor (i : Nat) : Nat := [88, 94, 100, 107, 111].getD i 111

def clockStep (s : State) (d : Nat) : Nat := smGet s.sched.steps 2 d

/-- A partition-local tile mask as absolute tiles; 0 selects every tile (R307). -/
def maskTiles (p : Part) (mask : Nat) : List Nat :=
  (partTiles p).zipIdx.filterMap fun t => if mask = 0 || mask.testBit t.2 then some t.1 else none

def kernelCharge (s : State) (p : Part) (b : List Byte) : Nat :=
  let ph := onePlusPhi p.sampling
  let g := (maskTiles p (num b 80 16)).foldl (fun m t => max m (stepFactor (clockStep s (t / 32)))) 0
  ceilDiv (num b 224 4 * num b 76 4 * ph.1 * g) (ph.2 * 100)

/-- Bytes at µJ per KiB, in thousandths, rounded up. -/
def byteCharge (bytes millis : Nat) : Nat := ceilDiv (bytes * millis) (1024 * 1000)
def keyCharge (keys : Nat) : Nat := ceilDiv keys 1000

/-! ### Admission (R330, R331) -/

/-- While UNLOCKED no deadline-bearing work is admitted (02 R44). -/
def noAdmission (s : State) (deadline : Nat) : Bool := deadline != 0 && s.clock.lock == .unlocked

/-- What is admitted: the head of a queue, or a stage of a running command. -/
inductive AdmKey where
  | head (q : Nat)
  | stage (flight index : Nat)
  deriving DecidableEq, Repr

/-- Work that is ready and not admitted, with the number of its queue. -/
structure Cand where
  key   : AdmKey
  queue : Nat
  r     : Ready
  deriving DecidableEq, Repr

/-- The partition's ready work of a class. A stage belongs to a command that is already admitted: R44 does not stop it. -/
def readyWork (s : State) (p : Nat) (lc : Bool) : List Cand :=
  let takes (r : Ready) : Bool := r.part = p && r.lc == lc && !r.admitted
  (s.queues.filterMap fun q => match q.2.ready with
    | some r => if takes r && !noAdmission s r.deadline then some { key := .head q.1, queue := q.1, r } else none
    | none => none) ++
  s.sched.stages.filterMap fun x => match findFlight s x.flight with
    | some f => if takes x.ready then some { key := .stage x.flight x.index, queue := f.queue, r := x.ready } else none
    | none => none

/-- Admission keeps the sampling fraction in force (02 R51). -/
def admitMark (w : Part) (r : Ready) : Ready := { r with
  admitted := true
  sampling := w.sampling }

def insertBy (lt : Cand → Cand → Bool) (x : Cand) : List Cand → List Cand
  | [] => [x]
  | y :: ys => if lt x y then x :: y :: ys else y :: insertBy lt x ys

/-- BE order: ready TSC, queue number. -/
def beBefore (a b : Cand) : Bool := a.r.since < b.r.since || (a.r.since == b.r.since && a.queue < b.queue)
/-- LC order: deadline with 0 as infinite, ready TSC, queue number. -/
def lcBefore (a b : Cand) : Bool :=
  let d (r : Ready) : Nat := if r.deadline = 0 then 2 ^ 64 else r.deadline
  d a.r < d b.r || (d a.r == d b.r && beBefore a b)

def sortReady (lt : Cand → Cand → Bool) (l : List Cand) : List Cand := l.foldl (fun acc x => insertBy lt x acc) []

def markReady (k : AdmKey) (f : Ready → Ready) (s : State) : State := match k with
  | .head q => updQueue q (fun w => { w with ready := w.ready.map f }) s
  | .stage n i => updSched (fun c => { c with
      stages := c.stages.map fun x => if x.flight = n && x.index = i then { x with ready := f x.ready } else x }) s

/-- Whether a charge can be met now: within the energy, or above 4 × B' once enough is there (R331). -/
def lcFits (w : Part) (c : Nat) : Bool :=
  if 4 * w.budget < c then (4 * w.budget : Int) ≤ w.avail else (c : Int) ≤ w.avail

/-- Take a charge: what lies beyond 4 × B' goes to the debt at once (R331). -/
def takeCharge (p c : Nat) (lc : Bool) (s : State) : State :=
  updPart p (fun w =>
    let beyond := 4 * w.budget < c
    { w with
      avail := if beyond then 0 else w.avail - c
      debt := if beyond then w.debt + ((c : Int) - w.avail).toNat else w.debt
      lcUsed := if lc then w.lcUsed + c else w.lcUsed
      charged := w.charged + c }) s

def holdReady (p : Nat) (s : State) : State := updPart p (fun w => { w with held := true }) s

/-- LC heads of a partition in order; the first that does not fit holds itself and every younger one until the next
beat head. -/
def admitLc (p : Nat) : List Cand → State → State
  | [], s => s
  | ⟨q, _, r⟩ :: l, s =>
    if r.hold then s else
    match findPart s p with
    | none => s
    | some w =>
      if lcFits w r.charge then admitLc p l (takeCharge p r.charge true (markReady q (admitMark w) s))
      else holdReady p (updPart p (fun w => { w with lcHeld := satAdd 32 w.lcHeld 1 })
        (markReady q (fun x => { x with hold := true }) s))

/-- An LC kernel is pending on one of these tiles (R320): ready, or with an instance to start. -/
def lcPending (s : State) (tiles : Nat) : Bool :=
  let on (r : Ready) : Bool := r.lc && r.kernel && (r.tiles &&& tiles) != 0
  (s.queues.any fun q => match q.2.ready with
    | some r => on r
    | none => false) ||
  (s.sched.stages.any fun x => on x.ready) ||
  s.flights.any fun f => f.lc && match f.work with
    | .kernel k => f.done.isNone && (k.next < k.instances || !k.again.isEmpty) && (k.tileMask &&& tiles) != 0
    | _ => false

/-- R321: a long BE kernel needs every LC queue of its partition DISABLED. -/
def longBeOk (s : State) (p : Nat) (r : Ready) : Bool :=
  !r.kernel || r.durUs ≤ s.sched.beMaxUs ||
  !(s.queues.any fun q => q.2.lc && q.2.life != .disabled && queueOwner s q.1 == some p)

def beReserve (w : Part) : Nat := w.reserve - w.lcUsed

/-- BE heads of all partitions, oldest first; `stopped` are the partitions whose oldest did not fit. -/
def admitBe (stopped : List Nat) : List Cand → State → State
  | [], s => s
  | ⟨q, _, r⟩ :: l, s =>
    match findPart s r.part with
    | none => admitBe stopped l s
    | some w =>
      if stopped.contains r.part then admitBe stopped l (markReady q (fun x => { x with hold := true }) s)
      else if (r.kernel && lcPending s r.tiles) || !longBeOk s r.part r then admitBe stopped l s
      else
        let c := r.charge
        let own := (max 0 (w.avail - beReserve w)).toNat
        let adm (s : State) : State := markReady q (admitMark w) s
        if 4 * w.budget < c then
          if (4 * w.budget : Int) - w.reserve ≤ w.avail then admitBe stopped l (takeCharge r.part c false (adm s))
          else admitBe (r.part :: stopped) l (holdReady r.part (markReady q (fun x => { x with hold := true }) s))
        else if c ≤ own then admitBe stopped l (takeCharge r.part c false (adm s))
        else if c ≤ own + s.sched.spare then
          let s := updSched (fun x => { x with spare := x.spare - (c - own) }) (adm s)
          admitBe stopped l (updPart r.part (fun w => { w with avail := w.avail - own, charged := w.charged + c }) s)
        else admitBe (r.part :: stopped) l (holdReady r.part (markReady q (fun x => { x with hold := true }) s))

/-- CARRY is set while the oldest held command of a partition has a charge above B' (R324). -/
def setCarry (s : State) : State :=
  (smKeys s.sched.parts).foldl (fun s p =>
    let held := (readyWork s p true ++ readyWork s p false).filter fun x => x.r.hold
    updPart p (fun w => { w with carry := match sortReady beBefore held with
      | [] => false
      | x :: _ => w.budget < x.r.charge }) s) s

/-- Admission over every partition, except in the pause of R51 or while admission is stopped. -/
def admitReady (s : State) : State :=
  if s.beat.paused || admissionStopped s then s
  else
    let ps := smKeys s.sched.parts
    let s := ps.foldl (fun s p => admitLc p (sortReady lcBefore (readyWork s p true)) s) s
    let be := sortReady beBefore (ps.flatMap fun p => readyWork s p false)
    setCarry (admitBe [] be s)

/-! ### Dispatch (10 R272, R277, R283) -/

def recordsOf (b : List Byte) : Nat := if hEarly b then 2 else 1

/-- Records owed by the dispatched commands of a queue. -/
def owed (s : State) (q : Nat) : Nat :=
  s.flights.foldl (fun n f => if f.queue = q && f.node.isNone && f.reserved
    then n + recordsOf f.slot - b2n f.early else n) 0

def cqSlots (w : Queue) : Nat := 2 ^ ringLog w.cqSize

/-- The room test of R277, with that of R283 while the shadow ring is in use. -/
def roomFor (s : State) (q new : Nat) : Bool :=
  let w := getQueue s q
  let o := owed s q
  ahead w.cqTail w.cqHead + w.shadowRing.length + o + new ≤ cqSlots w &&
  ((w.shadowRing.isEmpty && !w.frozen && !w.blocked) || o + new + w.shadowRing.length ≤ 256)

def topFlights (s : State) (q : Nat) : List Flight := s.flights.filter fun f => f.queue == q && f.node.isNone

/-- Every dispatch condition of R272 but the wait and admission; a frozen queue dispatches nothing (13 R361). -/
def mayDispatch (s : State) (q : Nat) (b : List Byte) : Bool :=
  let w := getQueue s q
  let fs := topFlights s q
  w.life == .enabled && !w.frozen && !w.halted && !admissionStopped s && (w.waitMap.isNone || w.reissue) &&
  fs.length < w.depth && fs.all (fun f => f.reserved && f.opcode != 3) && roomFor s q (recordsOf b) &&
  (fs.isEmpty || !(hOrdered b || hOpcode b == 3))

/-- The header wait is met, or names a foreign fence (refused at dispatch, R286). -/
def waitMet (s : State) (p : Option Nat) (b : List Byte) : Bool :=
  !hWaitEn b || fenceOwner s (hWaitFence b) != p || hWaitValue b ≤ fenceVal s (hWaitFence b)

/-- Commands dispatched only with no unresolved check and an empty provisional set (15 R417). -/
def irreversible (op : Nat) (b : List Byte) : Bool :=
  op == 0x306 || op == 0x307 || (op == 0x103 && !groupPeer (num b 72 2)) || (hSignalEn b && hSignalAdd b)

def partUnresolved (s : State) (p : Nat) : Bool := s.integ.checks.any fun c => c.2.part == p && c.2.st == .pending

def repeatableOp (op : Nat) (b : List Byte) : Bool :=
  op ∈ [0x100, 0x101, 0x102, 0x200, 0x201, 0x305] || (op == 0x103 && groupPeer (num b 72 2))

/-- What a command of a partition depends on at its dispatch (15 R416). -/
def depChecks (s : State) (p : Nat) : List Nat :=
  (s.integ.checks.filter fun c => c.2.part == p && c.2.st == .pending).map (·.1)
def depProv (s : State) (p : Nat) : List (Nat × Nat) :=
  (s.integ.prov.filter fun x => x.part == p).map fun x => (x.sender, x.tag)

/-- The sampling fraction in force for a partition; 1/32 where there is none (11 R314). -/
def samplingOf (s : State) (p : Nat) : Nat := match findPart s p with
  | some w => w.sampling
  | none => 1

/-- The flight of a command at its dispatch or failure. -/
def newFlight (s : State) (r : Req) (c : Cmd) (charge : Nat) (lc reserved : Bool) : Flight :=
  let p := r.part.getD devPart
  { num := s.nextFlight, queue := r.queue, seq := c.seq, opcode := r.op, slot := r.slot, expert := r.expert
    level := r.level, part := p, context := r.ctx, node := none, origin := c.origin, covered := c.covered
    start := now s
    since := match (getQueue s r.queue).ready with
      | some y => y.since
      | none => now s
    sampling := match (getQueue s r.queue).ready with
      | some y => y.sampling
      | none => samplingOf s p
    charge, lc, reserved, status := 0, done := none, echo := 0, echoBlock := false, signalled := false
    early := false, deps := depChecks s p, prov := depProv s p, repeatable := repeatableOp r.op r.slot
    startEdge := s.beat.edges, denied := none, deniedW := false, uncorr := none, hostFault := none, record := none
    netReason := 0, chan := 0, msgs := 0, hosts := 0, retracted := false, work := .none_ }

def addFlight (f : Flight) (s : State) : State :=
  { s with flights := s.flights ++ [f], nextFlight := s.nextFlight + 1 }

/-- The head leaves the queue of fetched commands. -/
def popHead (q : Nat) (s : State) : State :=
  updQueue q (fun w => { w with
    fetched := w.fetched.drop 1, ready := none, waitMap := none, waitFence := none, reissue := false }) s

/-- The head completes with a status without running (R300); `reserved`: the room test held. -/
def failHead (r : Req) (c : Cmd) (reserved : Bool) (v : Verdict) (s : State) : State :=
  let (st, addr) := match v with
    | .ok => (0, none)
    | .bad st => (st, none)
    | .badAt st a _ => (st, some a)
    | .snoop _ => (0, none)
  let f := newFlight s r c 0 (getQueue s r.queue).lc reserved
  finishFlight f.num st (addFlight { f with
    record := addr
    deps := []
    prov := [] } (popHead r.queue s))

/-- The head waits for a mapping: WAIT_MAP, with its fault record once (05 R136). -/
def waitMapHead (r : Req) (c : Cmd) (addr : Nat) (s : State) : State :=
  let s := updQueue r.queue (fun w => { w with waitMap := some (w.waitMap.getD (now s)), reissue := false, ready := none }) s
  let f := { newFlight s r c 0 false false with record := some addr }
  placeFault f { cmdFault f (now s) stUnmapped with
    atype := 0
    waiting := true
    address := addr } s

/-- Fail the head, or let it wait for a mapping. -/
def badHead (r : Req) (c : Cmd) (v : Verdict) (s : State) : State :=
  match v with
  | .badAt st a true => if st = stUnmapped then waitMapHead r c a s else failHead r c true v s
  | .snoop l => sendSnoops l s
  | v => failHead r c true v s

/-- A deadline that has passed by the TSC, free-running or not (R297). -/
def deadlinePast (s : State) (b : List Byte) : Verdict := need (hDeadline b = 0 || now s ≤ hDeadline b) stDeadlineExpired

/-- The deadline rules of a command not yet admitted (R297, 02 R44). -/
def deadlineCheck (s : State) (b : List Byte) : Verdict :=
  firstBad [need (!noAdmission s (hDeadline b)) stTimeUnlocked, deadlinePast s b]

def headReq (s : State) (q : Nat) (c : Cmd) : Req :=
  { queue := q, part := actPart s q (hOpcode c.bytes) c.bytes, operator := isOperator s q, op := hOpcode c.bytes, slot := c.bytes }

/-- A copy of a row-owner version into a column-split one of a column group runs as best-effort work (06 R177). -/
def bestEffortLoad (s : State) (r : Req) : Bool :=
  r.op == 0x301 && 3 ≤ num r.slot 69 1 && !bit (num r.slot 68 1) 0 && match findTable s (num r.slot 64 2 % 4096) with
    | some t => t.colgroup != 0xFFFF && [t.cur, t.retir].any fun v => v.version = num r.slot 104 2 && v.rowOwner
    | none => false

/-- Ready work as admission sees it (R319, R330). -/
def readyOf (s : State) (r : Req) (charge : Nat) (lc : Bool) (deadline : Nat) : Ready :=
  { since := now s, charge, sampling := samplingOf s (r.part.getD devPart), deadline, lc, hold := false
    admitted := r.part.isNone
    kernel := r.op == 0x200
    tiles := match r.part.bind (findPart s) with
      | some p => if r.op == 0x200 then (maskTiles p (num r.slot 80 16)).foldl (fun m t => m + 2 ^ t) 0 else 0
      | none => 0
    durUs := num r.slot 228 4, slot := r.slot, expert := r.expert, mats := r.mats, part := r.part.getD devPart }

/-- The head becomes ready: charged, in its queue's class (R319, R330). -/
def makeReady (r : Req) (charge : Nat) (s : State) : State :=
  updQueue r.queue (fun w => { w with
    ready := some (readyOf s r charge (w.lc && !bestEffortLoad s r) (hDeadline r.slot))
    waitFence := none }) s

/-- A stage of a running command, if it waits for admission. -/
def findStage (s : State) (n i : Nat) : Option Ready :=
  (s.sched.stages.find? fun x => x.flight = n && x.index = i).map (·.ready)

/-- A stage of a command becomes ready, once, and admission runs (R330). -/
def offerStage (n i : Nat) (r : Ready) (s : State) : State :=
  admitReady (if (findStage s n i).isSome then s
    else updSched (fun c => { c with stages := c.stages ++ [{ flight := n, index := i, ready := r }] }) s)

/-- A stage begins to run. -/
def takeStage (n i : Nat) (s : State) : State :=
  updSched (fun c => { c with stages := c.stages.filter fun x => !(x.flight = n && x.index = i) }) s

/-- Dispatch of an admitted head: its own checks, then its effect on its new flight. -/
def dispatchReady (q : Nat) (c : Cmd) (own : State → Req → Verdict) (start : Req → Nat → State → State) (s : State) : State :=
  match (getQueue s q).ready with
  | none => s
  | some y =>
    let r := { headReq s q c with
      slot := y.slot
      expert := y.expert
      mats := y.mats }
    match firstBad [deadlinePast s r.slot, need (!(usesCtx r.op r.slot && retiringCtx s r.ctx)) stContextRetired, own s r] with
    | .ok =>
      let f := newFlight s r c y.charge y.lc true
      let s := addFlight f (popHead q s)
      start r f.num s
    | v => badHead r c v s

/-- What a row of a submitted command does: nothing while its queue's head is not this command or a condition of R272
does not hold; WAIT_FENCE while its wait is unmet; else checks, charge, admission, and its effect once admitted. -/
def dispatch (q : Nat) (match_ : Nat → Bool) (charge : State → Req → Nat) (own : State → Req → Verdict)
    (start : Req → Nat → State → State) (s : State) : State :=
  match (getQueue s q).fetched with
  | [] => s
  | c :: _ =>
    let b := c.bytes
    let r := headReq s q c
    if !match_ (hOpcode b) || !mayDispatch s q b then s
    else if (getQueue s q).ready.isSome then
      match (getQueue s q).ready with
      | some y =>
        if y.admitted then (if s.beat.paused then s else dispatchReady q c own start s)
        else if noAdmission s y.deadline then failHead { r with slot := y.slot } c true (.bad stTimeUnlocked) s
        else s
      | none => s
    else if !waitMet s r.part b then updQueue q (fun w => { w with waitFence := some (w.waitFence.getD (now s)) }) s
    else if irreversible (hOpcode b) b && (match r.part with
        | some p => partUnresolved s p || provHeld s p
        | none => false) then s
    else
      match firstBad [checkHead s q r.part r.op b, deadlineCheck s b] with
      | .ok =>
        let x := resolve s r (hIndPtr b) (hIndCount b) (hExpertPtr b)
        match firstBad [x.1, checkResolved s x.2] with
        | .ok =>
          let s := admitReady (makeReady x.2 (charge s x.2) s)
          match (getQueue s q).ready with
          | some y => if y.admitted && !s.beat.paused then dispatchReady q c own start s else s
          | none => s
        | v => badHead x.2 c v s
      | v => badHead r c v s

/-- A command with this opcode. -/
def isOp (op : Nat) (o : Nat) : Bool := o == op

/-- A command that ends as soon as it is dispatched, with an effect and an echo. -/
def startNow (eff : Req → State → State) (echo : State → Req → Nat) (r : Req) (n : Nat) (s : State) : State :=
  let e := echo s r
  finishFlight n 0 (eff r (updFlight n (fun f => { f with echo := e % 2 ^ 24 }) s))

def noCheck (_ : State) (_ : Req) : Verdict := .ok
def noEcho (_ : State) (_ : Req) : Nat := 0
def oneUj (_ : State) (_ : Req) : Nat := 1

end Sys2Proof.Machine
end

