-- ==== Sys2Proof/Machine/Copy.lean ====
section
/-! DEFINITION. Queue control and copy commands (11 R305, R306): what a dispatched one does. -/

namespace Sys2Proof.Machine

/-! ### Queue control -/

/-- NOP; a head with an undefined opcode is dispatched, and fails, the same way (R300; log 18). -/
def execNop (queue : Nat) (s : State) : Res :=
  .next (dispatch queue (fun o => o == 0 || !opDefined o) oneUj noCheck (startNow (fun _ s => s) noEcho) s)

/-- The entries of a FENCE_WAIT or FENCE_SIGNAL: fence, value, ADD. -/
def fenceEntries (b : List Byte) : List (Nat × Nat × Bool) :=
  (List.range (fenceCount b)).map fun i => (fenceEntry b i, num b (72 + 16 * i) 8, bit (num b (64 + 16 * i) 4) 30)

def fencesMet (s : State) (l : List (Nat × Nat)) : Bool := l.all fun e => e.2 ≤ fenceVal s e.1

/-- FENCE_WAIT ends when every entry is met; COMMAND_COMPLETION looks again (R305). -/
def startFenceWait (r : Req) (n : Nat) (s : State) : State :=
  let l := (fenceEntries r.slot).map fun e => (e.1, e.2.1)
  if fencesMet s l then finishFlight n 0 s else updFlight n (fun f => { f with work := .fences l (now s) }) s

def execFenceWait (queue : Nat) (s : State) : Res := .next (dispatch queue (isOp 1) oneUj noCheck startFenceWait s)

def signalAll (r : Req) (s : State) : State :=
  (fenceEntries r.slot).foldl (fun s e => fenceRaise e.2.2 e.1 e.2.1 s) s

def execFenceSignal (queue : Nat) (s : State) : Res :=
  .next (dispatch queue (isOp 2) oneUj noCheck (startNow signalAll noEcho) s)

/-- BARRIER: dispatched alone (mayDispatch); nothing later is dispatched before it is complete (R305). -/
def execBarrier (queue : Nat) (s : State) : Res :=
  .next (dispatch queue (isOp 3) oneUj noCheck (startNow (fun _ s => s) noEcho) s)

def markerEvent (r : Req) (s : State) : State :=
  emit srcCmd evMarker (r.part.getD devPart) [(20, 2, r.queue), (24, 4, hReady r.slot), (28, 8, num r.slot 64 8)] s

def execMarker (queue : Nat) (s : State) : Res :=
  .next (dispatch queue (isOp 4) oneUj noCheck (startNow markerEvent noEcho) s)

/-! ### Copies (R306) -/

/-- Bytes of a row, rows, pitches of source and destination. -/
structure CopyForm where
  bytes  : Nat
  rows   : Nat
  spitch : Nat
  dpitch : Nat
  deriving DecidableEq, Repr

def copyForm (r : Req) : CopyForm :=
  let n := num r.slot 80 8 % 2 ^ 40
  let rows := xField r.expert 0 8
  if r.level && 1 < rows then { bytes := n, rows, spitch := xField r.expert 8 4, dpitch := xField r.expert 12 4 }
  else { bytes := n, rows := 1, spitch := n, dpitch := n }

def CopyForm.total (f : CopyForm) : Nat := f.bytes * f.rows
/-- The bytes from the first row's start to the last row's end. -/
def copySpan (f : CopyForm) (pitch : Nat) : Nat := if f.bytes = 0 then 0 else (f.rows - 1) * pitch + f.bytes

def copySrc (r : Req) : Nat := pAddr r.slot 64
def copyDst (r : Req) : Nat := pAddr r.slot 72
def dstCtx (r : Req) : Nat := if r.level && !r.expert.isEmpty then xField r.expert 16 2 else r.ctx

/-- The function whose requester ID a queue's host accesses carry (09 R253, 13 R356). -/
def reqFunc (s : State) (q : Nat) : Nat := queueFunc s q

/-! ### Tags (05 R141 to R143) -/

/-- The tag pools of R142 that are divided among partitions; the messages of a port are 14 R388's entries. -/
inductive Pool where
  | read (die : Nat)
  | write (die : Nat)
  | teasel (die : Nat)
  | hub (die : Nat)
  | ring (link : Nat)        -- between dies `link` and `link` + 1
  | host
  deriving DecidableEq, Repr

/-- Sixteenths of a die that a partition holds. -/
def diePart (w : Part) (d : Nat) : Nat :=
  ((List.range 4).filter fun i => w.first ≤ 4 * d + i && 4 * d + i < w.first + w.sixteenths).length

/-- A partition's tags of a pool, never lent (R143). -/
def poolTags (w : Part) : Pool → Nat
  | .read d => 1024 * diePart w d
  | .write d => 512 * diePart w d
  | .teasel d => if diePart w d = 4 then 32768 else 0
  | .hub d => 2048 * diePart w d
  | .ring l => if diePart w l = 4 && diePart w ((l + 1) % 4) = 4 then 8192 else 0
  | .host => 1024 * w.sixteenths

/-- The pool a request of a command draws on: one tag of its memory's die (R142; log 99). -/
def reqPool (r : ChanReq) : Option Pool :=
  let d := stackOf r.pa / 4
  match r.who with
  | .command _ _ => some (if r.teasel then .teasel d else if r.write then .write d else .read d)
  | _ => none

/-- The host tags of 256 B that a request holds. -/
def hostTags (q : HostReq) : Nat := if q.issued && !q.posted then ceilDiv q.len 256 else 0

/-- A partition's tags of a pool that its requests hold now. What crosses a hub or ring link is done in one step and holds
none between steps (log 84). -/
def tagsUsed (s : State) (p : Nat) : Pool → Nat
  | .host => s.link.hostReqs.foldl (fun n q => n + if q.part = p then hostTags q else 0) 0
  | pool => s.mem.channels.foldl (fun n c => n + (c.2.queue.filter fun r => r.partition = p && reqPool r == some pool).length) 0

/-- The partition holds n free tags of a pool. -/
def tagFree (s : State) (p n : Nat) (pool : Pool) : Bool := match findPart s p with
  | some w => tagsUsed s p pool + n ≤ poolTags w pool
  | none => true

/-! ### Requests to host memory (13 R356, R357) -/

/-- A transfer moves in pieces of 4 KiB (R357): offset and length. -/
def hostPieces (n : Nat) : List (Nat × Nat) :=
  (List.range (ceilDiv n 4096)).map fun i => (i * 4096, min 4096 (n - i * 4096))

/-- A rejected request: zeros for a read, a dropped write, HOST_ACCESS_FAULT for its command (09 R253). -/
def rejectReq (q : HostReq) (s : State) : State :=
  let s := updLink (fun k => { k with hostReqs := k.hostReqs.filter fun x => x.id != q.id }) s
  match findFlight s q.flight with
  | none => s
  | some f =>
    let s := match q.write, q.dest with
      | false, some pa =>
        let x := writePhys (admits s f.context true) pa (zeros q.len) (s, {})
        noteAcc f.num true x.2 x.1
      | _, _ => s
    let first := f.hostFault.isNone
    let s := updFlight f.num (fun f => { f with
      hostFault := some (f.hostFault.getD q.addr)
      hosts := if q.posted && q.issued then f.hosts else f.hosts - 1
      status := if f.status = 0 then stHostAccessFault else f.status }) s
    match findFlight s q.flight with
    | none => s
    | some f =>
      if f.done.isNone then (if f.hosts = 0 && f.work == .host then finishFlight f.num 0 s else s)
      else if first then haltQueue f.queue (hReady f.slot) stHostAccessFault (placeStatus f stHostAccessFault s)
      else s

/-- A request that has its tags goes out on the link. -/
def issueHost (q : HostReq) (s : State) : State :=
  let s := updLink (fun k => { k with hostReqs := k.hostReqs.map fun x => if x.id = q.id then { x with issued := true } else x }) s
  let s := updOut (fun o => if q.write then { o with hostWrites := o.hostWrites ++ [(q.func, q.addr, q.data)] }
    else { o with hostReads := o.hostReads ++ [(q.func, q.addr, q.len)] }) s
  if q.posted then trySignal q.flight (touchDone q.flight (updFlight q.flight (fun f => { f with hosts := f.hosts - 1 }) s)) else s

/-- The copy engine of a command that is not over: sources 0x0300 + e (R357). -/
def engineOf (s : State) (n : Nat) : Option Nat := (findFlight s n).bind (·.engine)

/-- Copies that an engine runs or holds. -/
def engineLoad (s : State) (e : Nat) : Nat :=
  (s.flights.filter fun f => f.engine == some e && (f.done.isNone || f.hosts != 0)).length

/-- ENGINE n of a direction (0 host to device, 8 device to host); ENGINE 0 is the lowest-numbered idle engine, or the one with
the fewest copies (R357, 11 R306). -/
def copyEngine (s : State) (base : Nat) (r : Req) : Nat :=
  let x := if r.level then min 8 (num r.expert 18 1) else 0
  if x != 0 then base + x - 1
  else ((List.range 8).map (base + ·)).foldl (fun m e => if engineLoad s e < engineLoad s m then e else m) base

def takeEngine (base : Nat) (r : Req) (n : Nat) (s : State) : State :=
  let e := copyEngine s base r
  updFlight n (fun f => { f with engine := some e }) s

/-- The next piece of an engine: LC copies first, then round-robin among the copies of one class in order of arrival (R357). -/
def nextPiece (s : State) (e : Nat) : Option HostReq :=
  let l := s.link.hostReqs.filter fun q => !q.issued && engineOf s q.flight == some e
  let lc := l.filter fun q => (findFlight s q.flight).any (·.lc)
  let l := if lc.isEmpty then l else lc
  match l.find? fun q => smGet s.link.engines 0 e < q.flight with
  | some q => some q
  | none => l.head?

/-- Pieces go out as tags come free (05 R141), the engines by number. -/
def issuePieces : Nat → State → State
  | 0, s => s
  | k + 1, s =>
    match ((List.range 16).filterMap fun e => (nextPiece s e).map fun q => (e, q)).find? fun x =>
      tagFree s x.2.part (ceilDiv x.2.len 256) .host with
    | some (e, q) => issuePieces k (updLink (fun l => { l with engines := smSet l.engines e q.flight }) (issueHost q s))
    | none => s

/-- Requests issued while the link is down are handled as rejected (R361). -/
def issueHosts (s : State) : State :=
  if s.link.up then issuePieces (s.link.hostReqs.filter fun q => !q.issued).length s
  else (s.link.hostReqs.filter fun q => !q.issued).foldl (fun s q => rejectReq q s) s

/-- A request of a command joins those that wait for tags. -/
def queueHost (n : Nat) (q : HostReq) (s : State) : State :=
  let q := { q with
    id := s.link.nextReq
    part := match findFlight s n with
      | some f => f.part
      | none => devPart
    flight := n
    issued := false }
  let s := updLink (fun k => { k with
    hostReqs := k.hostReqs ++ [q]
    nextReq := k.nextReq + 1 }) s
  updFlight n (fun f => { f with hosts := f.hosts + 1 }) s

/-- Host reads for each segment of a device range that they fill (13 R356). -/
def queueReads (n func : Nat) (host : Nat) (segs : List Seg) (s : State) : State :=
  segs.foldl (fun s g => (hostPieces g.len).foldl (fun s c => queueHost n {
    id := 0, write := false, addr := host + g.off + c.1, len := c.2, flight := n, dest := some (g.pa + c.1), func } s) s) s

/-- A host write; the physical function waits for its global observation under CXL, others post it (R340, R356, 10 R280). -/
def queueWrite (n func : Nat) (host : Nat) (bs : List Byte) (s : State) : State :=
  (hostPieces bs.length).foldl (fun s c => queueHost n {
    id := 0, write := true, addr := host + c.1, len := c.2, flight := n, dest := none, func
    posted := func != 0 || !s.link.cxl, data := slice bs c.1 c.2 } s) s

/-- The peak RATE of a resource by partition size, in 100 MB/s (12 R334). -/
def regPeak (sixteenths res : Nat) : Nat :=
  let i := if sixteenths ≤ 1 then 0 else if sixteenths ≤ 3 then 1 else if sixteenths ≤ 7 then 2 else if sixteenths ≤ 15 then 3 else 4
  ((match res with
    | 0 => [12288, 24576, 49152, 98304, 196608]
    | 1 => [5000, 10000, 20000, 80000, 240000]
    | 2 => [150, 300, 600, 1200, 2400]
    | _ => [500, 1000, 2000, 4000, 8000]) : List Nat).getD i 0

/-- A partition's token bucket of a resource; until a REGULATOR_SET the peak and 256 KiB, and full (12 R334). -/
def bucketOf (w : Part) (res : Nat) : Bucket :=
  smGet w.regs { rate := regPeak w.sixteenths res, burst := 262144, tokens := 262144, waiting := [] } res

/-- A request takes its tokens, or waits for them behind the requests that wait already (12 R334). -/
def bucketTake (b : Bucket) (bytes : Nat) : Bucket :=
  if b.waiting.isEmpty && ((min bytes b.burst : Nat) : Int) ≤ b.tokens then { b with tokens := b.tokens - (bytes : Nat) }
  else { b with waiting := b.waiting ++ [bytes] }

/-- A partition's bucket lets a request of this size through now (05 R141, 12 R334). -/
def regOpen (s : State) (p res bytes : Nat) : Bool := match findPart s p with
  | some w => (bucketOf w res).waiting.isEmpty && ((min bytes (bucketOf w res).burst : Nat) : Int) ≤ (bucketOf w res).tokens
  | none => true

/-- Bytes of a resource: regulated and metered (12 R334, R335). -/
def regSpend (res bytes : Nat) (w : Part) : Part :=
  if bytes = 0 then w else { w with regs := smSet w.regs res (bucketTake (bucketOf w res) bytes) }

def meterHost (p bytes : Nat) (s : State) : State :=
  updPart p (fun w => regSpend 2 bytes { w with beat := { w.beat with host := w.beat.host + bytes } }) s
def meterHbm (p bytes : Nat) (s : State) : State :=
  updPart p (fun w => regSpend 0 bytes { w with beat := { w.beat with hbm := w.beat.hbm + bytes } }) s
def meterNet (p bytes : Nat) (s : State) : State :=
  updPart p (fun w => regSpend 3 bytes { w with beat := { w.beat with net := w.beat.net + bytes } }) s
def meterD2d (p bytes : Nat) (s : State) : State :=
  updPart p (fun w => regSpend 1 bytes { w with beat := { w.beat with d2d := w.beat.d2d + bytes } }) s

def copyRows (f : CopyForm) : List Nat := List.range f.rows

/-- COPY_H2D: host reads are queued and issued; HOST_READ_COMPLETION writes what they bring. -/
def runH2d (ctx : Nat) (r : Req) (n : Nat) (s : State) : State :=
  let f := copyForm r
  if f.total = 0 then finishFlight n 0 s else
  let p := r.part.getD devPart
  let s := (copyRows f).foldl (fun s i =>
    queueReads n (reqFunc s r.queue) (num r.slot 64 8 + i * f.spitch) (segments s ctx (copyDst r + i * f.dpitch) f.bytes) s)
    (takeEngine 0 r n s)
  issueHosts (meterHbm p f.total (meterHost p f.total (updFlight n (fun f => { f with work := .host }) s)))

def ownH2d (s : State) (r : Req) : Verdict :=
  let f := copyForm r
  rangeOk s r.ctx (copyDst r) (copySpan f f.dpitch) false true (hWaitMap r.slot)

def copyCharge (millis : Nat) (_ : State) (r : Req) : Nat := max 1 (byteCharge (copyForm r).total millis)

def execCopyH2d (queue : Nat) (s : State) : Res :=
  .next (dispatch queue (isOp 0x100) (copyCharge 15) ownH2d (fun r n s => runH2d r.ctx r n s) s)

/-- COPY_D2H: the device range is read and written to host memory. -/
def runD2h (r : Req) (n : Nat) (s : State) : State :=
  let f := copyForm r
  let p := r.part.getD devPart
  let s := (copyRows f).foldl (fun s i =>
    if f.bytes = 0 then s else
    let a := readVa s r.ctx (copySrc r + i * f.spitch) f.bytes
    noteAcc n false a (queueWrite n (reqFunc s r.queue) (num r.slot 72 8 + i * f.dpitch) a.data s)) (takeEngine 8 r n s)
  issueHosts (finishFlight n 0 (meterHbm p f.total (meterHost p f.total s)))

def ownD2h (s : State) (r : Req) : Verdict :=
  let f := copyForm r
  firstBad [rangeOk s r.ctx (copySrc r) (copySpan f f.spitch) true false (hWaitMap r.slot),
    snoopOk s false (segments s r.ctx (copySrc r) (copySpan f f.spitch))]

def execCopyD2h (queue : Nat) (s : State) : Res :=
  .next (dispatch queue (isOp 0x101) (copyCharge 15) ownD2h runD2h s)

/-- The dies a transfer leaves on a link, in order: the fixed routes of 01 R18, opposite dies clockwise through one
intermediate die, whose memory, tiles and engines it never reaches. -/
def dieRoute (a b : Nat) : List Nat := if a = b then [] else if a + 2 = b || b + 2 = a then [a, (a + 1) % 4] else [a]

/-- Bytes of a copy that leave a die on a link, once for each die they leave (12 R334). -/
def d2dBytes (src dst : List Seg) : Nat :=
  src.foldl (fun n a => dst.foldl (fun n b =>
    n + (dieRoute (stackOf a.pa / 4) (stackOf b.pa / 4)).length * (min (a.off + a.len) (b.off + b.len) - max a.off b.off)) n) 0

/-- COPY_D2D. -/
def runD2d (r : Req) (n : Nat) (s : State) : State :=
  let f := copyForm r
  let s := (copyRows f).foldl (fun s i =>
    let a := readVa s r.ctx (copySrc r + i * f.spitch) f.bytes
    let x := writeVa (dstCtx r) (copyDst r + i * f.dpitch) a.data s
    let d := d2dBytes (segments s r.ctx (copySrc r + i * f.spitch) f.bytes) (segments s (dstCtx r) (copyDst r + i * f.dpitch) f.bytes)
    meterD2d (r.part.getD devPart) d (noteAcc n true x.2 (noteAcc n false a x.1))) s
  finishFlight n 0 (meterHbm (r.part.getD devPart) (2 * f.total) s)

def ownD2d (s : State) (r : Req) : Verdict :=
  let f := copyForm r
  let w := hWaitMap r.slot
  firstBad [need (contextOwner s (dstCtx r) == r.part) stContextNotOwned,
    rangeOk s r.ctx (copySrc r) (copySpan f f.spitch) true false w,
    rangeOk s (dstCtx r) (copyDst r) (copySpan f f.dpitch) false true w,
    snoopOk s false (segments s r.ctx (copySrc r) (copySpan f f.spitch)),
    snoopOk s true (segments s (dstCtx r) (copyDst r) (copySpan f f.dpitch))]

def execCopyD2d (queue : Nat) (s : State) : Res :=
  .next (dispatch queue (isOp 0x102) (copyCharge 30) ownD2d runD2d s)

/-- The pieces of at most 1 MiB of a network copy: offset and length. -/
def netPieces (n : Nat) : List (Nat × Nat) :=
  (List.range (ceilDiv n 1048576)).map fun i => (i * 1048576, min 1048576 (n - i * 1048576))

/-- DIR 1: the remote window is the source (R306). -/
def netReads (r : Req) : Bool := num r.slot 76 1 % 2 = 1
def netLocal (r : Req) (f : CopyForm) : Nat := if netReads r then f.dpitch else f.spitch
def netRemote (r : Req) (f : CopyForm) : Nat := if netReads r then f.spitch else f.dpitch

/-- COPY_NET: DATA_WRITE messages, or DATA_READ_REQ messages whose responses fill LOCAL (14 R381). PORT 0 selects by flow. -/
def runNet (lc : Bool) (r : Req) (n : Nat) (s : State) : State :=
  let f := copyForm r
  let b := r.slot
  let peer := num b 72 2
  if f.total = 0 then finishFlight n 0 s
  else if !reachable s peer then finishFlight n stNetUnreachable s
  else
    let port := let x := min 16 (xField r.expert 18 1); if r.level && x != 0 then some (x - 1) else none
    let send (s : State) (va off len : Nat) : State :=
      let m : Msg := {
        type := if netReads r then tyReadReq else tyWrite
        lc, part := r.part, context := r.ctx, window := num b 74 2 % 4096, flight := some n, source := va, port }
      let s := updFlight n (fun f => { f with msgs := f.msgs + 1 }) s
      if netReads r then sendMsg peer { m with spec := [(56, 5, off), (64, 4, len)] } s
      else
        let a := readVa s r.ctx va len
        noteAcc n false a (sendMsg peer { m with
          spec := [(56, 5, off)]
          payload := a.data
          mem := some (r.ctx, va) } s)
    let s := (copyRows f).foldl (fun s i => (netPieces f.bytes).foldl (fun s p =>
      send s (copySrc r + i * netLocal r f + p.1) (num b 88 8 % 2 ^ 40 + i * netRemote r f + p.1) p.2) s) s
    updFlight n (fun f => { f with work := .net }) s

def ownNet (s : State) (r : Req) : Verdict :=
  let f := copyForm r
  let rd := !netReads r
  let n := copySpan f (netLocal r f)
  firstBad [rangeOk s r.ctx (copySrc r) n rd (!rd) (hWaitMap r.slot),
    if rd then snoopOk s false (segments s r.ctx (copySrc r) n) else .ok]

def execCopyNet (queue : Nat) (s : State) : Res :=
  .next (dispatch queue (isOp 0x103) (copyCharge 15) ownNet (fun r n s =>
    runNet (match findFlight s n with | some f => f.lc | none => false) r n s) s)

end Sys2Proof.Machine
end

