-- ==== Sys2Proof/Machine/Flags.lean ====
section
/-! DEFINITION. The sticky flag word (05 R120, R121) and the quantisation status word (03 R81). -/

namespace Sys2Proof.Machine

abbrev fInvalid : U32 := 0x1
abbrev fDivZero : U32 := 0x2
abbrev fOverflow : U32 := 0x4
abbrev fUnderflow : U32 := 0x8
abbrev fInexact : U32 := 0x10
abbrev fSaturate : U32 := 0x20
abbrev fSrcVector : U32 := 0x100
abbrev fSrcExpand : U32 := 0x200
abbrev fSrcArray : U32 := 0x400
abbrev fSrcEpilogue : U32 := 0x800
abbrev fVlClamped : U32 := 0x10000
abbrev fMergeAsZero : U32 := 0x20000
abbrev fSpadRange : U32 := 0x40000

/-- A flag where a condition holds. -/
def flagIf (c : Bool) (f : U32) : U32 := if c then f else 0

/-- The arithmetic flags [5:0] with the source bit of the unit that raised them (R121). -/
def withSource (src f : U32) : U32 := if f &&& 0x3F = 0 then f else f ||| src

abbrev qConst : U32 := 0x1
abbrev qOver : U32 := 0x2
abbrev qUnder : U32 := 0x4
abbrev qReplayed : U32 := 0x8
abbrev qHistEmpty : U32 := 0x10
abbrev qZpIgnored : U32 := 0x20
abbrev qExpClipped : U32 := 0x40

end Sys2Proof.Machine
end

