-- ==== Sys2Proof/Machine/Float.lean ====
section
/-! DEFINITION. The number formats and their arithmetic (03_number_formats): exact values, one rounding, conversion
out (R73, R74, R492, R493), expansion in (R67), derived scales (R75, R76), and the transcendental functions. -/

namespace Sys2Proof.Machine

/-- An exact value: NaN (signalling or not), infinity, or (−1)^neg × m × 2^e. -/
inductive FVal where
  | nan (sig : Bool)
  | inf (neg : Bool)
  | fin (neg : Bool) (m : Nat) (e : Int)
  deriving DecidableEq, Repr

/-- A floating-point format of R59: exponent and mantissa bits, bias, infinities, NaNs. -/
structure Fmt where
  eb   : Nat
  mb   : Nat
  bias : Nat
  inf  : Bool                       -- E all ones is infinity and NaN (IEEE)
  nan  : Bool                       -- without infinity: S.1111.111 is NaN
  deriving DecidableEq, Repr

def fmtFp32 : Fmt := ⟨8, 23, 127, true, true⟩
def fmtBf16 : Fmt := ⟨8, 7, 127, true, true⟩
def fmtFp16 : Fmt := ⟨5, 10, 15, true, true⟩
def fmtE4m3 : Fmt := ⟨4, 3, 7, false, true⟩
def fmtE5m2 : Fmt := ⟨5, 2, 15, true, true⟩
def fmtE2m1 : Fmt := ⟨2, 1, 1, false, false⟩

/-- FORMAT codes 0x9 to 0xF are clamped to 0x8 (R58). -/
def clampFormat (c : Nat) : Nat := min 8 (c % 16)

/-- Bits per element (R58). -/
def formatBits (c : Nat) : Nat :=
  match c with
  | 0 => 32
  | 1 | 2 => 16
  | 3 | 4 | 5 | 6 => 8
  | _ => 4

/-- Bytes of a row of n elements (R60). -/
def rowBytes (c n : Nat) : Nat := ceilDiv (n * formatBits c) 8

def floatFmt (c : Nat) : Option Fmt :=
  match c with
  | 0 => some fmtFp32
  | 1 => some fmtBf16
  | 2 => some fmtFp16
  | 3 => some fmtE4m3
  | 4 => some fmtE5m2
  | 8 => some fmtE2m1
  | _ => none

/-- Integer formats: signed, bits. -/
def intFmt (c : Nat) : Option (Bool × Nat) :=
  match c with
  | 5 => some (true, 8)
  | 6 => some (false, 8)
  | 7 => some (true, 4)
  | _ => none

def bitLen (n : Nat) : Nat := if n = 0 then 0 else n.log2 + 1

/-! ### Codes to values -/

def Fmt.decode (f : Fmt) (code : Nat) : FVal :=
  let s := bit code (f.eb + f.mb)
  let e := bits code (f.eb + f.mb - 1) f.mb
  let m := code % 2 ^ f.mb
  let top := 2 ^ f.eb - 1
  if f.inf && e == top then (if m = 0 then .inf s else .nan (!bit m (f.mb - 1)))
  else if !f.inf && f.nan && e == top && m == 2 ^ f.mb - 1 then .nan false
  else if e = 0 then .fin s m (1 - (f.bias : Int) - f.mb)
  else .fin s (2 ^ f.mb + m) ((e : Int) - f.bias - f.mb)

def ofInt (v : Int) : FVal := .fin (v < 0) v.natAbs 0

/-- The value of an element code of a format. -/
def decodeEl (c code : Nat) : FVal :=
  match floatFmt c with
  | some f => f.decode code
  | none => match intFmt c with
    | some (true, n) => ofInt (signedOf n code)
    | some (false, n) => ofInt ((code % 2 ^ n : Nat) : Int)
    | none => .fin false 0 0

/-- E8M0 (R61). -/
def decodeE8m0 (c : Nat) : FVal := if c % 256 = 255 then .nan false else .fin false 1 ((c % 256 : Nat) - 127)

def f32 (x : U32) : FVal := fmtFp32.decode x.toNat

def isNan : FVal → Bool
  | .nan _ => true
  | _ => false
def isSig : FVal → Bool
  | .nan true => true
  | _ => false
def isInf : FVal → Bool
  | .inf _ => true
  | _ => false
def isZero : FVal → Bool
  | .fin _ 0 _ => true
  | _ => false
def negF : FVal → Bool
  | .inf n => n
  | .fin n _ _ => n
  | .nan _ => false
def isFin : FVal → Bool
  | .fin _ _ _ => true
  | _ => false

/-! ### Rounding -/

/-- Round m × 2^e to a multiple of 2^q: nearest even, or toward zero; the multiple and whether it is inexact. -/
def roundAt (rtz : Bool) (m : Nat) (e q : Int) : Nat × Bool :=
  if q ≤ e then (m * 2 ^ (e - q).toNat, false)
  else
    let d := 2 ^ (q - e).toNat
    let h := m / d
    let r := m % d
    let up := !rtz && (2 * r > d || (2 * r == d && h % 2 == 1))
    (if up then h + 1 else h, r != 0)

/-- Compare magnitudes m1 × 2^e1 and m2 × 2^e2. -/
def magLt (m1 : Nat) (e1 : Int) (m2 : Nat) (e2 : Int) : Bool :=
  let e := min e1 e2
  m1 * 2 ^ (e1 - e).toNat < m2 * 2 ^ (e2 - e).toNat

def Fmt.minQ (f : Fmt) : Int := 1 - (f.bias : Int) - f.mb
/-- The largest finite magnitude: mantissa and exponent. -/
def Fmt.maxFin (f : Fmt) : Nat × Int :=
  if f.inf then (2 ^ (f.mb + 1) - 1, (2 ^ f.eb - 2 : Nat) - (f.bias : Int) - f.mb)
  else if f.nan then (2 ^ (f.mb + 1) - 2, (2 ^ f.eb - 1 : Nat) - (f.bias : Int) - f.mb)
  else (2 ^ (f.mb + 1) - 1, (2 ^ f.eb - 1 : Nat) - (f.bias : Int) - f.mb)

/-- The code of an exactly representable magnitude. -/
def Fmt.codeOf (f : Fmt) (neg : Bool) (m : Nat) (e : Int) : Nat :=
  let s := b2n neg * 2 ^ (f.eb + f.mb)
  if m = 0 then s else
  let l := bitLen m
  let ex := e + l - 1                          -- exponent of the leading one
  if ex ≥ 1 - (f.bias : Int) then
    let frac := if l - 1 ≤ f.mb then m * 2 ^ (f.mb - (l - 1)) else m / 2 ^ (l - 1 - f.mb)
    s + (ex + f.bias).toNat * 2 ^ f.mb + (frac - 2 ^ f.mb)
  else s + (if e ≥ f.minQ then m * 2 ^ (e - f.minQ).toNat else m / 2 ^ (f.minQ - e).toNat)

/-- Positive canonical NaN (R72); FP4 has none. -/
def Fmt.qnan (f : Fmt) : Nat :=
  if f.inf then (2 ^ f.eb - 1) * 2 ^ f.mb + 2 ^ (f.mb - 1) else if f.nan then 2 ^ (f.eb + f.mb) - 1 else 0
def Fmt.infCode (f : Fmt) (neg : Bool) : Nat := b2n neg * 2 ^ (f.eb + f.mb) + (2 ^ f.eb - 1) * 2 ^ f.mb
def Fmt.maxCode (f : Fmt) (neg : Bool) : Nat := f.codeOf neg f.maxFin.1 f.maxFin.2

/-- A value rounded to a format: magnitude, quantum, inexact, tiny after rounding with unbounded exponent, overflows. -/
structure Rounded where
  m : Nat
  q : Int
  inexact : Bool
  tiny : Bool
  tooBig : Bool

def Fmt.round (f : Fmt) (rtz : Bool) (m : Nat) (e : Int) : Rounded :=
  let q0 := e + bitLen m - (f.mb + 1)          -- quantum with an unbounded exponent
  let u := roundAt rtz m e q0
  let q := max q0 f.minQ
  let r := roundAt rtz m e q
  { m := r.1, q := q, inexact := r.2,
    tiny := m != 0 && magLt u.1 q0 1 (1 - (f.bias : Int)),
    tooBig := magLt f.maxFin.1 f.maxFin.2 u.1 q0 }

/-- Round to FP32 or BF16 as the vector engine does (R71, R120): the code and its flags. -/
def Fmt.pack (f : Fmt) (v : FVal) : Nat × U32 :=
  match v with
  | .nan s => (f.qnan, flagIf s fInvalid)
  | .inf n => (f.infCode n, 0)
  | .fin n m e =>
    let r := f.round false m e
    if r.tooBig then (f.infCode n, fOverflow ||| fInexact)
    else (f.codeOf n r.m r.q, flagIf r.inexact fInexact ||| flagIf (r.inexact && r.tiny) fUnderflow)

def pack32 (v : FVal) : U32 × U32 :=
  let r := fmtFp32.pack v
  (BitVec.ofNat 32 r.1, r.2)

/-! ### Exact operations (the flag is what the operation itself signals) -/

/-- Signed value of two magnitudes brought to one exponent. -/
def alignInt (neg : Bool) (m : Nat) (e q : Int) : Int :=
  let v : Int := (m * 2 ^ (e - q).toNat : Nat)
  if neg then -v else v

def sigFlag (a b : FVal) : U32 := flagIf (isSig a || isSig b) fInvalid

def addF (a b : FVal) : FVal × U32 :=
  match a, b with
  | .nan _, _ => (.nan false, sigFlag a b)
  | _, .nan _ => (.nan false, sigFlag a b)
  | .inf x, .inf y => if x = y then (.inf x, 0) else (.nan false, fInvalid)
  | .inf x, .fin _ _ _ => (.inf x, 0)
  | .fin _ _ _, .inf y => (.inf y, 0)
  | .fin x m e, .fin y n f =>
    let q := min e f
    let v := alignInt x m e q + alignInt y n f q
    if v = 0 then (.fin (x && y) 0 q, 0) else (.fin (v < 0) v.natAbs q, 0)

def negV : FVal → FVal
  | .nan s => .nan s
  | .inf n => .inf (!n)
  | .fin n m e => .fin (!n) m e

def subF (a b : FVal) : FVal × U32 := addF a (negV b)

def mulF (a b : FVal) : FVal × U32 :=
  match a, b with
  | .nan _, _ => (.nan false, sigFlag a b)
  | _, .nan _ => (.nan false, sigFlag a b)
  | .inf x, .inf y => (.inf (x != y), 0)
  | .inf x, .fin y n _ => if n = 0 then (.nan false, fInvalid) else (.inf (x != y), 0)
  | .fin x m _, .inf y => if m = 0 then (.nan false, fInvalid) else (.inf (x != y), 0)
  | .fin x m e, .fin y n f => (.fin (x != y) (m * n) (e + f), 0)

/-- a × b + c exactly (one rounding follows). -/
def fmaF (a b c : FVal) : FVal × U32 :=
  let p := mulF a b
  let r := addF p.1 c
  (r.1, p.2 ||| r.2 ||| flagIf (isSig c) fInvalid)

/-- Quotient with enough bits and a sticky bit, so that one rounding to at most 24 bits is exact. -/
def divF (a b : FVal) : FVal × U32 :=
  match a, b with
  | .nan _, _ => (.nan false, sigFlag a b)
  | _, .nan _ => (.nan false, sigFlag a b)
  | .inf _, .inf _ => (.nan false, fInvalid)
  | .inf x, .fin y _ _ => (.inf (x != y), 0)
  | .fin x _ _, .inf y => (.fin (x != y) 0 0, 0)
  | .fin x m e, .fin y n f =>
    if n = 0 then (if m = 0 then (.nan false, fInvalid) else (.inf (x != y), fDivZero))
    else
      let k := bitLen n + 64
      let q := m * 2 ^ k / n
      let r := m * 2 ^ k % n
      (.fin (x != y) (2 * q + b2n (r != 0)) (e - f - k - 1), 0)

/-- Integer square root, bit by bit. -/
def isqrt (n : Nat) : Nat :=
  (List.range (bitLen n / 2 + 1)).reverse.foldl (fun r i => if (r + 2 ^ i) * (r + 2 ^ i) ≤ n then r + 2 ^ i else r) 0

def sqrtF (a : FVal) : FVal × U32 :=
  match a with
  | .nan s => (.nan false, flagIf s fInvalid)
  | .inf true => (.nan false, fInvalid)
  | .inf false => (.inf false, 0)
  | .fin n m e =>
    if m = 0 then (.fin n 0 0, 0)
    else if n then (.nan false, fInvalid)
    else
      -- make the exponent even and the mantissa long
      let k : Nat := 128 + (if e % 2 = 0 then 0 else 1)
      let w := m * 2 ^ k
      let r := isqrt w
      (.fin false (2 * r + b2n (r * r != w)) ((e - (k : Int)) / 2 - 1), 0)

/-- Order of two values that are not NaN. -/
def ltF (a b : FVal) : Bool :=
  match a, b with
  | .nan _, _ => false
  | _, .nan _ => false
  | .inf x, .inf y => x && !y
  | .inf x, .fin _ _ _ => x
  | .fin _ _ _, .inf y => !y
  | .fin x m e, .fin y n f =>
    let q := min e f
    alignInt x m e q < alignInt y n f q

def eqF (a b : FVal) : Bool :=
  match a, b with
  | .nan _, _ => false
  | _, .nan _ => false
  | _, _ => !ltF a b && !ltF b a

/-- IEEE 754-2019 maximum and minimum: a NaN gives NaN, +0 above −0 (R116, R123). -/
def maxF (a b : FVal) : FVal × U32 :=
  if isNan a || isNan b then (.nan false, sigFlag a b)
  else if ltF a b then (b, 0) else if ltF b a then (a, 0) else if negF a then (b, 0) else (a, 0)
def minF (a b : FVal) : FVal × U32 :=
  if isNan a || isNan b then (.nan false, sigFlag a b)
  else if ltF a b then (a, 0) else if ltF b a then (b, 0) else if negF a then (a, 0) else (b, 0)

def absV : FVal → FVal
  | .nan s => .nan s
  | .inf _ => .inf false
  | .fin _ m e => .fin false m e

/-! ### Conversion out (R73, R492, R493) -/

/-- The code, its flags by R493, whether it counts as saturated or flushed, and, for the vector engine alone (R120),
whether it is inexact and whether it is both tiny and inexact. -/
structure Conv where
  code : Nat
  flags : U32
  sat : Bool
  flushed : Bool
  inexact : Bool
  tiny : Bool
  deriving DecidableEq, Repr

/-- Conversion of a value to a floating-point format of R73. FP4 always clips. -/
def convFloat (f : Fmt) (sat rtz : Bool) (v : FVal) : Conv :=
  let fp4 := !f.nan
  match v with
  | .nan s =>
    if fp4 then ⟨0, fInvalid, false, false, false, false⟩ else ⟨f.qnan, flagIf s fInvalid, false, false, false, false⟩
  | .inf n =>
    if fp4 || (sat && f != fmtFp32) then ⟨f.maxCode n, fSaturate, true, false, false, false⟩
    else if f.inf then ⟨f.infCode n, 0, false, false, false, false⟩
    else ⟨f.qnan, fInvalid, true, false, false, false⟩
  | .fin n m e =>
    let r := f.round rtz m e
    if r.tooBig then
      if fp4 || (sat && f != fmtFp32) then ⟨f.maxCode n, fSaturate, true, false, true, false⟩
      else if rtz then ⟨f.maxCode n, fOverflow, true, false, true, false⟩
      else if f.inf then ⟨f.infCode n, fOverflow, true, false, true, false⟩
      else ⟨f.qnan, fOverflow, true, false, true, false⟩
    else
      let fl := m != 0 && r.m == 0
      ⟨f.codeOf n r.m r.q, flagIf fl fUnderflow, false, fl, r.inexact, r.inexact && r.tiny⟩

/-- Round a value to a signed integer clipped to [lo, hi]; NaN gives 0 (R73, R74). -/
def convInt (rtz : Bool) (lo hi : Int) (v : FVal) : Int × U32 × Bool :=
  match v with
  | .nan _ => (0, fInvalid, false)
  | .inf n => (if n then lo else hi, fSaturate, true)
  | .fin n m e =>
    let r : Int := (roundAt rtz m e 0).1
    let x := if n then -r else r
    if x < lo then (lo, fSaturate, true) else if x > hi then (hi, fSaturate, true) else (x, 0, false)

/-- Range of an integer format. -/
def intRange (c : Nat) : Int × Int :=
  match c with
  | 5 => (-128, 127)
  | 6 => (0, 255)
  | _ => (-8, 7)

/-- n ÷ d to the nearest integer, ties to even, or toward zero. -/
def roundQuot (rtz : Bool) (n : Int) (d : Nat) : Int :=
  let h := n / d
  let r := n % d
  if rtz then (if n < 0 && r != 0 then h + 1 else h)
  else if 2 * r > d || (2 * r == d && h % 2 == 1) then h + 1 else h

/-- The integer rescale of R74, with R73's ±Inf and NaN columns; a NaN gives the code 0 whatever the zero point. A
non-zero element with q = 0 counts as flushed only, whatever its y (R74, R493); where y is clipped as well both flags are
set (log 70). -/
def rescale (c : Nat) (rtz : Bool) (mult : Int) (shift : Nat) (zp : Int) (v : FVal) : Conv :=
  let rg := intRange c
  let w := formatBits c
  match v with
  | .nan _ => ⟨0, fInvalid, false, false, false, false⟩
  | .inf n => ⟨unsignedOf w (if n then rg.1 else rg.2), fSaturate, true, false, false, false⟩
  | .fin _ m e =>
    let x := convInt rtz (-(2 ^ 31)) (2 ^ 31 - 1) v
    let q := roundQuot rtz (x.1 * mult) (2 ^ shift)
    let y := q + zp
    let y' := max rg.1 (min rg.2 y)
    let clipped := y' != y || x.2.2
    let gone := m != 0 && q == 0
    ⟨unsignedOf w y', flagIf clipped fSaturate ||| flagIf gone fUnderflow, clipped && !gone, gone, (roundAt rtz m e 0).2 || clipped, false⟩

/-- Conversion of a value to any format without a rescale (R73): integer formats round and clip. -/
def convTo (c : Nat) (sat rtz : Bool) (v : FVal) : Conv :=
  match floatFmt c with
  | some f => convFloat f sat rtz v
  | none => rescale c rtz 1 0 0 v

/-- Division by a block scale, rounded once (R492). DESIGN CHOICE (log 87): a finite non-zero v over a STATIC scale of
zero gives ±Inf and raises no DIV_ZERO, a flag that R493 does not name. -/
def convScaled (c : Nat) (sat rtz : Bool) (v s : FVal) : Conv :=
  let q := divF v s
  let r := convTo c sat rtz q.1
  { r with flags := r.flags ||| (q.2 &&& fInvalid) }

/-! ### Expansion (R67) -/

/-- The smallest BF16 subnormal is above m × 2^e. -/
def belowBf16 (m : Nat) (e : Int) : Bool := m != 0 && magLt m e 1 fmtBf16.minQ

/-- A code times a block scale as BF16: the value, its flags, and whether it was clipped or rounded to zero. A scale of
zero gives +0 for every code, NaN codes too; a value below the smallest BF16 subnormal is a signed zero. DESIGN CHOICE
(log 88): a value that rounds on the subnormal grid or below it sets INEXACT, whatever its format. -/
def expand (c code : Nat) (scale : FVal) : FVal × U32 × Bool :=
  let v := decodeEl c code
  if isZero scale then (.fin false 0 0, 0, false)
  else if isNan v || isNan scale then (.nan false, fInvalid, false)
  else
    match (mulF v scale).1 with
    | .fin n m e =>
      let r := fmtBf16.round false m e
      if r.tooBig then (.fin n fmtBf16.maxFin.1 fmtBf16.maxFin.2, fSaturate ||| flagIf r.inexact fInexact, true)
      else if belowBf16 m e then (.fin n 0 fmtBf16.minQ, fInexact, true)
      else (.fin n r.m r.q, flagIf r.inexact fInexact, false)
    | x => (x, 0, false)

/-! ### Derived scales (R75, R76) -/

/-- floor(log₂ (m × 2^e)) for m ≠ 0. -/
def floorLog2 (m : Nat) (e : Int) : Int := e + bitLen m - 1

/-- The E8M0 exponent offset and the divisor of R75 for a target format; a 16- or 32-bit format has no row and is never
asked for here: CVT takes a free value there (log 20). -/
def deriveRow (target : Nat) : Int × Nat :=
  match target with
  | 3 => (8, 448)
  | 4 => (15, 57344)
  | 5 => (6, 127)
  | 6 => (7, 255)
  | 7 => (2, 7)
  | _ => (2, 6)

/-- Scale kinds: E8M0 code, E4M3 code, FP32 code. -/
inductive ScaleFmt where
  | e8m0 | e4m3 | fp32
  deriving DecidableEq, Repr

def scaleVal (k : ScaleFmt) (code : Nat) : FVal :=
  match k with
  | .e8m0 => decodeE8m0 code
  | .e4m3 => fmtE4m3.decode code
  | .fp32 => fmtFp32.decode code

/-- Clip a positive value into a scale format as R75 clips a derived scale. -/
def clipScale (k : ScaleFmt) (m : Nat) (e : Int) : Nat :=
  match k with
  | .e8m0 => (max (-127) (min 127 (floorLog2 m e)) + 127).toNat
  | .e4m3 =>
    let r := fmtE4m3.round false m e
    if r.tooBig then fmtE4m3.maxCode false else if r.m = 0 then 1 else fmtE4m3.codeOf false r.m r.q
  | .fp32 =>
    let r := fmtFp32.round false m e
    if r.tooBig then fmtFp32.maxCode false else if r.m = 0 then 1 else fmtFp32.codeOf false r.m r.q

/-- derive(a): the scale code of a group and whether the group is a constant channel (R75, R76). -/
def derive (target : Nat) (k : ScaleFmt) (a : FVal) : Nat × Bool :=
  match a with
  | .fin false m e =>
    if m = 0 then (match k with | .e8m0 => 0x7F | .e4m3 => 0x38 | .fp32 => 0x3F800000, true)
    else
      let r := deriveRow target
      match k with
      | .e8m0 => (clipScale .e8m0 1 (floorLog2 m e - r.1), false)
      | _ =>
        match (divF a (.fin false r.2 0)).1 with
        | .fin _ q f => (clipScale k q f, false)
        | _ => (clipScale k m e, false)
  | _ => (match k with | .e8m0 => 0x7F | .e4m3 => 0x38 | .fp32 => 0x3F800000, true)

/-- The group's `a` of R75: largest finite magnitude, or for UINT8 the largest finite value. -/
def groupMax (target : Nat) (vs : List FVal) : FVal :=
  vs.foldl (fun a v =>
    if !isFin v then a else
    let w := if target = 6 then v else absV v
    if ltF a w then w else a) (.fin false 0 0)

/-! ### Transcendental functions (04 R105, 05 R116; log 9)

Fixed-point arithmetic with 256 fraction bits approximates the exact value; the FP32 result is any value within
2 ulp of it, chosen by Config.ulpChoice. -/

abbrev fxBits : Nat := 256
def fxOne : Int := 2 ^ fxBits
def fxMul (a b : Int) : Int := a * b / fxOne
def fxDiv (a b : Int) : Int := a * fxOne / b

/-- Fixed point of m × 2^e. -/
def fxOf (neg : Bool) (m : Nat) (e : Int) : Int :=
  let v : Int := if e + fxBits ≥ 0 then (m : Int) * 2 ^ (e + fxBits).toNat else (m : Int) / 2 ^ (-(e + fxBits)).toNat
  if neg then -v else v

/-- Σ zᵏ⁺ over odd k: 2 atanh(z), |z| ≤ 1/3. -/
def fxAtanh2 (z : Int) : Int :=
  let z2 := fxMul z z
  let r := (List.range 90).foldl (fun (a : Int × Int) i => (a.1 + a.2 / (2 * i + 1 : Nat), fxMul a.2 z2)) (0, z)
  2 * r.1

/-- ln 2 = 2 atanh(1/3). -/
def fxLn2 : Int := fxAtanh2 (fxOne / 3)

/-- Taylor series of exp for |r| ≤ 1. -/
def fxExpSmall (r : Int) : Int :=
  ((List.range 60).foldl (fun (a : Int × Int) i => (a.1 + a.2, fxMul a.2 r / (i + 1 : Nat))) (0, fxOne)).1

/-- exp(x) = v × 2^k with v in fixed point, for |x| < 2^20. -/
def fxExp (x : Int) : Int × Int :=
  let k := x / fxLn2
  (fxExpSmall (x - k * fxLn2), k)

/-- exp(x) as a plain fixed-point number; x ≤ 0 or small. -/
def fxExpPlain (x : Int) : Int :=
  let r := fxExp x
  if r.2 ≥ 0 then r.1 * 2 ^ r.2.toNat else r.1 / 2 ^ (-r.2).toNat

/-- A fixed-point number times 2^k as an exact value. -/
def fxVal (v k : Int) : FVal := .fin (v < 0) v.natAbs (k - fxBits)

/-- ln(m × 2^e) in fixed point, m ≠ 0. -/
def fxLn (m : Nat) (e : Int) : Int :=
  let l := bitLen m
  -- m × 2^e = y × 2^k with y in [1, 2)
  let y : Int := if l - 1 ≤ fxBits then (m : Int) * 2 ^ (fxBits - (l - 1)) else (m : Int) / 2 ^ (l - 1 - fxBits)
  let k : Int := e + l - 1
  fxAtanh2 (fxDiv (y - fxOne) (y + fxOne)) + k * fxLn2

/-- tanh of a fixed-point number; ±1 beyond 64. -/
def fxTanh (x : Int) : Int :=
  if x > 64 * fxOne then fxOne else if x < -(64 * fxOne) then -fxOne
  else
    let e := fxExpPlain (-(2 * x.natAbs : Int))
    let t := fxDiv (fxOne - e) (fxOne + e)
    if x < 0 then -t else t

/-- The constant 0.797_884_56 of GELU-tanh (R105). -/
def fxGeluC : Int := 79788456 * fxOne / 100000000

/-- Limits beyond which exp over- or underflows FP32 for certain. -/
def expClamp (x : FVal) (lim : Nat) : FVal :=
  if ltF (.fin false lim 0) x then .fin false lim 0 else if ltF x (.fin true lim 0) then .fin true lim 0 else x

/-- The exact value to 256 fraction bits of a function at a finite input (GELU by its tanh form). -/
def transExact (fn : Nat) (x : FVal) : FVal :=
  match expClamp x 400 with
  | .fin n m e =>
    let f := fxOf n m e
    match fn with
    | 0 => let r := fxExp f; fxVal r.1 r.2
    | 1 => let k := f / fxOne; fxVal (fxExpSmall (fxMul (f - k * fxOne) fxLn2)) k
    | 4 => if m = 0 then x else if ltF (absV x) (.fin false 1 (-60)) then x else fxVal (fxTanh f) 0
    | 5 => if n then (let r := fxExp f; fxVal (fxDiv r.1 (fxOne + fxExpPlain f)) r.2)
           else fxVal (fxDiv fxOne (fxOne + fxExpPlain (-f))) 0
    | 6 =>
      -- x × ½ (1 + tanh t) = x ÷ (1 + exp(−2 t))
      let t := fxMul fxGeluC (f + fxMul (fxMul (fxMul f f) f) (44715 * fxOne / 1000000))
      if n then (let r := fxExp (2 * max t (-(300 * fxOne)))
                 (mulF x (fxVal (fxDiv r.1 (fxOne + fxExpPlain (2 * max t (-(300 * fxOne)))) ) r.2)).1)
      else (mulF x (fxVal (fxDiv fxOne (fxOne + fxExpPlain (-(2 * min t (300 * fxOne))))) 0)).1
    | _ =>
      if n then (let r := fxExp f; (mulF x (fxVal (fxDiv r.1 (fxOne + fxExpPlain f)) r.2)).1)
      else (mulF x (fxVal (fxDiv fxOne (fxOne + fxExpPlain (-f))) 0)).1
  | v => v

/-- Step an FP32 code of one sign by d units in the last place, where it stays a finite number of that sign. -/
def stepUlp (code : U32) (d : Int) : U32 :=
  let mag := (code.toNat % 2 ^ 31 : Nat)
  let m' := (mag : Int) + d
  if m' < 0 || m' ≥ 0x7F800000 then code else BitVec.ofNat 32 (code.toNat / 2 ^ 31 * 2 ^ 31 + m'.toNat)

/-- Within 2 ulp of the exact value, the ulp being that of the correctly rounded result. -/
def within2 (exact : FVal) (r c : U32) : Bool :=
  match f32 r with
  | .fin _ _ e =>
    match (subF (f32 c) exact).1 with
    | .fin _ m f => !magLt 2 e m f
    | _ => false
  | _ => false

/-- The value a transcendental function takes: the exact value rounded, then a free step that stays within 2 ulp. -/
def transRound (fn : Nat) (x : U32) (v : FVal) (exact : Bool) : U32 × U32 :=
  let r := pack32 v
  match f32 r.1 with
  | .fin _ _ _ =>
    let c := stepUlp r.1 ((Config.ulpChoice fn x % 5 : Nat) - 2)
    let y := if within2 v r.1 c then c else r.1
    let inex := !exact || y != r.1
    (y, flagIf inex fInexact ||| flagIf (inex && r.2 &&& fUnderflow != 0) fUnderflow)
  | _ => r

/-- TRANS functions by number: exp, exp2, log, log2, tanh, sigmoid, GELU-tanh, SiLU, rsqrt, recip. -/
def transF (fn : Nat) (x : U32) : U32 × U32 :=
  let v := f32 x
  let qn : U32 := 0x7FC00000
  match fn, v with
  | _, .nan s => (qn, flagIf s fInvalid)
  | 0, .inf n => (if n then 0 else 0x7F800000, 0)
  | 1, .inf n => (if n then 0 else 0x7F800000, 0)
  | 2, .inf n => if n then (qn, fInvalid) else (0x7F800000, 0)
  | 3, .inf n => if n then (qn, fInvalid) else (0x7F800000, 0)
  | 4, .inf n => (if n then 0xBF800000 else 0x3F800000, 0)
  | 5, .inf n => (if n then 0 else 0x3F800000, 0)
  | 6, .inf n => (if n then 0x80000000 else 0x7F800000, 0)
  | 7, .inf n => (if n then 0x80000000 else 0x7F800000, 0)
  | 8, .inf n => if n then (qn, fInvalid) else (0, 0)
  | _, .inf n => (if n then 0x80000000 else 0, 0)
  -- exact values of R105
  | 5, .fin _ 0 _ => (0x3F000000, 0)
  | 6, .fin n 0 _ => (if n then 0x80000000 else 0, 0)
  | 7, .fin n 0 _ => (if n then 0x80000000 else 0, 0)
  | 2, .fin n m e =>
    if m = 0 then (0xFF800000, fDivZero) else if n then (qn, fInvalid)
    else if m = 2 ^ (bitLen m - 1) && e + bitLen m - 1 == 0 then transRound 2 x (.fin false 0 0) true
    else transRound 2 x (fxVal (fxLn m e) 0) false
  | 3, .fin n m e =>
    if m = 0 then (0xFF800000, fDivZero) else if n then (qn, fInvalid)
    else if m = 2 ^ (bitLen m - 1) then transRound 3 x (ofInt (e + bitLen m - 1)) true
    else transRound 3 x (fxVal (fxDiv (fxLn m e) fxLn2) 0) false
  | 8, .fin n m e =>
    if m = 0 then (if n then 0xFF800000 else 0x7F800000, fDivZero) else if n then (qn, fInvalid)
    else
      let q := (divF (.fin false 1 0) (sqrtF (.fin false m e)).1).1
      let r := f32 (pack32 q).1
      transRound 8 x q (eqF (mulF (mulF r r).1 (.fin false m e)).1 (.fin false 1 0))
  | 9, .fin n m e =>
    if m = 0 then (if n then 0xFF800000 else 0x7F800000, fDivZero)
    else
      let q := (divF (.fin false 1 0) (.fin n m e)).1
      transRound 9 x q ((pack32 q).2 == 0)
  | k, .fin n m e =>
    let y := transExact k (.fin n m e)
    -- exact at 0, and exp2 at every integer
    transRound k x y (m == 0 || (k == 1 && (e ≥ 0 || m % 2 ^ (-e).toNat == 0)))

end Sys2Proof.Machine
end

