-- ==== Sys2Proof/Machine/Vector.lean ====
section
/-! DEFINITION. The vector engine (05 R112 to R123) and the scratchpad (R129 to R131). -/

namespace Sys2Proof.Machine

/-! ### Scratchpad -/

abbrev spadBytes : Nat := 6291456
/-- Start of the conversion area (R131). -/
abbrev convArea : Nat := 6029312

/-- Whether a scratchpad offset is beyond what the program may reach (R131). -/
def spadOut (conv : Bool) (off : Nat) : Bool := spadBytes ≤ off % 2 ^ 23 || (conv && convArea ≤ off % 2 ^ 23)

/-- Read n bytes at an offset (23 bits); bytes out of range read 0. -/
def spadRead (t : Tile) (conv : Bool) (off n : Nat) : List Byte :=
  (List.range n).map fun i => if spadOut conv (off + i) then 0 else smGet t.spad 0 ((off + i) % 2 ^ 23)

def spadFlag (conv : Bool) (off n : Nat) : U32 :=
  flagIf ((List.range n).any fun i => spadOut conv (off + i)) fSpadRange

/-- Write bytes at an offset; out of range nothing is written. -/
def spadWrite (conv : Bool) (off : Nat) (bs : List Byte) (t : Tile) : Tile :=
  { t with spad := bs.zipIdx.foldl (fun m b =>
      if spadOut conv (off + b.2) then m else smSet m ((off + b.2) % 2 ^ 23) b.1) t.spad }

def orFlags (f : U32) (t : Tile) : Tile := { t with flags := t.flags ||| f }

/-! ### Registers and active lanes -/

def vget (t : Tile) (r : Fin 32) (l : Nat) : U32 := smGet t.vreg 0 (r.val * 128 + l)
def mget (t : Tile) (m : Fin 8) : BitVec 128 := smGet t.mask 0 m.val
def vput (r : Fin 32) (vs : List U32) (t : Tile) : Tile := { t with vreg := smPutRange t.vreg (r.val * 128) vs }
def mput (m : Fin 8) (v : BitVec 128) (t : Tile) : Tile := { t with mask := smSet t.mask m.val v }

/-- The strip the sequencer is in (R113). -/
def curStrip (t : Tile) : Nat :=
  match t.vloop with
  | some v => v.strip
  | none => 0

/-- Lane l of strip j is no tail lane. -/
def inVl (t : Tile) (j l : Nat) : Bool := j * 128 + l < t.vl

def maskBit (t : Tile) : VMask → Nat → Bool
  | .unmasked, _ => true
  | .zero m, l => (mget t m).getLsbD l
  | .merge m, l => (mget t m).getLsbD l

/-- Active lanes (R118). -/
def active (t : Tile) (m : VMask) (j l : Nat) : Bool := inVl t j l && maskBit t m l

/-- The kernel's class, which R119 depends on. -/
def isLc (t : Tile) : Bool :=
  match t.run with
  | some r => r.lc
  | none => false

/-- What an inactive destination lane holds (R119); an unmasked instruction's tail lane is not stated (log 13). -/
def inactiveLane (t : Tile) (m : VMask) (old new : U32) : U32 :=
  match m with
  | .unmasked => Config.unstated 1 old new
  | .zero _ => 0
  | .merge _ => if isLc t then 0 else old

def mergeFlag (t : Tile) : VMask → U32
  | .merge _ => flagIf (isLc t) fMergeAsZero
  | _ => 0

/-- Write a destination register from the lanes' results; flags of active lanes only (R118, R120). -/
def vwrite (m : VMask) (d : Fin 32) (res : Nat → U32 × U32) (t : Tile) : Tile :=
  let j := curStrip t
  let rs := (List.range 128).map fun l => (active t m j l, vget t d l, res l)
  let vals := rs.map fun x => if x.1 then x.2.2.1 else inactiveLane t m x.2.1 x.2.2.1
  let fl := rs.foldl (fun f x => if x.1 then f ||| x.2.2.2 else f) 0
  orFlags (withSource fSrcVector fl ||| mergeFlag t m) (vput d vals t)

/-! ### ARITH -/

/-- One ARITH operation in a format, rounded once. -/
def arithVal (f : Fmt) (op : ArithOp) (a b c : FVal) : Nat × U32 :=
  let fin (r : FVal × U32) : Nat × U32 :=
    let p := f.pack r.1
    (p.1, p.2 ||| r.2)
  match op with
  | .add => fin (addF a b)
  | .sub => fin (subF a b)
  | .mul => fin (mulF a b)
  | .fma => fin (fmaF a b c)
  | .min => fin (minF a b)
  | .max => fin (maxF a b)
  | .abs => fin (absV a, flagIf (isSig a) fInvalid)
  | .neg => fin (negV a, flagIf (isSig a) fInvalid)
  | .copysign =>
    fin (match a with
      | .nan s => (.nan s, 0)
      | .inf _ => (.inf (negF b), 0)
      | .fin _ m e => (.fin (negF b) m e, 0))

/-- The sign operand of copysign: the sign bit, of a NaN too; a signalling NaN still sets INVALID (03 R72). -/
def signOperand (op : ArithOp) (sgn : Bool) (v : FVal) : FVal × U32 :=
  match op, v with
  | .copysign, .nan q => (.fin sgn 0 0, flagIf q fInvalid)
  | _, w => (w, 0)

def arith32 (op : ArithOp) (a b c : U32) : U32 × U32 :=
  let y := signOperand op (b.getLsbD 31) (f32 b)
  let r := arithVal fmtFp32 op (f32 a) y.1 (f32 c)
  (BitVec.ofNat 32 r.1, r.2 ||| y.2)

def arith16 (op : ArithOp) (a b c : Nat) : Nat × U32 :=
  let y := signOperand op (bit b 15) (fmtBf16.decode b)
  let r := arithVal fmtBf16 op (fmtBf16.decode a) y.1 (fmtBf16.decode c)
  (r.1, r.2 ||| y.2)

/-- ARITH on BF16 pairs: an even strip acts on its own elements (low halves) and the next strip's (high halves); the
odd strip is covered by it (R113; log 14). -/
def arithPairs (op : ArithOp) (m : VMask) (d a b c : Fin 32) (t : Tile) : Tile :=
  let j := curStrip t
  if j % 2 = 1 then t else
  let half (x : U32) (h : Nat) : Nat := x.toNat / 2 ^ (16 * h) % 2 ^ 16
  let one (l h : Nat) : Nat × U32 :=
    let r := arith16 op (half (vget t a l) h) (half (vget t b l) h) (half (vget t c l) h)
    let old := half (vget t d l) h
    if active t m (j + h) l then r
    else (half (inactiveLane t m (BitVec.ofNat 32 (old * 65537)) (BitVec.ofNat 32 (r.1 * 65537))) h, 0)
  let rs := (List.range 128).map fun l => (one l 0, one l 1)
  let vals := rs.map fun x => (BitVec.ofNat 32 (x.1.1 + 65536 * x.2.1) : U32)
  let fl := rs.foldl (fun f x => f ||| x.1.2 ||| x.2.2) 0
  orFlags (withSource fSrcVector fl ||| mergeFlag t m) (vput d vals t)

def vArith (op : ArithOp) (bf16 : Bool) (m : VMask) (d a b c : Fin 32) (t : Tile) : Tile :=
  if bf16 then arithPairs op m d a b c t
  else vwrite m d (fun l => arith32 op (vget t a l) (vget t b l) (vget t c l)) t

/-! ### INT -/

def clip32 (v : Int) : U32 × U32 :=
  let w := max (-(2 ^ 31)) (min (2 ^ 31 - 1) v)
  (BitVec.ofInt 32 w, flagIf (w != v) fSaturate)

/-- INT32 operations; a shift by 32 or more is not stated (log 13). -/
def int32 (op : IntOp) (a b : U32) : U32 × U32 :=
  let n := b.toNat
  match op with
  | .add => (a + b, 0)
  | .sub => (a - b, 0)
  | .mul => (a * b, 0)
  | .shl => (if n < 32 then a <<< n else Config.unstated 2 a b, 0)
  | .shrl => (if n < 32 then a >>> n else Config.unstated 3 a b, 0)
  | .shra => (if n < 32 then a.sshiftRight n else Config.unstated 4 a b, 0)
  | .and => (a &&& b, 0)
  | .or => (a ||| b, 0)
  | .xor => (a ^^^ b, 0)
  | .min => (if a.toInt < b.toInt then a else b, 0)
  | .max => (if a.toInt < b.toInt then b else a, 0)
  | .satAdd => clip32 (a.toInt + b.toInt)
  | .satSub => clip32 (a.toInt - b.toInt)

def vInt (op : IntOp) (m : VMask) (d a b : Fin 32) (t : Tile) : Tile :=
  vwrite m d (fun l => int32 op (vget t a l) (vget t b l)) t

/-! ### CMP and MASKOP -/

def cmp32 (op : CmpOp) (a b : U32) : Bool × U32 :=
  let x := f32 a
  let y := f32 b
  let un := isNan x || isNan y
  let q := flagIf (isSig x || isSig y) fInvalid
  let o := flagIf un fInvalid
  match op with
  | .eq => (eqF x y, q)
  | .ne => (!eqF x y, q)
  | .lt => (ltF x y, o)
  | .le => (!un && !ltF y x, o)
  | .gt => (ltF y x, o)
  | .ge => (!un && !ltF x y, o)
  | .unordered => (un, q)

def bitsToMask (f : Nat → Bool) : BitVec 128 :=
  BitVec.ofNat 128 ((List.range 128).foldl (fun n l => if f l then n + 2 ^ l else n) 0)

/-- CMP writes 0 to the mask bits of inactive lanes (R119). -/
def vCmp (op : CmpOp) (m : VMask) (d : Fin 8) (a b : Fin 32) (t : Tile) : Tile :=
  let j := curStrip t
  let r (l : Nat) := cmp32 op (vget t a l) (vget t b l)
  let fl := (List.range 128).foldl (fun f l => if active t m j l then f ||| (r l).2 else f) 0
  orFlags (withSource fSrcVector fl) (mput d (bitsToMask fun l => active t m j l && (r l).1) t)

/-- MASKOP acts on all 128 bits of the registers, tail lanes' bits too: DESIGN CHOICE (log 89). -/
def vMaskop (op : MaskOp) (d a b : Fin 8) (t : Tile) : Tile :=
  let x := mget t a
  let y := mget t b
  mput d (match op with
    | .and => x &&& y
    | .or => x ||| y
    | .xor => x ^^^ y
    | .andn => x &&& ~~~y
    | .not => ~~~x
    | .set => BitVec.allOnes 128
    | .clear => 0
    | .copy => x) t

/-! ### CVT, TRANS, DIV, PERM -/

/-- The lane of a conversion: its code, R493's flags, those of R120 for the vector engine. -/
def convLane (v : FVal) (r : Conv) : U32 × U32 :=
  (BitVec.ofNat 32 r.code, r.flags ||| flagIf (isSig v) fInvalid ||| flagIf r.inexact fInexact ||| flagIf r.tiny fUnderflow)

/-- A derived scale differs from the exact one of R75: an E8M0 scale names a power of two and never does. -/
def scaleInexact (target : Nat) (k : ScaleFmt) (a : FVal) : Bool :=
  k != .e8m0 && !isZero a && isFin a &&
    !eqF (mulF (scaleVal k (derive target k a).1) (.fin false (deriveRow target).2 0)).1 a

/-- A scale derivation of R75 and R76 in one lane; a 16- or 32-bit target has no row: a free value (log 20). -/
def deriveLane (k : ScaleFmt) (target : Nat) (a : U32) : U32 × U32 :=
  let t := clampFormat target
  let g := groupMax t [f32 a]
  let inv := flagIf (isSig (f32 a)) fInvalid
  if 16 ≤ formatBits t then (Config.unstated 7 a (BitVec.ofNat 32 t), inv)
  else (BitVec.ofNat 32 (derive t k g).1, inv ||| flagIf (scaleInexact t k g) fInexact)

/-- CVT: a lane holds one code in its low bits; `b` is the scale operand's lane, read by `expand` alone (log 14). -/
def cvt32 (op : CvtOp) (a b : U32) : U32 × U32 :=
  match op with
  | .convert src dst sat rtz =>
    let v := decodeEl (clampFormat src) a.toNat
    convLane v (convTo (clampFormat dst) sat rtz v)
  | .rescale src dst rtz mult shift zp =>
    let v := decodeEl (clampFormat src) a.toNat
    let c := clampFormat dst
    convLane v (if (intFmt c).isSome then rescale c rtz (signedOf 32 (unsignedOf 32 mult)) (shift % 64)
        (if c = 7 then 0 else max (intRange c).1 (min (intRange c).2 zp)) v
      else convTo c true rtz v)
  | .expand src e4m3 _ =>
    let x := expand (clampFormat src) a.toNat (if e4m3 then fmtE4m3.decode (b.toNat % 256) else decodeE8m0 (b.toNat % 256))
    (BitVec.ofNat 32 (fmtBf16.pack x.1).1, x.2.1)
  | .deriveE8M0 t => deriveLane .e8m0 t a
  | .deriveFp32 t => deriveLane .fp32 t a
  | .deriveE4M3 t => deriveLane .e4m3 t a

/-- The register of a CVT's scale operand. -/
def cvtScale (op : CvtOp) (a : Fin 32) : Fin 32 := match op with
  | .expand _ _ s => s
  | _ => a

def vCvt (op : CvtOp) (m : VMask) (d a : Fin 32) (t : Tile) : Tile :=
  vwrite m d (fun l => cvt32 op (vget t a l) (vget t (cvtScale op a) l)) t

def transNum : TransFn → Nat
  | .exp => 0
  | .exp2 => 1
  | .log => 2
  | .log2 => 3
  | .tanh => 4
  | .sigmoid => 5
  | .gelu => 6
  | .silu => 7
  | .rsqrt => 8
  | .recip => 9

def vTrans (fn : TransFn) (m : VMask) (d a : Fin 32) (t : Tile) : Tile :=
  vwrite m d (fun l => transF (transNum fn) (vget t a l)) t

def div32 (sqrt : Bool) (a b : U32) : U32 × U32 :=
  let r := if sqrt then sqrtF (f32 a) else divF (f32 a) (f32 b)
  let p := pack32 r.1
  (p.1, p.2 ||| r.2)

def vDiv (sqrt : Bool) (m : VMask) (d a b : Fin 32) (t : Tile) : Tile :=
  vwrite m d (fun l => div32 sqrt (vget t a l) (vget t b l)) t

/-- PERM moves bits; a lane index of 128 or more is not stated (log 13). -/
def permLane (t : Tile) (op : PermOp) (a : Fin 32) (l : Nat) : U32 :=
  match op with
  | .broadcast k => vget t a k.val
  | .shuffle x => vget t a ((l ^^^ x.val) % 128)
  | .permute idx =>
    let i := (vget t idx l).toNat
    if i < 128 then vget t a i else Config.unstated 5 (vget t idx l) (BitVec.ofNat 32 l)

def vPerm (op : PermOp) (m : VMask) (d a : Fin 32) (t : Tile) : Tile :=
  vwrite m d (fun l => (permLane t op a l, 0)) t

/-! ### REDUCE (R123) -/

def add32 (a b : U32 × U32) : U32 × U32 :=
  let r := addF (f32 a.1) (f32 b.1)
  let p := pack32 r.1
  (p.1, a.2 ||| b.2 ||| r.2 ||| p.2)

/-- One level of the pairwise tree: lanes 2i and 2i + 1. -/
def treeLevel : List (U32 × U32) → List (U32 × U32)
  | a :: b :: xs => add32 a b :: treeLevel xs
  | xs => xs

def treeSum (xs : List U32) : U32 × U32 :=
  ((List.range 7).foldl (fun l _ => treeLevel l) (xs.map fun x => (x, 0))).headD (0, 0)

/-- The FP32 elements of a strip; BF16 codes are expanded exactly. -/
def redElems (t : Tile) (bf16 : Bool) (a : Fin 32) (h : Nat) : List U32 :=
  (List.range 128).map fun l =>
    let x := vget t a l
    if bf16 then (x >>> (16 * h)) <<< 16 else x

/-- A strip's contribution: none where no lane takes part. -/
def redStrip (op : RedOp) (xs : List (Bool × U32)) : Option (U32 × U32) :=
  match op with
  | .sum => some (treeSum (xs.map fun x => if x.1 then x.2 else 0))
  | .amax =>
    let v := xs.foldl (fun a x => if x.1 && isFin (f32 x.2) && ltF a (absV (f32 x.2)) then absV (f32 x.2) else a)
      (FVal.fin false 0 0)
    some ((pack32 v).1, flagIf (xs.any fun x => x.1 && isSig (f32 x.2)) fInvalid)
  | _ =>
    (xs.filter (·.1)).foldl (fun a x =>
      match a with
      | none => some ((pack32 (f32 x.2)).1, flagIf (isSig (f32 x.2)) fInvalid)
      | some y =>
        let r := if op = .max then maxF (f32 y.1) (f32 x.2) else minF (f32 y.1) (f32 x.2)
        some ((pack32 r.1).1, y.2 ||| r.2)) none

/-- Fold a strip into the running total. -/
def redFold (op : RedOp) (tot : Option U32) (new : Option (U32 × U32)) : Option (U32 × U32) :=
  match tot, new with
  | none, n => n
  | some a, none => some (a, 0)
  | some a, some b =>
    match op with
    | .sum => some (add32 (a, 0) b)
    | .amax => some (if ltF (f32 a) (f32 b.1) then b else (a, b.2))
    | .max => let r := maxF (f32 a) (f32 b.1); some ((pack32 r.1).1, r.2 ||| b.2)
    | .min => let r := minF (f32 a) (f32 b.1); some ((pack32 r.1).1, r.2 ||| b.2)

/-- REDUCE: the running total goes to lane 0, +0 to every other lane. A maximum or minimum over no lane is not
stated (log 13). A BF16 pair issue takes strips j and j + 1 in order. -/
def vReduce (op : RedOp) (bf16 : Bool) (m : VMask) (d a : Fin 32) (t : Tile) : Tile :=
  let j := curStrip t
  if bf16 && j % 2 == 1 then t else
  let el (h : Nat) := (redElems t bf16 a h).zipIdx.map fun x => (active t m (j + h) x.2, x.1)
  let tot := if j = 0 then none else smFind t.redTotal d.val
  let r0 := redFold op tot (redStrip op (el 0))
  let r := if bf16 then (match redFold op (r0.map (·.1)) (redStrip op (el 1)), r0 with
      | some y, some x => some (y.1, x.2 ||| y.2)
      | y, _ => y) else r0
  let v := match r with
    | some x => x.1
    | none => Config.unstated 6 (if op = .max then 1 else 0) (vget t d 0)
  let fl := match r with
    | some x => x.2
    | none => 0
  let tots := match r with
    | some x => smSet t.redTotal d.val x.1
    | none => t.redTotal
  orFlags (withSource fSrcVector fl ||| mergeFlag t m)
    { vput d (v :: List.replicate 127 0) t with redTotal := tots }

/-! ### LDV and STV: strip j at offset + 512 × j (log 14) -/

def vLdv (conv : Bool) (m : VMask) (d : Fin 32) (addr : Nat) (t : Tile) : Tile :=
  let j := curStrip t
  let off := addr + 512 * j
  let word (l : Nat) : U32 := BitVec.ofNat 32 (unle (spadRead t conv (off + 4 * l) 4))
  let fl := (List.range 128).foldl (fun f l => if active t m j l then f ||| spadFlag conv (off + 4 * l) 4 else f) 0
  orFlags fl (vwrite m d (fun l => (word l, 0)) t)

def vStv (conv : Bool) (m : VMask) (a : Fin 32) (addr : Nat) (t : Tile) : Tile :=
  let j := curStrip t
  let off := addr + 512 * j
  (List.range 128).foldl (fun w l =>
    if active t m j l then orFlags (spadFlag conv (off + 4 * l) 4) (spadWrite conv (off + 4 * l) (le 4 (vget t a l).toNat) w)
    else w) t

end Sys2Proof.Machine
end

