-- ==== Sys2Proof/Machine/Matrix.lean ====
section
/-! DEFINITION. The matrix array's arithmetic (04_matrix_arrays with 03 R62 to R82): descriptors, expansion, the tree,
accumulation, the epilogue and conversion of one instance, as a function of what memory holds. -/

namespace Sys2Proof.Machine

/-! ### Descriptors (03 R65, 04 R86) -/

/-- A quantisation descriptor with its clamps; expert fields at their defaults unless LEVEL is 1. -/
structure Quant where
  out     : Bool       -- the output's descriptor
  fmt     : Nat
  mode    : Nat        -- SCALE_MODE after the clamps
  block   : Nat        -- elements
  column  : Bool       -- DIR
  zpMode  : Nat
  sat     : Bool
  rtz     : Bool
  oscale  : Nat
  guard   : Bool
  margin  : Nat
  ufrac   : Nat
  tensor  : Bool
  zp      : Int
  shift   : Nat
  base    : Int
  mult    : Int
  scaleA  : Nat
  zpA     : Nat
  sumA    : Nat
  histA   : Nat
  histoA  : Nat
  deriving DecidableEq, Repr

def blockSize (b : Nat) : Nat := 8 * 2 ^ min 5 b

def addr64 (b : List Byte) (off : Nat) : Nat := va48 (num b off 8) / 64 * 64

def parseQuant (out level : Bool) (b : List Byte) : Quant :=
  let w := num b 0 4
  let fmt := clampFormat w
  let wide := formatBits fmt ≥ 16
  let isInt := (intFmt fmt).isSome
  let narrowFloat := !wide && !isInt
  -- OSCALE: only FP8 and FP4 outputs (R77)
  let os := if out && narrowFloat then min 2 (bits w 15 14) else 0
  let m0 := bits w 5 4
  let mode := if wide then 0
    else if out && isInt then (if m0 = 3 then 3 else 0)
    else if os != 0 && (m0 = 0 || m0 = 3) then 1 else m0
  let rg := intRange fmt
  let zp8 := signedOf 16 (num b 4 2)
  { out, fmt, mode, block := blockSize (bits w 8 6), column := bit w 9 && os != 1, zpMode := min 2 (bits w 11 10)
    sat := bit w 12, rtz := level && bit w 13, oscale := os
    guard := level && bit w 16, margin := if level then bits w 19 17 else 0
    ufrac := if level then clampN 4 10 (bits w 23 20) else 8, tensor := bit w 24
    zp := if isInt then max rg.1 (min rg.2 zp8) else 0
    shift := num b 6 1 % 64, base := signedOf 8 (num b 7 1), mult := signedOf 32 (num b 8 4)
    scaleA := addr64 b 16, zpA := addr64 b 24, sumA := addr64 b 32, histA := addr64 b 40, histoA := addr64 b 48 }

structure MDesc where
  shape   : Nat
  acc16   : Bool
  fp16    : Bool
  run     : Nat       -- chunks per run
  two     : Bool
  act     : Nat
  p       : Nat       -- packing
  ramp    : Nat
  halt    : Option Nat
  m       : Nat
  n       : Nat
  k       : Nat
  aA      : Nat
  bA      : Nat
  cA      : Nat
  biasA   : Nat
  aS      : Nat
  bS      : Nat
  cS      : Nat
  cols    : Nat
  qa      : Quant
  qb      : Quant
  qc      : Quant
  deriving DecidableEq, Repr

/-- Chunk width W of a shape (R85). -/
def shapeW (shape : Nat) : Nat := 128 * 2 ^ shape
/-- Guaranteed width of a shape (R91). -/
def guaranteed (shape : Nat) : Nat := if shape = 0 then 124 else if shape = 1 then 240 else 448

/-- A stride: 0 means the row size rounded up to 64; others are rounded up and raised to the row (R87). -/
def matStride (row v : Nat) : Nat := max (roundUp row 64) (roundUp v 64)

/-- RAMP: 0 for 32, else the nearest multiple of 8, ties upward, within 16 to 128 (R86). -/
def rampCycles (v : Nat) : Nat := if v = 0 then 32 else clampN 16 128 ((v + 4) / 8 * 8)

def parseMDesc (level : Bool) (b : List Byte) : MDesc :=
  let w := num b 0 4
  let shape := min 2 (w % 8)
  let acc16 := bit w 3
  let a := if acc16 then 2 else 1
  let pk := min 2 (bits w 13 12)
  let p := if shape != 0 then 1 else if pk = 2 && a = 2 then 2 else 2 ^ pk
  let full := min (shapeW shape) (if p = 1 then shapeW shape else 128 / p)
  let cols := num b 60 2
  let lim (off : Nat) : Nat := min 16777215 (num b off 4)
  let qa := parseQuant false level (slice b 64 64)
  let qb := parseQuant false level (slice b 128 64)
  let qc := parseQuant true level (slice b 192 64)
  { shape, acc16, fp16 := bit w 4, run := if level then bits w 7 5 + 1 else 8, two := level && bit w 8
    act := min 4 (bits w 11 9), p, ramp := rampCycles (if level then bits w 21 14 else 0)
    halt := if level && bit w 22 then some (num b 62 2) else none
    m := lim 4, n := lim 8, k := lim 12, aA := va48 (num b 16 8), bA := va48 (num b 24 8), cA := va48 (num b 32 8)
    biasA := va48 (num b 40 8)
    aS := matStride (rowBytes qa.fmt (lim 12)) (num b 48 4), bS := matStride (rowBytes qb.fmt (lim 8)) (num b 52 4)
    cS := matStride (rowBytes qc.fmt (lim 8)) (num b 56 4)
    cols := if cols = 0 then min (guaranteed shape) full else clampN 1 full cols
    qa, qb, qc }

/-- Rows of an instance (R88, R110). -/
def instRows (d : MDesc) : Nat := (if d.two then 128 else 256) * d.p

/-- Number of instances of a descriptor. -/
def instCount (d : MDesc) : Nat := ceilDiv d.m (instRows d) * ceilDiv d.n d.cols

/-- Rows and columns [r0, r1) × [c0, c1) of instance i, in row-major order of the blocks. -/
def instBlock (d : MDesc) (i : Nat) : Nat × Nat × Nat × Nat :=
  let nc := ceilDiv d.n d.cols
  let r0 := i / nc * instRows d
  let c0 := i % nc * d.cols
  (r0, min d.m (r0 + instRows d), c0, min d.n (c0 + d.cols))

/-! ### Reading operands -/

/-- A reader of context memory: address and length to bytes. -/
abbrev Reader := Nat → Nat → List Byte

def codeAt (bs : List Byte) (fmt i : Nat) : Nat :=
  match formatBits fmt with
  | 32 => num bs (4 * i) 4
  | 16 => num bs (2 * i) 2
  | 8 => num bs i 1
  | _ => let b := num bs (i / 2) 1
         if i % 2 = 0 then b % 16 else b / 16

def readF32 (rd : Reader) (a : Nat) : FVal := fmtFp32.decode (unle (rd a 4))

/-- Index of the block scale of element (r, c) of a tensor of `cols` columns (R63). -/
def scaleIdx (q : Quant) (cols r c : Nat) : Nat :=
  if q.column then r / q.block * cols + c else r * ceilDiv cols q.block + c / q.block

/-- The block scale of an input element; 1.0 without one or with no scale tensor. -/
def blockScale (rd : Reader) (q : Quant) (cols r c : Nat) : FVal :=
  if q.mode = 1 || q.mode = 2 then
    if q.scaleA = 0 then .fin false 1 0
    else
      let code := unle (rd (q.scaleA + scaleIdx q cols r c) 1)
      if q.mode = 1 then decodeE8m0 code else fmtE4m3.decode code
  else .fin false 1 0

/-- Channel scale i of an operand (R64). -/
def chanScale (rd : Reader) (q : Quant) (i : Nat) : FVal :=
  if q.mode = 3 then
    if q.scaleA = 0 then .fin false 1 0 else readF32 rd (q.scaleA + if q.tensor then 0 else 4 * i)
  else .fin false 1 0

/-- Whether a zero point is given and applies to the operand itself (R66). -/
def zpGiven (q : Quant) : Bool := q.zpMode != 0
def zpTakes (q : Quant) : Bool := (q.fmt = 5 || q.fmt = 6) && (q.mode = 0 || q.mode = 3)

/-- Zero point of channel i of an operand that applies one. -/
def zpVal (rd : Reader) (q : Quant) (i : Nat) : Int :=
  if q.zpMode = 1 then q.zp
  else if q.zpA = 0 then 0
  else match decodeEl q.fmt (unle (rd (q.zpA + i) 1)) with
    | .fin n m _ => if n then -(m : Int) else m
    | _ => 0

def isIntFmt (c : Nat) : Bool := (intFmt c).isSome

/-- Whether A's and B's zero points are applied, and whether one was taken as 0 (ZP_IGNORED, R66). -/
def zpUse (d : MDesc) : Bool × Bool × Bool :=
  let eightA := d.qa.fmt = 5 || d.qa.fmt = 6
  let eightB := d.qb.fmt = 5 || d.qb.fmt = 6
  let a := zpGiven d.qa && zpTakes d.qa && d.qb.sumA != 0 && isIntFmt d.qb.fmt
  let b := zpGiven d.qb && zpTakes d.qb && isIntFmt d.qa.fmt
  (a, b, (zpGiven d.qa && eightA && !a) || (zpGiven d.qb && eightB && !b) ||
    (zpGiven d.qc && (d.qc.fmt = 5 || d.qc.fmt = 6) && (d.qc.mode = 1 || d.qc.mode = 2)))

/-! ### Product, tree, accumulation (R93 to R98) -/

abbrev FAcc := FVal × U32

/-- Round to a format keeping OVERFLOW and INVALID only (R98). -/
def roundTree (f : Fmt) (v : FAcc) : FAcc :=
  let p := f.pack v.1
  (f.decode p.1, (v.2 ||| p.2) &&& (fOverflow ||| fInvalid))

def accFmt (d : MDesc) : Fmt := if d.acc16 then (if d.fp16 then fmtFp16 else fmtBf16) else fmtFp32

def addTree (f : Fmt) (a b : FAcc) : FAcc :=
  let r := addF a.1 b.1
  let x := roundTree f r
  (x.1, x.2 ||| a.2 ||| b.2)

def pairLevel (f : Fmt) : List FAcc → List FAcc
  | a :: b :: xs => addTree f a b :: pairLevel f xs
  | xs => xs

/-- The tree over a chunk's W products, padded with +0 (R94). -/
def chunkSum (f : Fmt) (w : Nat) (ps : List FAcc) : FAcc :=
  let full := ps ++ List.replicate (w - ps.length) (.fin false 0 0, 0)
  ((List.range w.log2).foldl (fun l _ => pairLevel f l) full).headD (.fin false 0 0, 0)

/-- A running total: FP32, or the pair (hi, lo) with TWO_WORD, and its flags. -/
structure Total where
  hi : FVal := .fin false 0 0
  lo : FVal := .fin false 0 0
  fl : U32 := 0
  first : Bool := true
  deriving DecidableEq, Repr

def r32 (v : FVal × U32) : FAcc := roundTree fmtFp32 v
def add32x (a b : FVal) : FVal := (r32 (addF a b)).1
def sub32x (a b : FVal) : FVal := (r32 (subF a b)).1

/-- Add a value into the total (R95, R97): of R97's steps only s, e and lo are rounded. -/
def addTotal (two : Bool) (t : Total) (x : FAcc) : Total :=
  if two then
    let s := r32 (addF t.hi x.1)
    if isFin s.1 then
      let u := (subF s.1 t.hi).1
      let e := (r32 (addF (subF t.hi (subF s.1 u).1).1 (subF x.1 u).1)).1
      { hi := s.1, lo := add32x t.lo e, fl := t.fl ||| s.2 ||| x.2, first := false }
    else { t with hi := s.1, fl := t.fl ||| s.2 ||| x.2, first := false }
  else if t.first then { t with hi := x.1, fl := t.fl ||| x.2, first := false }
  else
    let s := r32 (addF t.hi x.1)
    { t with hi := s.1, fl := t.fl ||| s.2 ||| x.2 }

/-- Accumulation state of one element: total, 16-bit partial, chunks in the run. -/
structure Accum where
  tot  : Total := {}
  part : FVal := .fin false 0 0
  pfl  : U32 := 0
  pos  : Nat := 0
  deriving DecidableEq, Repr

/-- One chunk sum into the accumulator (R95, R96). DESIGN CHOICE (log 90): the first chunk sum of a run is written into the
16-bit partial, as R95 writes chunk 0 into the accumulator. -/
def addChunk (d : MDesc) (a : Accum) (x : FAcc) : Accum :=
  if !d.acc16 then { a with tot := addTotal d.two a.tot x }
  else
    let p := if a.pos = 0 then x else addTree (accFmt d) (a.part, a.pfl) x
    if a.pos + 1 = d.run then { tot := addTotal d.two a.tot p, part := .fin false 0 0, pfl := 0, pos := 0 }
    else { a with part := p.1, pfl := p.2, pos := a.pos + 1 }

/-- After the last chunk a partial that is open is promoted. -/
def closeAccum (d : MDesc) (a : Accum) : Total :=
  if d.acc16 && a.pos != 0 then addTotal d.two a.tot (a.part, a.pfl) else a.tot

/-- The accumulated value the epilogue takes. -/
def totalVal (two : Bool) (t : Total) : FVal × U32 :=
  if two && isFin t.hi then
    let s := r32 (addF t.hi t.lo)
    (s.1, s.2 ||| t.fl)
  else (t.hi, t.fl)

/-- What an expanded row or column holds: values, flags, whether anything was clipped, and the codes' integer sum. -/
structure Vec where
  vals : List FVal
  fl   : U32
  clip : Bool
  sum  : Int
  deriving DecidableEq, Repr

def expandVec (fmt : Nat) (codes : List Nat) (scale : Nat → FVal) : Vec :=
  let xs := codes.zipIdx.map fun c => expand fmt c.1 (scale c.2)
  { vals := xs.map (·.1), fl := xs.foldl (fun f x => f ||| x.2.1) 0, clip := xs.any (·.2.2)
    sum := codes.foldl (fun a c => match decodeEl fmt c with
      | .fin n m e => if isIntFmt fmt then a + (if n then -(m : Int) else m) else if e = 0 then a else a
      | _ => a) 0 }

/-- Row m of A expanded. -/
def rowA (rd : Reader) (d : MDesc) (m : Nat) : Vec :=
  let bs := rd (d.aA + m * d.aS) (rowBytes d.qa.fmt d.k)
  expandVec d.qa.fmt ((List.range d.k).map fun k => codeAt bs d.qa.fmt k) (fun k => blockScale rd d.qa d.k m k)

/-- Rows of B as bytes, k ascending. -/
def rowsB (rd : Reader) (d : MDesc) : List (List Byte) :=
  (List.range d.k).map fun k => rd (d.bA + k * d.bS) (rowBytes d.qb.fmt d.n)

/-- Column n of B expanded. -/
def colB (rd : Reader) (d : MDesc) (rows : List (List Byte)) (n : Nat) : Vec :=
  expandVec d.qb.fmt (rows.map fun bs => codeAt bs d.qb.fmt n) (fun k => blockScale rd d.qb d.n k n)

/-- The products of two vectors (R93). -/
def products (d : MDesc) (a b : List FVal) : List FAcc :=
  (a.zip b).map fun p => roundTree (if d.acc16 then accFmt d else fmtFp32) (mulF p.1 p.2)

def chunksOf (w : Nat) : Nat → List FAcc → List (List FAcc)
  | 0, _ => []
  | n + 1, xs => if xs.isEmpty then [] else xs.take w :: chunksOf w n (xs.drop w)

/-- Element (m, n) accumulated over the first `upTo` chunks. -/
def accumulate (d : MDesc) (a b : List FVal) (upTo : Nat) : Accum :=
  let w := shapeW d.shape
  ((chunksOf w (ceilDiv d.k w) (products d a b)).take upTo).foldl
    (fun acc c => addChunk d acc (chunkSum (accFmt d) w c)) {}

/-! ### Epilogue (R104, R105, 03 R68) -/

/-- One FP32 rounding of the epilogue; INEXACT is never raised there. -/
def repi (v : FVal × U32) : FAcc :=
  let p := fmtFp32.pack v.1
  (fmtFp32.decode p.1, (v.2 ||| p.2) &&& ~~~fInexact)

def activation (act : Nat) (v : FVal) : FAcc :=
  let code := (pack32 v).1
  match act with
  | 0 => if isNan v then (.nan false, 0) else (v, 0)
  | 1 => if isNan v then (.nan false, 0) else if ltF (.fin false 0 0) v then (v, 0) else (.fin false 0 0, 0)
  | 2 => let r := transF 6 code; (f32 r.1, r.2 &&& ~~~fInexact)
  | 3 => let r := transF 7 code; (f32 r.1, r.2 &&& ~~~fInexact)
  | _ => let r := transF 5 code; (f32 r.1, r.2 &&& ~~~fInexact)

/-- Steps 1 to 4 for element (m, n): the FP32 value that enters conversion; C is added on every element, 0 where no zero
point applies. With K = 0 only bias and activation act (R111). -/
def epilogue (rd : Reader) (d : MDesc) (m n : Nat) (v0 : FVal) (ra : Int) : FAcc :=
  let z := zpUse d
  let za := if z.1 then zpVal rd d.qa m else 0
  let zb := if z.2.1 then zpVal rd d.qb n else 0
  let cb : Int := if z.1 && d.k != 0 then signedOf 32 (unle (rd (d.qb.sumA + 4 * n) 4)) else 0
  let corr : Int := if d.k = 0 then 0 else -(zb * ra) - za * cb + d.k * za * zb
  let v1 : FAcc := repi (addF v0 (repi (ofInt (signedOf 64 (unsignedOf 64 corr)), 0)).1)
  let v2 : FAcc := if isIntFmt d.qc.fmt || d.k = 0 then v1 else if d.qa.mode = 3 || d.qb.mode = 3 || d.qc.mode = 3 then
      let f1 := repi (mulF (chanScale rd d.qa m) (chanScale rd d.qb n))
      let f2 := repi (mulF f1.1 (chanScale rd d.qc n))
      let r := repi (mulF v1.1 f2.1)
      (r.1, r.2 ||| f1.2 ||| f2.2 ||| v1.2)
    else v1
  let v3 : FAcc := if d.biasA = 0 then v2 else
    let r := repi (addF v2.1 (readF32 rd (d.biasA + 4 * n)))
    (r.1, r.2 ||| v2.2)
  let a := activation d.act v3.1
  (a.1, a.2 ||| v3.2)

/-! ### One instance -/

/-- What an instance produces. -/
structure MOut where
  rows   : List (Nat × List Conv)          -- row and the codes of its columns c0, c0 + 1, …
  c0     : Nat
  scales : List (Nat × Nat)                -- block-scale entries to write: index, code
  flags  : U32
  hist   : Hist
  amax   : FVal
  flushed : Nat
  elems  : Nat
  qstat  : U32
  deriving DecidableEq, Repr

/-- The value before conversion of row m, columns [c0, c1). -/
def rowValues (rd : Reader) (d : MDesc) (bcols : List (Nat × Vec)) (m : Nat) : List FAcc :=
  let a := if d.k = 0 then { vals := [], fl := 0, clip := false, sum := 0 : Vec } else rowA rd d m
  bcols.map fun nb =>
    let t := totalVal d.two (closeAccum d (accumulate d a.vals nb.2.vals (ceilDiv d.k (shapeW d.shape))))
    let e := epilogue rd d m nb.1 t.1 a.sum
    (e.1, withSource fSrcArray t.2 ||| withSource fSrcEpilogue e.2 ||| withSource fSrcExpand (a.fl ||| nb.2.fl))

def scaleKind (q : Quant) : ScaleFmt := if q.mode = 2 then .e4m3 else .e8m0

/-- Count a value entering conversion (R81). -/
def histAdd (base : Int) (h : Hist) (v : FVal) (c : Conv) : Hist :=
  let h := { h with elements := h.elements + 1,
                    saturated := h.saturated + b2n c.sat, flushed := h.flushed + b2n c.flushed }
  match v with
  | .nan _ => { h with nan := h.nan + 1 }
  | .inf _ => { h with inf := h.inf + 1 }
  | .fin _ m e =>
    if m = 0 then { h with zero := h.zero + 1 }
    else
      let l := floorLog2 m e
      let h := { h with amax := if ltF (f32 h.amax) (absV v) then (pack32 (absV v)).1 else h.amax }
      if l < -126 then { h with subnormal := h.subnormal + 1 }
      else
        let i := (max 0 (min 63 (l - base))).toNat
        { h with bins := smSet h.bins i (satAdd 32 (smGet h.bins 0 i) 1) }

/-- Convert one value of column n with block scale s (none: no block scale). -/
def convertEl (rd : Reader) (d : MDesc) (n : Nat) (s : Option FVal) (v : FVal) : Conv :=
  let q := d.qc
  if isIntFmt q.fmt then
    let per := q.mode = 3 && !q.tensor && q.scaleA != 0
    let ent := if per then rd (q.scaleA + 8 * n) 8 else []
    let mult := if per then signedOf 32 (num ent 0 4) else q.mult
    let sh := if per then num ent 4 1 % 64 else q.shift
    let zp := if (q.fmt = 5 || q.fmt = 6) && q.zpMode != 0 then zpVal rd q n else 0
    rescale q.fmt q.rtz mult sh zp v
  else match s with
    | some s => convScaled q.fmt q.sat q.rtz v s
    | none => convTo q.fmt q.sat q.rtz v

/-- Instance i computed from memory. `hist`: the history scale code of a DELAYED output; `own`: the scale of a guard
replay (R80). -/
def matrixOut (rd : Reader) (d : MDesc) (i : Nat) (histScale : Nat) (own : Option Nat) : MOut :=
  let (r0, r1, c0, c1) := instBlock d i
  let q := d.qc
  let k := scaleKind q
  -- a CURRENT block that spans instances is scaled as one block (R77)
  let (b0, b1) := if q.oscale = 1 then (c0 / q.block * q.block, min d.n (roundUp c1 q.block)) else (c0, c1)
  let rowsBs := if d.k = 0 then [] else rowsB rd d
  let bcols := (List.range (b1 - b0)).map fun j =>
    (b0 + j, if d.k = 0 then { vals := [], fl := 0, clip := false, sum := 0 : Vec } else colB rd d rowsBs (b0 + j))
  let clipA := (List.range (r1 - r0)).any fun j => d.k != 0 && (rowA rd d (r0 + j)).clip
  let base : MOut := { rows := [], c0, scales := [], flags := 0, hist := {}, amax := .fin false 0 0, flushed := 0,
                       elems := 0, qstat := flagIf (zpUse d).2.2 qZpIgnored ||| flagIf (clipA || bcols.any fun b => c0 ≤ b.1 && b.1 < c1 && b.2.clip) qExpClipped }
  (List.range (r1 - r0)).foldl (fun o j =>
    let m := r0 + j
    let vs := rowValues rd d bcols m
    let blockVals (b : Nat) : List FVal :=
      (vs.zipIdx.filter fun x => (b0 + x.2) / q.block = b).map fun x => x.1.1
    let scaleOf (n : Nat) : Option (Nat × Bool) :=
      if q.oscale = 1 then some (derive q.fmt k (groupMax q.fmt (blockVals (n / q.block))))
      else if q.oscale = 2 then some (own.getD histScale, false)
      else none
    let scaleV (n : Nat) : Option FVal :=
      match scaleOf n with
      | some c => some (scaleVal k c.1)
      | none => if (q.mode = 1 || q.mode = 2) && !isIntFmt q.fmt then some (blockScale rd q d.n m n) else none
    let mine := (vs.zipIdx.map fun x => (b0 + x.2, x.1)).filter fun x => c0 ≤ x.1 && x.1 < c1
    -- a constant block of CURRENT has codes 0 (R76); they set no flag and enter no count of R493 (log 91)
    let cv := mine.map fun x => (x.2.1, match scaleOf x.1 with
      | some (_, true) => ⟨0, 0, false, false, false, false⟩
      | _ => convertEl rd d x.1 (scaleV x.1) x.2.1)
    let blocks := if q.oscale = 0 then [] else
      if q.column then
        (if j = 0 || m % q.block = 0 then mine.filterMap fun x =>
          (scaleOf x.1).map fun c => (m / q.block * d.n + x.1, c.1) else [])
      else
      ((mine.map fun x => x.1 / q.block).eraseDups).filterMap fun b =>
        match scaleOf (max c0 (b * q.block)) with
        | some c => some (m * ceilDiv d.n q.block + b, c.1)
        | none => none
    let const := q.oscale == 1 && (mine.any fun x => match scaleOf x.1 with | some c => c.2 | none => false)
    { o with
      rows := o.rows ++ [(m, cv.map (·.2))]
      scales := o.scales ++ blocks
      flags := cv.foldl (fun f x => f ||| withSource fSrcEpilogue x.2.flags) (mine.foldl (fun f x => f ||| x.2.2) o.flags)
      hist := cv.foldl (fun h x => histAdd q.base h x.1 x.2) o.hist
      amax := groupMax 0 (o.amax :: cv.map (·.1))
      flushed := o.flushed + (cv.filter fun x => x.2.flushed).length
      elems := o.elems + cv.length
      qstat := o.qstat ||| flagIf const qConst }) base

/-- The guard decision of R80: over, under. -/
def guardTest (d : MDesc) (o : MOut) (histScale : Nat) : Bool × Bool :=
  let q := d.qc
  match floatFmt q.fmt with
  | none => (false, false)
  | some f =>
    let lim := (mulF (.fin false f.maxFin.1 f.maxFin.2) (scaleVal (scaleKind q) histScale)).1
    (ltF lim o.amax, o.elems < o.flushed * 2 ^ q.ufrac)

/-- The output bytes of one row: whole bytes with their address, and lone nibbles (address, high, value) (03 R60). -/
def rowStores (d : MDesc) (c0 m : Nat) (cs : List Conv) : List (Nat × List Byte) × List (Nat × Bool × Nat) :=
  let base := d.cA + m * d.cS
  let bitsPer := formatBits d.qc.fmt
  if bitsPer = 4 then
    let el (n : Nat) : Nat := (cs.getD (n - c0) ⟨0, 0, false, false, false, false⟩).code
    let c1 := c0 + cs.length
    let lo := if c0 % 2 = 1 && cs.length != 0 then [(base + c0 / 2, true, el c0)] else []
    let hi := if c1 % 2 = 1 && c1 < d.n && c1 - 1 ≥ c0 && (c1 - 1) % 2 = 0 then [(base + c1 / 2, false, el (c1 - 1))] else []
    let b0 := (c0 + 1) / 2
    let b1 := if c1 = d.n then (c1 + 1) / 2 else c1 / 2
    let bytes := (List.range (b1 - b0)).map fun j =>
      let n := 2 * (b0 + j)
      (BitVec.ofNat 8 (el n + if n + 1 < c1 then 16 * el (n + 1) else 0) : Byte)
    ((if bytes.isEmpty then [] else [(base + b0, bytes)]), lo ++ hi)
  else
    ([(base + c0 * (bitsPer / 8), cs.flatMap fun c => le (bitsPer / 8) c.code)], [])

/-- The history scale of R78 from the 320-byte structure; and whether the history is empty. Log 92: a maximum of 0 gives
derive(0) = 1.0 and sets no CONST_CHANNEL; a negative entry counts by its magnitude, a NaN or infinite one not at all. -/
def historyScale (q : Quant) (h : Option (List Byte)) : Nat × Bool :=
  let k := scaleKind q
  let one := match k with | .e8m0 => 0x7F | _ => 0x38
  match h with
  | none => (one, true)
  | some b =>
    let len := clampN 1 64 (num b 0 1)
    let head := num b 1 1 % len
    let cnt := min len (num b 2 1)
    if cnt = 0 then (one, true)
    else
      let a := groupMax 0 ((List.range cnt).map fun j => fmtFp32.decode (num b (64 + 4 * ((head + len - j) % len)) 4))
      match scaleVal k (derive q.fmt k a).1 with
      | .fin _ m e => (clipScale k m (e + q.margin), false)
      | _ => (one, false)

/-- The history after a kernel pushes its largest a (R78); a kernel without an instance pushes 0 (log 92). -/
def historyPush (b : List Byte) (a : U32) : List Byte :=
  let len := clampN 1 64 (num b 0 1)
  let head := (num b 1 1 % len + 1) % len
  let cnt := min len (min len (num b 2 1) + 1)
  patch (patch (patch b 1 (le 1 head)) 2 (le 1 cnt)) (64 + 4 * head) (le 4 a.toNat)

/-- The 384-byte histogram record of R81. -/
def histRecord (h : Hist) (scale : U32) : List Byte :=
  rec_ 384 (((List.range 64).map fun i => (4 * i, 4, smGet h.bins 0 i)) ++
    [(256, 8, h.elements), (264, 8, h.zero), (272, 8, h.subnormal), (280, 8, h.nan), (288, 8, h.inf),
     (296, 8, h.saturated), (304, 8, h.flushed), (312, 4, h.amax.toNat), (316, 4, scale.toNat),
     (320, 4, h.qstat.toNat), (324, 2, h.replays)])

/-- Merge an instance's contribution (R82). -/
def histMerge (a b : Hist) : Hist :=
  { bins := (smKeys b.bins).foldl (fun m i => smSet m i (satAdd 32 (smGet m 0 i) (smGet b.bins 0 i))) a.bins
    elements := a.elements + b.elements, zero := a.zero + b.zero, subnormal := a.subnormal + b.subnormal
    nan := a.nan + b.nan, inf := a.inf + b.inf, saturated := a.saturated + b.saturated, flushed := a.flushed + b.flushed
    amax := if ltF (f32 a.amax) (f32 b.amax) then b.amax else a.amax
    qstat := a.qstat ||| b.qstat, replays := a.replays + b.replays }

end Sys2Proof.Machine
end

