-- ==== Sys2Proof/Machine/Kernel.lean ====
section
/-! DEFINITION. Launching kernels (11 R307, 05 R133 to R138): stream descriptors and arming, arrays of a shape and their
widths (01 R16, 04 R85 to R92), LAUNCH_KERNEL and STREAM_REARM. -/

namespace Sys2Proof.Machine

/-! ### Stream descriptors (R133; log 19) -/

/-- The kind an engine runs: 0 to 3 load, 4 and 5 store, 6 and 7 gather. -/
def engineKind (e : Nat) : Nat := if e < 4 then 0 else if e < 6 then 1 else 2

/-- A descriptor with its clamps; `teasel`: the partition owns its dies whole (01 R26). -/
def parseStream (teasel : Bool) (ctx queue flight : Nat) (d : StreamDesc) : Stream :=
  let b := d.bytes
  let w := num b 0 4
  let kind := engineKind d.engine
  let path0 := min 2 (bits w 3 2)
  let path := if path0 = 1 && !(kind = 2 && teasel) then 0 else path0
  let rb0 := max 1 (num b 4 4)
  let rb := if kind = 2 then roundUp rb0 64 else rb0
  let st0 := num b 16 4
  let st := if kind = 2 then roundUp (if st0 = 0 then rb else st0) 64 else if st0 = 0 then rb else st0
  { kind, path, persistent := bit w 4, waitMap := bit w 5, signalEn := bit w 6, rowBytes := rb
    rows := if kind = 2 then clampN 1 (2 ^ 40) (num b 8 8) else num b 8 8
    stride := st, spadOff := num b 20 4 % 2 ^ 23, ring := num b 24 4 / 64 * 64, fence := num b 28 4 % 2 ^ 18
    fenceVal := num b 32 8, base := if path = 2 then num b 40 8 else va48 (num b 40 8), context := ctx, queue, flight
    inUse := false, segs := [], ready := 0, pos := 0, acked := 0, pend := [], idx := [], gqCount := 0, complete := false }

/-- Bytes from BASE to the end of the range. -/
def streamSpan (x : Stream) : Nat :=
  if x.kind = 2 then x.rows * x.stride else if x.rows = 0 then 0 else (x.rows - 1) * x.stride + x.rowBytes

/-- Bytes a load or store stream moves. -/
def streamBytes (x : Stream) : Nat := x.rows * x.rowBytes

/-- Join segments that follow one another in physical memory. -/
def joinSegs (l : List Seg) : List Seg :=
  (l.foldl (fun acc g => match acc with
    | a :: r => if a.pa + a.len = g.pa && a.off + a.len = g.off then { a with len := a.len + g.len } :: r else g :: acc
    | [] => [g]) []).reverse

/-- Whole-range arming of a device range (R135, R136): the failure, if any. -/
def armRange (s : State) (c va n : Nat) (rd wr wait : Bool) : Verdict :=
  match checkRange s c va n rd wr with
  | some (st, a) => .badAt st a wait
  | none =>
    match (joinSegs (segments s c va n))[8]? with
    | some g => .badAt stStreamFragmented (va + g.off) false
    | none => .ok

/-- Arm a stream: its segments, or the failure of R136. PATH 2 is one segment that only the IOMMU judges (09 R253). -/
def armStream (s : State) (wait : Bool) (x : Stream) : Verdict × Stream :=
  let n := streamSpan x
  if x.path = 2 then (.ok, { x with segs := [{ off := 0, pa := x.base, len := n }] })
  else
    match armRange s x.context x.base n (x.kind != 1) (x.kind == 1) (wait || x.waitMap) with
    | .ok => (.ok, { x with segs := joinSegs (segments s x.context x.base n) })
    | v => (v, x)

/-- The persistent stream a kernel of the context uses without arming it again (R137). -/
def persistentAt (s : State) (tile engine ctx : Nat) : Option Stream :=
  match smFind (getTile s tile).streams engine with
  | some x => if x.persistent && x.context == ctx then some x else none
  | none => none

/-- Arm one descriptor of a launch: a persistent stream stands, translated again when it lost its segments (R138). -/
def armDesc (s : State) (p : Part) (ctx queue flight : Nat) (wait : Bool) (d : StreamDesc) : Verdict × (Nat × Nat × Stream) :=
  match persistentAt s d.tile d.engine ctx with
  | some x =>
    let a := if x.segs.isEmpty && x.path != 2 then armStream s wait x else (.ok, x)
    (a.1, (d.tile, d.engine, { a.2 with flight := flight }))
  | none =>
    let a := armStream s wait (parseStream (wholeDies p) ctx queue flight d)
    (a.1, (d.tile, d.engine, a.2))

def armAll (s : State) (p : Part) (ctx queue flight : Nat) (wait : Bool) (ds : List StreamDesc) :
    Verdict × List (Nat × Nat × Stream) :=
  let rs := ds.map fun d => armDesc s p ctx queue flight wait d
  (firstBad (rs.map (·.1)), rs.map (·.2))

/-! ### Arrays of a shape (01 R16, 04 R85, R90, R91) -/

/-- Tiles of the array of a shape whose first tile (lowest row and column) is `t`; none where no such array begins. -/
def arrayTiles (shape t : Nat) : List Nat :=
  let die := t / 32
  let row := t % 32 / 8
  let col := t % 8
  let k := 2 ^ shape
  if row % k = 0 && col % k = 0 then
    (List.range k).flatMap fun i => (List.range k).map fun j => die * 32 + (row + i) * 8 + col + j
  else []

/-- Physical columns of an array in the order of its logical columns (04 R90): bottom tile of the tile column, position. A
position works only where it works in every tile of the tile column. -/
def physCols (s : State) (shape t : Nat) : List (Nat × Nat) :=
  let ts := arrayTiles shape t
  (List.range (2 ^ shape)).flatMap fun j =>
    let lost := (ts.filter fun u => u % 8 = t % 8 + j).flatMap fun u => (getTile s u).bypass
    ((List.range 128).filter fun p => !lost.contains p).map fun p => (t + (2 ^ shape - 1) * 8 + j, p)

/-- Where the array holds the accumulator of row m and logical column n of an instance (04 R90, R101, R110): tile and key.
With packing, row m is row ⌊m ÷ P⌋ of column group m mod P. A column group that bypassed columns leave too narrow has
no place for the value (DESIGN CHOICE, log 93). -/
def accPlace (cols : List (Nat × Nat)) (p m n : Nat) : Option (Nat × Nat) :=
  cols[m % p * (128 / p) + n]?.map fun x => (x.1, m / p * 128 + x.2)

/-- Working columns of an array (R90). -/
def arrayWidth (s : State) (shape t : Nat) : Nat :=
  let ts := arrayTiles shape t
  if ts.isEmpty || ts.any (fun u => (getTile s u).retired) then 0
  else if shape = 0 then (getTile s t).width
  else (List.range (2 ^ shape)).foldl (fun w j =>
    let lost := ((ts.filter fun u => u % 8 = t % 8 + j).flatMap fun u => (getTile s u).bypass).eraseDups
    w + (128 - lost.length)) 0

/-- The arrays of a shape inside a set of tiles, by first tile; retired tiles form none. -/
def arraysIn (s : State) (shape : Nat) (tiles : List Nat) : List Nat :=
  tiles.filter fun t => 0 < arrayWidth s shape t && (arrayTiles shape t).all fun u => tiles.contains u

def kernShape (r : Req) : Nat := min 2 (num r.slot 240 1 % 8)

def maskOf (ts : List Nat) : Nat := ts.foldl (fun m t => m + 2 ^ t) 0
def tilesOf (mask : Nat) : List Nat := (List.range 128).filter fun t => mask.testBit t

/-! ### LAUNCH_KERNEL (R307) -/

def kernProgram (r : Req) : Nat × Nat := (pAddr r.slot 64, num r.slot 72 4)
def kernInstances (r : Req) : Nat := num r.slot 76 4
def kernTiles (s : State) (r : Req) : List Nat := match r.part.bind (findPart s) with
  | some p => maskTiles p (num r.slot 80 16)
  | none => []
def kernDescs (r : Req) : List MDesc := r.mats.map fun b => parseMDesc r.level b

/-- Bytes from the first row to the end of the last. -/
def matSpan (rows stride row : Nat) : Nat := if rows = 0 then 0 else (rows - 1) * stride + row

/-- Bytes of the scales of a rows × cols operand with `chans` channels (03 R63, R64, R74). -/
def scaleBytes (q : Quant) (rows cols chans : Nat) : Nat :=
  if q.mode = 1 || q.mode = 2 then
    (if q.column then ceilDiv rows q.block * cols else rows * ceilDiv cols q.block)
  else if q.mode = 3 then
    (if isIntFmt q.fmt && q.out then (if q.tensor then 0 else 8 * chans) else 4 * (if q.tensor then 1 else chans))
  else 0

/-- A range of a descriptor that an address of 0 leaves out. -/
def armPart (s : State) (c : Nat) (wait : Bool) (a n : Nat) (rd wr : Bool) : Verdict :=
  if a = 0 || n = 0 then .ok else armRange s c a n rd wr wait

/-- Scales, zero points and column sums of an input (03 R63 to R66). -/
def armQuant (s : State) (c : Nat) (wait : Bool) (q : Quant) (rows cols chans : Nat) : List Verdict :=
  [armPart s c wait q.scaleA (scaleBytes q rows cols chans) true false,
   armPart s c wait q.zpA (if q.zpMode = 2 && zpTakes q then chans else 0) true false]

/-- The ranges of a matrix descriptor: A and B with what their quantisation reads unless K is 0, the output, bias, output
scales and histories (04 R86, R111); with no output only the histogram is written. -/
def armMatrix (s : State) (c : Nat) (wait : Bool) (d : MDesc) : List Verdict :=
  (if d.m = 0 || d.n = 0 then [] else
    (if d.k = 0 then [] else
      [armRange s c d.aA (matSpan d.m d.aS (rowBytes d.qa.fmt d.k)) true false wait,
       armRange s c d.bA (matSpan d.k d.bS (rowBytes d.qb.fmt d.n)) true false wait] ++
      armQuant s c wait d.qa d.m d.k d.m ++ armQuant s c wait d.qb d.k d.n d.n ++
      [armPart s c wait (if (zpUse d).1 then d.qb.sumA else 0) (4 * d.n) true false]) ++
    [armRange s c d.cA (matSpan d.m d.cS (rowBytes d.qc.fmt d.n)) false true wait,
     armPart s c wait d.biasA (4 * d.n) true false] ++
    [armPart s c wait d.qc.scaleA (scaleBytes d.qc d.m d.n d.n) (d.qc.oscale = 0) (d.qc.oscale != 0),
     armPart s c wait d.qc.zpA (if d.qc.zpMode = 2 && zpTakes d.qc then d.n else 0) true false,
     if d.qc.histA = 0 || d.qc.oscale != 2 then .ok else rangeOk s c d.qc.histA 320 true true wait]) ++
  [if d.qc.histoA = 0 then .ok else rangeOk s c d.qc.histoA 384 false true wait]

/-- The descriptors for tiles of the kernel. -/
def kernStreams (s : State) (r : Req) (ds : List StreamDesc) : List StreamDesc :=
  ds.filter fun d => (kernTiles s r).contains d.tile

/-- The launch's own checks: program, tiles, width, streams, and the ranges the device itself reads and writes. -/
def ownLaunch (ds : List StreamDesc) (s : State) (r : Req) : Verdict :=
  let ts := kernTiles s r
  let arrays := arraysIn s (kernShape r) ts
  let cols := (kernDescs r).foldl (fun m d => max m d.cols) 0
  let w := hWaitMap r.slot
  if kernInstances r = 0 then .ok
  else
    match r.part.bind (findPart s) with
    | none => .bad stTilesUnavailable
    | some p =>
      firstBad ([need ((kernProgram r).2 ≤ 65536) stProgramTooLarge,
        need (!arrays.isEmpty) stTilesUnavailable,
        need (arrays.any fun t => cols ≤ arrayWidth s (kernShape r) t) stArrayTooNarrow,
        rangeOk s r.ctx (kernProgram r).1 (kernProgram r).2 true false w] ++
        ((kernDescs r).flatMap (armMatrix s r.ctx w)) ++
        [(armAll s p r.ctx r.queue 0 w (kernStreams s r ds)).1] ++
        ((kernStreams s r ds).map fun d =>
          let x := parseStream true r.ctx r.queue 0 d
          if x.signalEn then need (fenceOwner s x.fence == r.part) stFenceNotOwned else .ok) ++
        [if pAddr r.slot 232 = 0 then .ok else rangeOk s r.ctx (pAddr r.slot 232) 4 false true w])

/-- The histories read at dispatch (03 R78): the scale code each DELAYED output converts with. -/
def histScales (s : State) (r : Req) : SMap U32 :=
  (kernDescs r).zipIdx.filterMap fun d =>
    if d.1.qc.oscale = 2 then
      let h := if d.1.qc.histA = 0 then none else some (readVa s r.ctx d.1.qc.histA 320).data
      some (d.2, BitVec.ofNat 32 (historyScale d.1.qc h).1)
    else none

/-- HISTORY_EMPTY of the outputs whose history holds nothing (R78, R81). -/
def histFlags (s : State) (r : Req) : SMap Hist :=
  (kernDescs r).zipIdx.filterMap fun d =>
    let empty := d.1.qc.oscale = 2 &&
      (historyScale d.1.qc (if d.1.qc.histA = 0 then none else some (readVa s r.ctx d.1.qc.histA 320).data)).2
    some (d.2, { qstat := flagIf empty qHistEmpty : Hist })

/-- The histories as read at dispatch (03 R78). -/
def histBufs (s : State) (r : Req) : SMap (List Byte) :=
  (kernDescs r).zipIdx.filterMap fun d =>
    if d.1.qc.oscale = 2 && d.1.qc.histA != 0 then some (d.2, (readVa s r.ctx d.1.qc.histA 320).data) else none

/-- The kernel of a launch; none of its instances runs where every matrix output is empty (04 R111). DESIGN CHOICE (log
94): the launch's SHAPE places the instances, finds duplicates' arrays and their widths; a descriptor's SHAPE gives its W,
packing and COLS, also where the two differ. -/
def mkKernel (s : State) (r : Req) (f : Flight) (streams : List (Nat × Nat × Stream)) : Kernel :=
  let ds := kernDescs r
  let none_ := !ds.isEmpty && ds.all fun d => d.m = 0 || d.n = 0
  { program := (kernProgram r).1, progBytes := (kernProgram r).2
    instances := if none_ then 0 else kernInstances r
    next := 0, again := [], ended := 0, tileMask := maskOf (kernTiles s r)
    sregs := (List.range 16).map fun i => BitVec.ofNat 64 (num r.slot (96 + 8 * i) 8)
    energyUj := num r.slot 224 4, durationUs := num r.slot 228 4, flagsAddr := pAddr r.slot 232
    shape := kernShape r, descs := r.mats, spad := num r.slot 244 4 % 2 ^ 23
    pin := r.level && bit (xField r.expert 0 1) 0, noPreload := r.level && bit (xField r.expert 0 1) 1
    level := r.level, flags := 0, hists := histFlags s r, histScale := histScales s r
    hbufs := histBufs s r, mma := []
    cls := f.lc, lcReady := f.since, streams, started := false }

/-- The program as its bytes stand in memory. -/
def programRead (s : State) (f : Flight) (k : Kernel) : Acc := readVa s f.context k.program k.progBytes

/-- SREG0 to SREG15 as a launch gives them. -/
def launchSregs (k : Kernel) : SMap U64 := k.sregs.zipIdx.map fun x => (x.2, x.1)

/-- Preload the kernel onto tiles that run another one: program and shadow registers (05 R127); its streams are armed. -/
def preloadTiles (f : Flight) (k : Kernel) (s : State) : State :=
  if k.noPreload || !(s.tiles.any (fun t => k.tileMask.testBit t.1 && t.2.run.isSome)) then s else
  let a := programRead s f k
  let load (x : Tile) : Tile := { x with
    preload := some f.num
    nextMem := a.data
    shadow := launchSregs k }
  noteAcc f.num false a { s with tiles := smMap s.tiles fun t x => if k.tileMask.testBit t && x.run.isSome then load x else x }

/-- Dispatch a launch: its streams are armed and its instances pend on its tiles. -/
def startKernel (ds : List StreamDesc) (r : Req) (n : Nat) (s : State) : State :=
  match findFlight s n, r.part.bind (findPart s) with
  | some f, some p =>
    if kernInstances r = 0 then finishFlight n 0 s
    else
      let k := mkKernel s r f (armAll s p r.ctx r.queue n (hWaitMap r.slot) (kernStreams s r ds)).2
      preloadTiles f k (updFlight n (fun f => { f with work := .kernel k }) s)
  | _, _ => finishFlight n 0 s

def launchCharge (s : State) (r : Req) : Nat := match r.part.bind (findPart s) with
  | some p => kernelCharge s p r.slot
  | none => 0

/-- LAUNCH_KERNEL. -/
def execLaunchKernel (queue : Nat) (streams : List StreamDesc) (s : State) : Res :=
  .next (dispatch queue (isOp 0x200) launchCharge (ownLaunch streams) (startKernel streams) s)

/-! ### STREAM_REARM (05 R137, 11 R309) -/

/-- The absolute tile of a partition-local one. -/
def localTile (s : State) (p : Option Nat) (t : Nat) : Option Nat := match p.bind (findPart s) with
  | some w => (partTiles w)[t]?
  | none => none

def rearmTarget (s : State) (r : Req) : Option (Nat × Nat × Stream) :=
  (localTile s r.part (num r.slot 64 2 % 128)).bind fun t =>
    (smFind (getTile s t).streams (num r.slot 66 1 % 8)).map fun x => (t, num r.slot 66 1 % 8, x)

/-- The stream with its new BASE, translated in full. -/
def rearmed (s : State) (r : Req) (x : Stream) : Verdict × Stream :=
  armStream s (hWaitMap r.slot) { x with
    base := if x.path = 2 then num r.slot 72 8 else pAddr r.slot 72
    segs := [] }

/-- The kernel holds an armed stream at an engine of a tile. -/
def armsAt (k : Kernel) (t e : Nat) : Bool := k.streams.any fun y => y.1 = t && y.2.1 = e && y.2.2.persistent

/-- A kernel that has begun uses the stream, also between its instances (R137). -/
def streamUsed (s : State) (t e : Nat) : Bool :=
  (match smFind (getTile s t).streams e with
    | some x => x.inUse
    | none => false) ||
  s.flights.any fun f => f.done.isNone && match f.work with
    | .kernel k => k.started && armsAt k t e
    | _ => false

/-- Replace the BASE of a persistent stream, also for the kernels that are to use it and have not begun. -/
def rearmNow (t e : Nat) (x : Stream) (s : State) : State :=
  let s := updTile t (fun w => { w with streams := smSet w.streams e x }) s
  { s with flights := s.flights.map fun f => match f.work with
    | .kernel k => if k.started || !armsAt k t e then f else { f with work := .kernel { k with
        streams := k.streams.map fun y => if y.1 = t && y.2.1 = e then (t, e, { x with flight := y.2.2.flight }) else y } }
    | _ => f }

def ownRearm (s : State) (r : Req) : Verdict :=
  match rearmTarget s r with
  | some (t, e, x) => if streamUsed s t e || !x.persistent then .ok else (rearmed s r x).1
  | none => .ok

/-- STREAM_REARM waits while a kernel uses its stream; where no persistent stream is armed it changes nothing (log 19). -/
def startRearm (r : Req) (n : Nat) (s : State) : State :=
  match rearmTarget s r with
  | none => finishFlight n 0 s
  | some (t, e, x) =>
    if !x.persistent then finishFlight n 0 s
    else if streamUsed s t e then updFlight n (fun f => { f with work := .rearm t e (num r.slot 72 8) }) s
    else finishFlight n 0 (rearmNow t e (rearmed s r x).2 s)

def execStreamRearm (queue : Nat) (s : State) : Res :=
  .next (dispatch queue (isOp 0x202) oneUj ownRearm startRearm s)

/-- The STREAM_REARMs whose stream no kernel uses any longer take effect. -/
def settleRearms (s : State) : State :=
  s.flights.foldl (fun s f => match f.work with
    | .rearm t e b =>
      match smFind (getTile s t).streams e with
      | none => finishFlight f.num 0 s
      | some x =>
        if streamUsed s t e then s else
        let a := armStream s false { x with
          base := if x.path = 2 then b else va48 b
          segs := [] }
        match a.1 with
        | .ok => finishFlight f.num 0 (rearmNow t e a.2 s)
        | .badAt st ad _ => finishFlight f.num st (updFlight f.num (fun f => { f with record := some ad }) s)
        | _ => finishFlight f.num 0 s
    | _ => s) s

end Sys2Proof.Machine
end

