-- ==== Sys2Proof/Machine/Rows.lean ====
section
/-! DEFINITION. Row records and state records of tables (06 R147 to R151, 07 R196), their values and requantisation
(R148, R198, 03 R75, R76), the optimisers (07 R194 to R197), and reading and writing a record in memory. -/

namespace Sys2Proof.Machine

/-! ### Slices and layouts -/

def sliceSize (t : Table) : Nat := ceilDiv t.elems t.gsize
def sliceFirst (t : Table) (j : Nat) : Nat := j * sliceSize t
/-- Elements of slice j; 0 where it would begin at or beyond E (R147). -/
def sliceLen (t : Table) (j : Nat) : Nat := min t.elems ((j + 1) * sliceSize t) - sliceFirst t j

/-- Block scales of a record of n elements (R148). -/
def rowBlocks (t : Table) (n : Nat) : Nat := if t.rowScale = 2 then ceilDiv n (blockSize t.block) else 0
/-- RECORD_BYTES (R149). -/
def recordBytes (t : Table) (n : Nat) : Nat :=
  64 * ceilDiv (16 + 16 * ceilDiv (rowBlocks t n) 16 + ceilDiv (n * formatBits t.format) 8) 64
/-- STATE_RECORD_BYTES of an Adam table (R196). -/
def stateBytes (t : Table) (n : Nat) : Nat :=
  if t.opt = 3 then 64 * ceilDiv (8 * ceilDiv n 64 + 2 * n) 64 else 0

/-- The layout of one version on this device (R147, R150, R175, R196). -/
structure Layout where
  first   : Nat            -- first element of a record
  n       : Nat            -- elements of a record
  row0    : Nat            -- first row held
  rows    : Nat            -- rows held
  dies    : Nat
  base    : Nat
  recB    : Nat
  slab    : Nat
  stB     : Nat
  stSlab  : Nat
  deriving DecidableEq, Repr

def partDieCount (s : State) (p : Nat) : Nat := match findPart s p with
  | some w => max 1 (partDies w).length
  | none => 1

/-- The layout of a version with this LAYOUT, OWNER_ROWS and BASE. -/
def layoutFor (s : State) (t : Table) (rowOwner : Bool) (ownerRows base : Nat) : Layout :=
  let d := partDieCount s t.partition
  let n := if rowOwner then t.elems else sliceLen t t.slice
  let row0 := if rowOwner then t.slice * ownerRows else 0
  let rows := if rowOwner then min t.rows ((t.slice + 1) * ownerRows) - row0 else if n = 0 then 0 else t.rows
  let slab (b : Nat) : Nat := roundUp (ceilDiv rows d * b) frameBytes
  { first := if rowOwner then 0 else sliceFirst t t.slice, n, row0, rows, dies := d, base,
    recB := recordBytes t n, slab := slab (recordBytes t n), stB := stateBytes t n, stSlab := slab (stateBytes t n) }

def layoutOf (s : State) (t : Table) (v : VSlot) : Layout := layoutFor s t v.rowOwner v.ownerRows v.base

def Layout.holds (l : Layout) (x : Nat) : Bool := l.row0 ≤ x && x < l.row0 + l.rows
/-- Partition-relative die of a row's record (R150). -/
def Layout.die (l : Layout) (x : Nat) : Nat := (x - l.row0) % l.dies
def Layout.recAddr (l : Layout) (x : Nat) : Nat := l.base + l.die x * l.slab + (x - l.row0) / l.dies * l.recB
def Layout.stAddr (l : Layout) (x : Nat) : Nat :=
  l.base + l.dies * l.slab + l.die x * l.stSlab + (x - l.row0) / l.dies * l.stB

/-! ### Codes and values -/

/-- Codes of a format as bytes, element 0 first, 4-bit codes low nibble first (R60). -/
def packCodes (fmt : Nat) (cs : List Nat) : List Byte :=
  match formatBits fmt with
  | 32 => cs.flatMap (le 4)
  | 16 => cs.flatMap (le 2)
  | 8 => cs.flatMap (le 1)
  | _ => (List.range (ceilDiv cs.length 2)).flatMap fun i => le 1 (cs.getD (2 * i) 0 % 16 + 16 * (cs.getD (2 * i + 1) 0 % 16))

/-- A row record apart from its state (R148). -/
structure RowRec where
  scale : Nat := 0x3F800000
  zp    : Nat := 0
  bscale : List Byte := []
  codes : List Byte := []
  deriving DecidableEq, Repr

def recDataOff (t : Table) (n : Nat) : Nat := 16 + 16 * ceilDiv (rowBlocks t n) 16

def parseRec (t : Table) (n : Nat) (b : List Byte) : RowRec :=
  { scale := num b 0 4, zp := num b 4 2, bscale := slice b 16 (rowBlocks t n),
    codes := slice b (recDataOff t n) (rowBytes t.format n) }

/-- The record's bytes with its optimiser state byte and LAST_BEAT. -/
def encodeRec (t : Table) (n : Nat) (r : RowRec) (opt beat : Nat) : List Byte :=
  patch (patch (rec_ (recordBytes t n) [(0, 4, r.scale), (4, 2, r.zp), (6, 1, opt), (8, 8, beat)]) 16 r.bscale)
    (recDataOff t n) r.codes

def fOne : FVal := .fin false 1 0

/-- The represented value of element i, one rounding to FP32 (R148, R172). -/
def recVal (t : Table) (r : RowRec) (i : Nat) : FVal :=
  let c := codeAt r.codes t.format i
  let v := decodeEl t.format c
  if t.rowScale = 1 then
    let d := if t.zpEn then (subF v (ofInt (signedOf 16 r.zp))).1 else v
    (r32 (mulF d (fmtFp32.decode r.scale))).1
  else if t.rowScale = 2 then
    (r32 (mulF v (decodeE8m0 ((r.bscale.getD (i / blockSize t.block) 0).toNat)))).1
  else (r32 (v, 0)).1

def recVals (t : Table) (n : Nat) (r : RowRec) : List FVal := (List.range n).map (recVal t r)

/-! ### Requantisation (R198) -/

/-- A derived scale code of a kind for a format; R75 has no row for the 16- and 32-bit formats: a free value (log 20). -/
def rowDerive (fmt : Nat) (k : ScaleFmt) (a : FVal) : Nat × Bool :=
  if fmt ≤ 2 then (if k == .e8m0 then (Config.unstated 20 (BitVec.ofNat 32 fmt) (pack32 a).1).toNat % 256
    else (Config.unstated 21 (BitVec.ofNat 32 fmt) (pack32 a).1).toNat, false)
  else derive fmt k a

/-- Codes of a group at a scale, all 0 for a constant channel (R76), and whether each saturated. -/
def groupConvs (fmt : Nat) (sc : Nat × Bool) (k : ScaleFmt) (vs : List FVal) : List (Nat × Bool) :=
  vs.map fun v => if sc.2 then (0, false) else
    let r := convScaled fmt true false v (scaleVal k sc.1)
    (r.code, r.sat)

def groupCodes (fmt : Nat) (sc : Nat × Bool) (k : ScaleFmt) (vs : List FVal) : List Nat :=
  (groupConvs fmt sc k vs).map (·.1)

/-- Largest and smallest finite value of a group; none where no value is finite. -/
def finiteRange (vs : List FVal) : Option (FVal × FVal) :=
  (vs.filter isFin).foldl (fun a v => match a with
    | none => some (v, v)
    | some (hi, lo) => some (if ltF hi v then v else hi, if ltF v lo then v else lo)) none

/-- An FP32 scale with the raise of R75: a quotient that rounds to zero becomes ±2^−149. -/
def raisedScale (v : FVal) : Nat :=
  match v with
  | .fin neg m e => clipScale .fp32 m e + (if neg then 2 ^ 31 else 0)
  | _ => fmtFp32.maxCode false

/-- round(Qmin − min ÷ scale), formed exactly and rounded once (R75). -/
def zeroPoint (qmin : Int) (lo sc : FVal) : Int :=
  match lo, sc with
  | .fin n m e, .fin _ m' e' =>
    let b := alignInt false m' e' (min e e')
    roundQuot false (qmin * b - alignInt n m e (min e e')) b.toNat
  | _, _ => qmin

/-- The code of a value under the asymmetric rule, and whether it was clipped to the range (R75). -/
def asymCode (fmt : Nat) (sv : FVal) (zp : Int) (v : FVal) : Nat × Bool :=
  let rg := intRange fmt
  let q := (convInt false (-(2 ^ 31)) (2 ^ 31 - 1) (divF v sv).1).1 + zp
  if isNan v then (0, false) else (unsignedOf (formatBits fmt) (max rg.1 (min rg.2 q)), decide (q < rg.1) || decide (rg.2 < q))

/-- The asymmetric rule of R75 and R76 for INT8 and UINT8: scale, zero point, and codes with their saturations. DESIGN CHOICE (log 91): a group
with no finite value has neither max nor min and is taken as a constant channel of 0. -/
def asymRec (fmt : Nat) (vs : List FVal) : Nat × Int × List (Nat × Bool) :=
  let rg := intRange fmt
  match finiteRange vs with
  | none => (0x3F800000, 0, vs.map fun _ => (0, false))
  | some (hi, lo) =>
    if eqF hi lo then
      if isZero hi then (0x3F800000, 0, vs.map fun _ => (0, false))
      else (raisedScale (divF hi (.fin false 127 0)).1, 0, vs.map fun _ => (127, false))
    else
      let sc := raisedScale (divF (subF hi lo).1 (.fin false 255 0)).1
      let sv := fmtFp32.decode sc
      let zp := max rg.1 (min rg.2 (zeroPoint rg.1 lo sv))
      (sc, zp, vs.map (asymCode fmt sv zp))

/-- Requantise the values of a record: the record, and whether a code saturated (R198). -/
def requantiseSat (t : Table) (vs : List FVal) : RowRec × Bool :=
  let pack (c : List (Nat × Bool)) : List Byte := packCodes t.format (c.map (·.1))
  let sat (c : List (Nat × Bool)) : Bool := c.any (·.2)
  if t.rowScale = 0 then
    let c := vs.map fun v => let r := convTo t.format true false v; (r.code, r.sat)
    ({ codes := pack c }, sat c)
  else if t.rowScale = 1 then
    if t.zpEn then
      let a := asymRec t.format vs
      ({ scale := a.1, zp := unsignedOf 16 a.2.1, codes := pack a.2.2 }, sat a.2.2)
    else
      let sc := rowDerive t.format .fp32 (groupMax t.format vs)
      let c := groupConvs t.format sc .fp32 vs
      ({ scale := sc.1, codes := pack c }, sat c)
  else
    let k := blockSize t.block
    let groups := (List.range (rowBlocks t vs.length)).map fun i => (vs.drop (i * k)).take k
    let scs := groups.map fun g => rowDerive t.format .e8m0 (groupMax t.format g)
    let c := (groups.zip scs).flatMap fun g => groupConvs t.format g.2 .e8m0 g.1
    ({ bscale := scs.map fun c => BitVec.ofNat 8 c.1, codes := pack c }, sat c)

def requantise (t : Table) (vs : List FVal) : RowRec := (requantiseSat t vs).1

/-! ### Optimiser state -/

/-- OPT_ROW and the state record's bytes of one slice. -/
structure RowState where
  opt : Nat := 0
  st  : List Byte := []
  deriving DecidableEq, Repr

def zeroState (t : Table) (n : Nat) : RowState := { opt := 0, st := zeros (stateBytes t n) }

/-- A moment: INT8 or UINT8 code times its block's FP32 scale (R196). -/
def stM (n : Nat) (b : List Byte) (i : Nat) : FVal :=
  let nb := ceilDiv n 64
  (r32 (mulF (ofInt (signedOf 8 (num b (8 * nb + i) 1))) (fmtFp32.decode (num b (4 * (i / 64)) 4)))).1
def stV (n : Nat) (b : List Byte) (i : Nat) : FVal :=
  let nb := ceilDiv n 64
  (r32 (mulF (ofInt (num b (8 * nb + n + i) 1)) (fmtFp32.decode (num b (4 * nb + 4 * (i / 64)) 4)))).1

/-- Moments requantised per block of 64 (R197). -/
def momentCodes (fmt : Nat) (vs : List FVal) : List Nat × List Nat :=
  let groups := (List.range (ceilDiv vs.length 64)).map fun i => (vs.drop (i * 64)).take 64
  let scs := groups.map fun g => derive fmt .fp32 (groupMax fmt g)
  (scs.map (·.1), (groups.zip scs).flatMap fun g => groupCodes fmt g.2 .fp32 g.1)

def packMoments (t : Table) (ms vs : List FVal) : List Byte :=
  let m := momentCodes 5 ms
  let v := momentCodes 6 vs
  patch (zeros (stateBytes t ms.length)) 0
    (m.1.flatMap (le 4) ++ v.1.flatMap (le 4) ++ m.2.flatMap (le 1) ++ v.2.flatMap (le 1))

/-! ### Optimisers (R194, R195) -/

/-- The words of the parameter block an apply reads (R183). -/
structure OptParams where
  lr : FVal
  eps : FVal
  beta1 : FVal
  beta2 : FVal
  wd : FVal
  step : Nat
  deriving DecidableEq, Repr

def parseParams (b : List Byte) : OptParams :=
  let f (o : Nat) : FVal := fmtFp32.decode (num b o 4)
  { lr := f 0, eps := f 4, beta1 := f 8, beta2 := f 12, wd := f 16, step := num b 24 8 }

def mul32x (a b : FVal) : FVal := (r32 (mulF a b)).1
def div32x (a b : FVal) : FVal := (r32 (divF a b)).1
def sqrt32x (a : FVal) : FVal := (r32 (sqrtF a)).1

def fmtFp64 : Fmt := ⟨11, 52, 1023, true, true⟩

/-- 1 − βᵗ in FP64, rounded to FP32; outside 0 ≤ β ≤ 1 the spec states no value (log 20). -/
def biasCorr (beta : FVal) (t : Nat) : FVal :=
  match beta with
  | .fin false m e =>
    if m = 0 then fOne
    else if ltF fOne beta then f32 (Config.unstated 22 (pack32 beta).1 (BitVec.ofNat 32 t))
    else
      let x := fxLn m e * t
      let r := fxExp x
      let p : FVal := if r.2 < -2000 then .fin false 0 0 else fmtFp64.decode (fmtFp64.pack (fxVal r.1 r.2)).1
      (r32 (fmtFp64.decode (fmtFp64.pack (subF fOne p).1).1, 0)).1
  | _ => f32 (Config.unstated 22 (pack32 beta).1 (BitVec.ofNat 32 t))

/-- The row-wise accumulator of a code: 2^((c − 128) ÷ 8) in FP32 (R195). -/
def adagradVal (c : Nat) : FVal :=
  if c = 0 then .fin false 0 0
  else
    let x : Int := (c : Int) - 128
    (r32 (fxVal (fxExpSmall (fxLn2 * (x % 8) / 8)) (x / 8), 0)).1

/-- The code of an accumulator with its dither (R195). -/
def adagradCode (table row beat : Nat) (a : FVal) : Nat :=
  match a with
  | .fin _ m e =>
    if m = 0 then 0
    else
      let u := crc32c (le 2 table ++ le 6 row ++ le 8 beat)
      let x := 8 * fxLn m e * fxOne / fxLn2 + 128 * fxOne + (u : Int) * (fxOne / 2 ^ 32)
      (max 1 (min 255 (x / fxOne))).toNat
  | _ => 255

/-- One optimiser step on a slice: values, gradient, state (R194). -/
def optimise (t : Table) (table row beat : Nat) (p : OptParams) (c1 c2 : FVal) (w g : List FVal) (st : RowState) :
    List FVal × RowState :=
  let n := w.length
  let decay := (g.zip w).map fun x => add32x x.1 (mul32x p.wd x.2)
  match t.opt with
  | 1 => ((w.zip decay).map fun x => sub32x x.1 (mul32x p.lr x.2), st)
  | 2 =>
    let sq := decay.foldl (fun a x => add32x a (mul32x x x)) (.fin false 0 0)
    let a := add32x (adagradVal st.opt) (div32x sq (ofInt n))
    let d := add32x (sqrt32x a) p.eps
    ((w.zip decay).map fun x => sub32x x.1 (div32x (mul32x p.lr x.2) d), { st with opt := adagradCode table row beat a })
  | 3 =>
    let i1 := sub32x fOne p.beta1
    let i2 := sub32x fOne p.beta2
    let step := (w.zip g).zipIdx.map fun x =>
      let m := add32x (mul32x p.beta1 (stM n st.st x.2)) (mul32x i1 x.1.2)
      let v := add32x (mul32x p.beta2 (stV n st.st x.2)) (mul32x i2 (mul32x x.1.2 x.1.2))
      let d := div32x (div32x m c1) (add32x (sqrt32x (div32x v c2)) p.eps)
      (sub32x x.1.1 (mul32x p.lr (add32x d (mul32x p.wd x.1.1))), m, v)
    (step.map (·.1), { st with st := packMoments t (step.map (·.2.1)) (step.map (·.2.2)) })
  | _ => (w, st)

/-! ### Records in memory -/

def readRecord (s : State) (t : Table) (l : Layout) (x : Nat) : List Byte := (readVa s t.context (l.recAddr x) l.recB).data
def readState (s : State) (t : Table) (l : Layout) (x : Nat) : List Byte :=
  if l.stB = 0 then [] else (readVa s t.context (l.stAddr x) l.stB).data

/-- The represented values and the state of a row. -/
def rowNow (s : State) (t : Table) (l : Layout) (x : Nat) : List FVal × RowState :=
  let b := readRecord s t l x
  (recVals t l.n (parseRec t l.n b), { opt := num b 6 1, st := readState s t l x })

/-- Write a record and its state; `n`: the flight that notes what the accesses met. -/
def writeRow (n : Option Nat) (t : Table) (l : Layout) (x beat : Nat) (r : RowRec) (st : RowState) (s : State) : State :=
  let note (a : Acc) (s : State) : State := match n with
    | some k => noteAcc k true a s
    | none => s
  let a := writeVa t.context (l.recAddr x) (encodeRec t l.n r st.opt beat) s
  let s := note a.2 a.1
  if l.stB = 0 then s else
  let b := writeVa t.context (l.stAddr x) (slice st.st 0 l.stB) s
  note b.2 b.1

/-- Put part of a row's values, with its state, into a version's record: the elements [first, first + values) that the
record holds change, the others stay (R178). -/
def mergeRow (s : State) (t : Table) (l : Layout) (x first : Nat) (vs : List FVal) (srcN : Nat) (src : RowState) :
    List FVal × RowState :=
  let old := rowNow s t l x
  let pos (i : Nat) : Nat := l.first + i
  let has (i : Nat) : Bool := first ≤ pos i && pos i < first + vs.length
  let w := old.1.zipIdx.map fun v => if has v.2 then vs.getD (pos v.2 - first) v.1 else v.1
  let st : List Byte := if l.stB = 0 then []
    -- a state record of exactly this part is taken as it is (07 R185)
    else if first = l.first && vs.length = l.n && srcN = l.n then src.st
    else packMoments t
      ((List.range l.n).map fun i => if has i then stM srcN src.st (pos i - first) else stM l.n old.2.st i)
      ((List.range l.n).map fun i => if has i then stV srcN src.st (pos i - first) else stV l.n old.2.st i)
  (w, { opt := if first ≤ l.first then src.opt else old.2.opt, st })

end Sys2Proof.Machine
end

