-- ==== Sys2Proof/Machine/Tables.lean ====
section
/-! DEFINITION. Table commands (06 R144 to R160, R175 to R178, 11 R310): creating, loading, preparing, committing and
retiring versions; what steps 5 and 6 of a beat do to tables (02 R50). -/

namespace Sys2Proof.Machine

/-! ### Descriptors (R146, R181) -/

/-- A descriptor from its bytes 0 to 63 with its clamps. -/
def parseTable (s : State) (part : Nat) (b : List Byte) : Table :=
  let fmt := clampFormat (num b 18 1 % 16)
  let rs := min 2 (bits (num b 18 1) 5 4)
  let g := clampN 1 64 (num b 22 1)
  let u := num b 48 1
  { partition := part, context := num b 4 2, colgroup := num b 6 2, rows := clampN 1 (2 ^ 40) (num b 8 8 % 2 ^ 41)
    elems := clampN 4 4096 (num b 16 2), format := fmt, rowScale := rs
    zpEn := bit (num b 18 1) 6 && (fmt = 5 || fmt = 6) && rs = 1, block := min 5 (num b 19 1 % 8)
    gsize := g, slice := min (g - 1) (num b 23 1), hotShift := clampN 4 24 (num b 24 1), nullCount := 0
    opt := u % 4, discard := bit u 2, granule := bit u 3, vtarget := bit u 4
    cutoff := clampN 1 (min 255 (s.beat.periodUs / 2)) (num b 49 1), paramAddr := va48 (num b 56 8) / 64 * 64
    cur := {}, pend := {}, retir := {}, destroy := false, destroyFence := none, unserved := false }

/-- The expert bits of UCTRL take their defaults with LEVEL 0 (R181, 11 R298). -/
def tableOfReq (s : State) (r : Req) : Table :=
  let t := parseTable s (r.part.getD 0) (r.slot.drop 64)
  if r.level then t else { t with
    discard := false
    granule := false
    vtarget := false }

def vstateCode : VState → Nat
  | .empty => 0
  | .loading => 1
  | .prepared => 2
  | .current => 3
  | .retiring => 4
  | .draining => 5

/-- The 40 bytes of a version slot (R152). -/
def slotBytes (v : VSlot) : List Byte :=
  rec_ 40 [(0, 2, v.version), (2, 1, vstateCode v.st), (3, 1, b2n v.rowOwner), (4, 4, v.recBytes), (8, 8, v.base),
    (16, 8, v.beat), (24, 8, v.ownerRows), (32, 8, v.slabBytes)]

/-- The 192 bytes of a descriptor (R146, R152). -/
def tableBytes (id : Nat) (t : Table) : List Byte :=
  rec_ 64 [(0, 2, id), (2, 1, t.partition), (3, 1, 1), (4, 2, t.context), (6, 2, t.colgroup), (8, 8, t.rows),
    (16, 2, t.elems), (18, 1, t.format + 16 * t.rowScale + 64 * b2n t.zpEn), (19, 1, t.block), (20, 2, sliceSize t),
    (22, 1, t.gsize), (23, 1, t.slice), (24, 1, t.hotShift), (32, 8, t.nullCount),
    (48, 1, t.opt + 4 * b2n t.discard + 8 * b2n t.granule + 16 * b2n t.vtarget), (49, 1, t.cutoff), (56, 8, t.paramAddr)] ++
  slotBytes t.cur ++ slotBytes t.pend ++ slotBytes t.retir ++ zeros 8

/-- An EMPTY slot, with the beat of the transition that emptied it (R152). -/
def emptyAt (beat : Nat) : VSlot := { beat }

def isEmptyV (v : VSlot) : Bool := v.st == .empty
def readableV (v : VSlot) : Bool := v.st == .current || v.st == .retiring

/-- The readable slot that holds a version (R160). -/
def readableSlot (t : Table) (ver : Nat) : Option VSlot :=
  if readableV t.cur && t.cur.version = ver then some t.cur
  else if readableV t.retir && t.retir.version = ver then some t.retir else none

/-- A table named by a command exists (R310). -/
def tableExists (s : State) (r : Req) : Verdict :=
  match opTable r.op r.slot with
  | some t => need (findTable s t).isSome stTableInvalid
  | none => .ok

/-! ### TABLE_CREATE (R145) -/

def tabId (r : Req) : Nat := num r.slot 64 2 % 4096

/-- A free ID, and a PARTITION that is the one the command acts for (log 98). -/
def ownCreate (s : State) (r : Req) : Verdict :=
  firstBad [need (some (num r.slot 66 1 % 16) == r.part) stTableNotOwned, need (findTable s (tabId r)).isNone stTableIdInUse]

def createTable (r : Req) (s : State) : State :=
  updTables (fun x => { x with tab := smSet x.tab (tabId r) (tableOfReq s r) }) s

def execTableCreate (queue : Nat) (s : State) : Res :=
  .next (dispatch queue (isOp 0x300) oneUj ownCreate
    (startNow createTable fun s r => sliceSize (tableOfReq s r)) s)

/-! ### TABLE_LOAD (R154, R178, R200) -/

structure LoadForm where
  table : Nat
  version : Nat
  rowOwner : Bool
  kind : Nat
  base : Nat
  ownerRows : Nat
  first : Nat
  rows : Nat
  src : Nat
  stride : Nat
  xwindow : Nat
  scales : Nat
  deriving DecidableEq, Repr

def loadForm (r : Req) : LoadForm :=
  let b := r.slot
  { table := num b 64 2 % 4096, version := num b 66 2, rowOwner := bit (num b 68 1) 0, kind := min 3 (num b 69 1)
    base := pAddr b 72 / frameBytes * frameBytes, ownerRows := num b 80 8 % 2 ^ 41, first := num b 88 8, rows := num b 96 8
    src := num b 104 8, stride := num b 112 4, xwindow := num b 116 2 % 4096, scales := pAddr b 120 }

/-- The PENDING slot that a load opens (R153, R175). -/
def openSlot (s : State) (t : Table) (f : LoadForm) : VSlot :=
  let orows := if f.rowOwner then max (ceilDiv t.rows t.gsize) f.ownerRows else 0
  let l := layoutFor s t f.rowOwner orows f.base
  { version := f.version, st := .loading, rowOwner := f.rowOwner, recBytes := l.recB, base := f.base, beat := beatNo s
    ownerRows := orows, slabBytes := l.slab, edge := s.beat.edges, rfence := none
    tracking := f.kind = 3 && t.cur.st == .current && f.src % 65536 = t.cur.version }

/-- The PENDING slot the load writes: the open one, or the one it opens. -/
def loadSlot (s : State) (t : Table) (f : LoadForm) : VSlot := if t.pend.st == .empty then openSlot s t f else t.pend

/-- The rows of the command that this device holds in a layout. -/
def loadRows (l : Layout) (f : LoadForm) : List Nat :=
  let lo := max l.row0 f.first
  let hi := min (l.row0 + l.rows) (f.first + f.rows)
  (List.range (hi - lo)).map (· + lo)

def srcStride (t : Table) (f : LoadForm) : Nat := if f.stride = 0 then rowBytes t.format t.elems else f.stride

/-- Source rows of kinds 1 and 2: context and address of row FIRST_ROW. -/
def loadSrc (s : State) (r : Req) (f : LoadForm) : Option (Nat × Nat) :=
  if f.kind = 1 then some (r.ctx, va48 f.src)
  else if f.kind = 2 then (smFind s.mem.windows (f.src % 4096)).map fun w => (w.context, w.base)
  else none

/-- Bytes of one SCALES entry: the header of a slice record (log 21). -/
def scaleEntry (t : Table) (l : Layout) : Nat := recDataOff t l.n

/-- Ranges of records and states that a load writes must be mapped with WRITE. -/
def rowRangesOk (s : State) (t : Table) (l : Layout) (rows : List Nat) (wait : Bool) : Verdict :=
  firstBad ((List.range l.dies).flatMap fun d =>
    let xs := rows.filter fun x => l.die x = d
    match xs.head?, xs.getLast? with
    | some a, some z =>
      [rangeOk s t.context (l.recAddr a) (l.recAddr z + l.recB - l.recAddr a) false true wait,
       if l.stB = 0 then .ok else rangeOk s t.context (l.stAddr a) (l.stAddr z + l.stB - l.stAddr a) false true wait]
    | _, _ => [])

def ownLoad (s : State) (r : Req) : Verdict :=
  let f := loadForm r
  let w := hWaitMap r.slot
  match findTable s f.table with
  | none => .bad stTableInvalid
  | some t =>
    let l := layoutOf s t (loadSlot s t f)
    let rows := loadRows l f
    firstBad [
      need (t.pend.st != .prepared && (t.pend.st == .empty || t.pend.version = f.version)) stVersionSlotBusy,
      if f.kind = 3 then need (readableSlot t (f.src % 65536)).isSome stVersionUnavailable else .ok,
      if f.rows = 0 then .ok else firstBad [
        match loadSrc s r f with
        | some (c, a) => rangeOk s c a (matSpan f.rows (srcStride t f) (rowBytes t.format t.elems)) true false w
        | none => if f.kind = 2 then .badAt stUnmapped 0 false else .ok,
        if f.scales = 0 then .ok else rangeOk s r.ctx f.scales (f.rows * scaleEntry t l) true false w,
        rowRangesOk s t l rows w],
      -- R200: a copy that meets an apply window on the table waits for its end
      if f.kind = 3 && s.tables.windows.any (fun x => x.2.tables.contains f.table) then .snoop [] else .ok]

/-- The header fields of row i of a load: SCALE, ZP and BSCALE (log 21). -/
def loadHeader (s : State) (r : Req) (t : Table) (l : Layout) (f : LoadForm) (i : Nat) : RowRec :=
  let nb := rowBlocks t l.n
  if f.scales = 0 then { scale := 0x3F800000, zp := 0, bscale := List.replicate nb 0x7F }
  else
    let b := (readVa s r.ctx (f.scales + i * scaleEntry t l) (scaleEntry t l)).data
    let rg := intRange t.format
    { scale := if t.rowScale = 1 then num b 0 4 else 0x3F800000
      zp := if t.zpEn then unsignedOf 16 (max rg.1 (min rg.2 (signedOf 16 (num b 4 2)))) else 0
      bscale := slice b 16 nb }

/-- The slice's codes out of a whole row. -/
def sliceCodes (t : Table) (l : Layout) (row : List Byte) : List Byte :=
  packCodes t.format ((List.range l.n).map fun i => codeAt row t.format (l.first + i))

/-- Write the rows of kinds 0 to 2. -/
def loadDense (n : Nat) (r : Req) (t : Table) (l : Layout) (f : LoadForm) (host : List Byte) (s : State) : State :=
  (loadRows l f).foldl (fun s x =>
    let i := x - f.first
    let a : Acc := match loadSrc s r f with
      | some (c, a) => readVa s c (a + i * srcStride t f) (rowBytes t.format t.elems)
      | none => { data := slice host (i * srcStride t f) (rowBytes t.format t.elems) }
    let h := loadHeader s r t l f i
    writeRow (some n) t l x (beatNo s) { h with codes := sliceCodes t l a.data } (zeroState t l.n) (noteAcc n false a s)) s

/-- An update entry's 64-byte header and payload (07 R184). -/
structure EntryForm where
  table : Nat
  row : Nat
  kind : Nat
  stamp : Nat
  dev : Nat
  src : Nat
  version : Nat
  pformat : Nat
  eflags : Nat
  beat : Nat
  first : Nat
  nelems : Nat
  pos : Nat
  payload : List Byte
  deriving DecidableEq, Repr

def padTo (k : Nat) (b : List Byte) : List Byte := slice b 0 (roundUp b.length k)

def entryBytes (e : EntryForm) : List Byte :=
  rec_ 64 [(0, 8, e.row + 2 ^ 40 * e.table + 2 ^ 52 * e.kind), (8, 8, e.stamp), (16, 2, e.dev), (18, 2, e.src),
    (20, 2, e.version), (22, 1, e.pformat), (23, 1, e.eflags), (24, 8, e.beat), (32, 4, e.first), (36, 4, e.nelems),
    (40, 4, e.pos)] ++ padTo 64 e.payload

/-- A payload with STATE_INCLUDED: FP32 values, OPT_ROW, padding to 64 B, the state record (R185). -/
def statePayload (vs : List FVal) (st : RowState) : List Byte :=
  padTo 64 (vs.flatMap (fun v => le 4 (pack32 v).1.toNat) ++ [BitVec.ofNat 8 st.opt]) ++ st.st

/-- The devices of a table's column group with their positions. -/
def colDevices (s : State) (t : Table) : List (Nat × Nat) :=
  if t.colgroup = 0xFFFF then [(deviceNo s, t.slice)]
  else (cfgColgroup s.net.group.config t.colgroup).zipIdx.map fun d => (d.1, d.2)

/-- The part of a row that position j holds in a layout: first element and count; none where it holds no part. -/
def partOf (t : Table) (v : VSlot) (x j : Nat) : Option (Nat × Nat) :=
  if v.rowOwner then
    if j * v.ownerRows ≤ x && x < min t.rows ((j + 1) * v.ownerRows) then some (0, t.elems) else none
  else if sliceLen t j = 0 then none else some (sliceFirst t j, sliceLen t j)

/-- The state record of elements [lo, lo + k) of a slice, as the receiver assembles it. -/
def cutState (t : Table) (n lo k : Nat) (st : RowState) : RowState :=
  if t.opt = 3 && lo = 0 && k = n then st
  else if t.opt = 3 then
    { st with st := packMoments t ((List.range k).map fun i => stM n st.st (lo + i)) ((List.range k).map fun i => stV n st.st (lo + i)) }
  else { st with st := [] }

/-- Write part of a row into a version's record, requantised (R178, R198). -/
def putPart (n : Option Nat) (t : Table) (v : VSlot) (x first beat : Nat) (vs : List FVal) (st : RowState) (s : State) : State :=
  let l := layoutOf s t v
  if !l.holds x then s else
  let m := mergeRow s t l x first vs vs.length st
  writeRow n t l x beat (requantise t m.1) m.2 s

/-- Copy rows between versions of a table, on this device and into the XWINDOWs of the others (R178). -/
def loadCopy (n : Nat) (t : Table) (src dst : VSlot) (f : LoadForm) (s : State) : State :=
  let ls := layoutOf s t src
  let same := src.rowOwner == dst.rowOwner && src.ownerRows = dst.ownerRows
  (loadRows ls f).foldl (fun s x =>
    let row := rowNow s t ls x
    if same then
      let b := readRecord s t ls x
      -- only the copy of 07 R200 takes the optimiser's state with it (R148, 07 R196)
      writeRow (some n) t (layoutOf s t dst) x (beatNo s) (parseRec t ls.n b)
        (if dst.tracking then row.2 else zeroState t ls.n) s
    else
      (colDevices s t).foldl (fun s d =>
        match partOf t dst x d.2 with
        | none => s
        | some (pf, pn) =>
          let lo := max pf ls.first
          let hi := min (pf + pn) (ls.first + ls.n)
          if hi ≤ lo then s else
          let vs := (row.1.drop (lo - ls.first)).take (hi - lo)
          let st := cutState t ls.n (lo - ls.first) (hi - lo) row.2
          if d.1 = deviceNo s then putPart (some n) t dst x lo (beatNo s) vs st s
          else if !reachable s d.1 then updFlight n (fun w => { w with status := if w.status = 0 then stNetUnreachable else w.status }) s
          else
            let e : EntryForm := {
              table := f.table, row := x, kind := 3, stamp := now s, dev := deviceNo s, src := srcCmd, version := dst.version
              pformat := 0, eflags := 2, beat := beatNo s, first := lo, nelems := hi - lo, pos := 0, payload := statePayload vs st }
            sendMsg d.1 { type := tyWrite, part := some t.partition, context := t.context, window := f.xwindow, flight := some n,
                          payload := entryBytes e }
              (updFlight n (fun w => { w with msgs := w.msgs + 1 }) s)) s) s

/-- Bytes of host memory a load of kind 0 reads, for the meter and the request seen outside. -/
def loadHostRead (r : Req) (t : Table) (f : LoadForm) (s : State) : State :=
  if f.kind = 0 && f.rows != 0 then
    let n := matSpan f.rows (srcStride t f) (rowBytes t.format t.elems)
    meterHost (r.part.getD devPart) n
      (updOut (fun o => { o with hostReads := o.hostReads ++ [(reqFunc s r.queue, f.src, n)] }) s)
  else s

def startLoad (host : List Byte) (r : Req) (n : Nat) (s : State) : State :=
  let f := loadForm r
  match findTable s f.table with
  | none => finishFlight n stTableInvalid s
  | some t =>
    let v := loadSlot s t f
    let s := updTable f.table (fun t => { t with pend := v }) s
    let s := updFlight n (fun w => { w with echo := v.recBytes % 2 ^ 24 }) s
    if f.rows = 0 then finishFlight n 0 s
    else if f.kind = 3 then
      match readableSlot t (f.src % 65536) with
      | none => finishFlight n stVersionUnavailable s
      | some src =>
        let s := loadCopy n t src v f s
        match findFlight s n with
        | some w => if w.msgs = 0 then finishFlight n 0 s else updFlight n (fun w => { w with work := .net }) s
        | none => s
    else finishFlight n 0 (loadDense n r t (layoutOf s t v) f host (loadHostRead r t f s))

/-- Bytes of the copy entries a load between devices sends (R178). -/
def copyEntryBytes (s : State) (t : Table) (src dst : VSlot) (f : LoadForm) : Nat :=
  let ls := layoutOf s t src
  if src.rowOwner == dst.rowOwner && src.ownerRows = dst.ownerRows then 0 else
  (loadRows ls f).foldl (fun n x => (colDevices s t).foldl (fun n d =>
    match partOf t dst x d.2 with
    | none => n
    | some (pf, pn) =>
      let k := min (pf + pn) (ls.first + ls.n) - max pf ls.first
      if d.1 = deviceNo s || k = 0 then n else n + 64 + roundUp (4 * k + 1) 64 + stateBytes t k) n) 0

/-- The charge of a load: whole records at the long-path rate from the device, at the host-link rate from outside, and
the copy entries it sends (12 R328). -/
def loadCharge (s : State) (r : Req) : Nat :=
  let f := loadForm r
  match findTable s f.table with
  | none => 1
  | some t =>
    let v := loadSlot s t f
    let l := layoutOf s t v
    let own := byteCharge ((loadRows l f).length * l.recB) (if f.kind = 1 || f.kind = 3 then 30 else 15)
    let sent := match readableSlot t (f.src % 65536) with
      | some src => if f.kind = 3 then byteCharge (copyEntryBytes s t src v f) 15 else 0
      | none => 0
    max 1 (own + sent)

def execTableLoad (queue : Nat) (hostRows : List Byte) (s : State) : Res :=
  .next (dispatch queue (isOp 0x301) loadCharge ownLoad (startLoad hostRows) s)

/-! ### Freeing versions (R153, R157, R159) -/

/-- A gather that resolved this version still runs, on this device or for another (R174). -/
def gatherOn (s : State) (table version : Nat) : Bool :=
  (s.flights.any fun f => f.done.isNone && match f.work with
    | .gather g => g.features.any fun x => x.table = table && x.version = version
    | _ => false) ||
  s.tables.served.any fun w => !w.done && w.features.any fun x => x.2.table = table && x.2.version = version

def signalOpt (o : Option (Nat × Nat)) (s : State) : State := match o with
  | some (f, v) => fenceRaise false f v s
  | none => s

/-- A table marked DESTROY goes once every slot is EMPTY; its retire fence is signalled. -/
def destroyIfEmpty (id : Nat) (s : State) : State :=
  match findTable s id with
  | none => s
  | some t =>
    if t.destroy && isEmptyV t.cur && isEmptyV t.pend && isEmptyV t.retir then
      signalOpt t.destroyFence (updTables (fun x => { x with
        tab := smDel x.tab id
        entries := x.entries.filter fun e => e.table != id }) s)
    else s

/-- A DRAINING version whose last gather has ended becomes EMPTY: VERSION_FREED and the retire fence. -/
def freeDrained (id : Nat) (s : State) : State :=
  match findTable s id with
  | none => s
  | some t =>
    if t.retir.st == .draining && !gatherOn s id t.retir.version then
      let s := emit srcCmd evVersionFreed t.partition [(20, 2, id), (22, 2, t.retir.version)] s
      let s := updTable id (fun t => { t with retir := emptyAt (beatNo s) }) s
      destroyIfEmpty id (signalOpt t.retir.rfence s)
    else s

def freeAllDrained (s : State) : State := (smKeys s.tables.tab).foldl (fun s i => freeDrained i s) s

/-! ### Prepare (R151, R155) -/

def segDie (g : Seg) : Nat := stackOf g.pa / 4
def segDieEnd (g : Seg) : Nat := stackOf (g.pa + g.len - 1) / 4

/-- R151 for one slab: mapped, on its own die, in at most 8 segments. -/
def slabOk (s : State) (c va n die : Nat) : Verdict :=
  if n = 0 then .ok else
  match checkRange s c va n false false with
  | some (st, a) => .badAt st a false
  | none =>
    let l := joinSegs (segments s c va n)
    firstBad [need (l.all fun g => segDie g = die && segDieEnd g = die) stTableWrongDie,
      match l[8]? with
      | some g => .badAt stStreamFragmented (va + g.off) false
      | none => .ok]

def slabsOk (s : State) (t : Table) (v : VSlot) : Verdict :=
  let l := layoutOf s t v
  let dies := match findPart s t.partition with
    | some p => partDies p
    | none => []
  firstBad (dies.zipIdx.flatMap fun d =>
    [slabOk s t.context (l.base + d.2 * l.slab) l.slab d.1,
     slabOk s t.context (l.base + l.dies * l.slab + d.2 * l.stSlab) l.stSlab d.1])

/-- A verdict's status with the address it names. -/
def verdictStatus : Verdict → Nat × Option Nat
  | .ok => (0, none)
  | .bad st => (st, none)
  | .badAt st a _ => (st, some a)
  | .snoop _ => (0, none)

/-- End a command that waited for a beat. -/
def finishArmed (n : Option Nat) (v : Nat × Option Nat) (s : State) : State := match n with
  | none => s
  | some n => finishFlight n v.1 (updFlight n (fun f => { f with record := match v.2 with
      | some a => some a
      | none => f.record }) s)

def usesVersion (v : VSlot) (n : Nat) : Bool := v.st != .empty && v.version = n

/-- Step 5 of R50 for one prepare. -/
def doPrepare (a : Armed) (s : State) : State :=
  match findTable s a.table with
  | none => finishArmed a.flight (stTableInvalid, none) s
  | some t =>
    if !(t.pend.st == .loading && t.pend.version = a.version) then finishArmed a.flight (stVersionUnavailable, none) s
    else
      match firstBad [slabsOk s t t.pend, need (!usesVersion t.cur a.version && !usesVersion t.retir a.version) stVersionInUse] with
      | .ok =>
        let s := updTable a.table (fun t => { t with pend := { t.pend with st := .prepared, beat := a.beat, edge := s.beat.edges } }) s
        finishArmed a.flight (0, none) (updTables (fun x => { x with prepBeat := smSet x.prepBeat a.table a.beat }) s)
      | v => finishArmed a.flight (verdictStatus v) s

def dueArmed (s : State) (kinds : List Nat) : List Armed :=
  s.tables.armed.filter fun a => kinds.contains a.kind && a.beat ≤ beatNo s

def dropArmed (l : List Armed) (s : State) : State :=
  updTables (fun x => { x with armed := x.armed.filter fun a => !l.contains a }) s

/-- Step 5 of R50: the prepares named for this beat. -/
def tablesStep5 (s : State) : State :=
  let l := dueArmed s [0]
  l.foldl (fun s a => doPrepare a s) (dropArmed l s)

/-! ### Commit and retire (R156, R157, R159) -/

/-- The command that originated a commit on a column group ends once every peer has answered (14 R398). -/
def settleSync (n : Nat) (s : State) : State :=
  match s.net.group.syncs.find? fun x => x.1 = n with
  | none => finishFlight n 0 s
  | some (_, ps, bad) =>
    if ps.isEmpty then
      let s := updGroup (fun g => { g with syncs := g.syncs.filter fun x => x.1 != n }) s
      finishFlight n (if bad then stVersionUnavailable else 0) s
    else updFlight n (fun f => { f with work := .net }) s

/-- The single write of the three slots at step 6 (R156). -/
def commitSlots (t : Table) (beat edge : Nat) (rf : Option (Nat × Nat)) : Table :=
  { t with
    retir := if isEmptyV t.cur then t.retir else { t.cur with st := .retiring, beat, edge, rfence := rf }
    cur := { t.pend with st := .current, beat, edge }
    pend := emptyAt beat }

/-- Step 6 of R50 for one commit or retirement. -/
def doCommit (a : Armed) (s : State) : State :=
  match findTable s a.table with
  | none => finishArmed a.flight (stTableInvalid, none) s
  | some t =>
    if !isEmptyV t.retir then finishArmed a.flight (stVersionSlotBusy, none) s
    else if a.kind = 2 then
      if usesVersion t.cur a.version then
        let s := updTable a.table (fun t => { t with
          retir := { t.cur with st := .retiring, beat := a.beat, edge := s.beat.edges, rfence := if a.destroy then none else a.rfence }
          cur := emptyAt a.beat
          destroy := t.destroy || a.destroy
          destroyFence := if a.destroy then a.rfence else t.destroyFence }) s
        finishArmed a.flight (0, none) s
      else finishArmed a.flight (stVersionUnavailable, none) s
    else if t.pend.st == .prepared && t.pend.version = a.version then
      let s := updTable a.table (fun t => { commitSlots t a.beat s.beat.edges a.rfence with
        unserved := t.unserved && !isMember s }) s
      let s := updGroup (fun g => { g with queries := g.queries.filter fun q => q.1 != a.table }) s
      match a.flight with
      | some n => settleSync n s
      | none => s
    else finishArmed a.flight (stVersionUnavailable, none) s

/-- RETIRING versions whose two beats have ended become DRAINING (R153, R158). -/
def endRetiring (s : State) : State :=
  (smKeys s.tables.tab).foldl (fun s i =>
    freeDrained i (updTable i (fun t =>
      if t.retir.st == .retiring && t.retir.edge + 2 ≤ s.beat.edges then { t with retir := { t.retir with
        st := .draining
        beat := beatNo s } } else t) s)) s

/-- The versions CURRENT after step 6 of this beat: what its apply window will write (07 R192, R199). -/
def noteTargets (s : State) : State :=
  let n := beatNo s
  updTables (fun x => { x with
    targets := (x.targets.filter fun y => y.1 != n && x.closed.any fun c => c.2 = y.1) ++
      (x.tab.filter fun t => t.2.paramAddr != 0 && t.2.cur.st == .current).map fun t => (n, t.1, t.2.cur.version) }) s

/-- Step 6 of R50. -/
def tablesStep6 (s : State) : State :=
  let s := endRetiring s
  let l := dueArmed s [1, 2, 3, 4]
  noteTargets (l.foldl (fun s a => doCommit a s) (dropArmed l s))

/-- R157 when a commit or retirement is armed for beat M. -/
def retiringOk (s : State) (t : Table) (m : Nat) : Bool :=
  isEmptyV t.retir || (t.retir.st == .retiring && t.retir.edge + 2 ≤ s.beat.edges + (m - beatNo s))

/-- The prepare beat of the PENDING version: done, or armed. -/
def prepBeatOf (s : State) (id : Nat) (t : Table) (ver : Nat) : Option Nat :=
  if t.pend.version != ver then none
  else if t.pend.st == .prepared then some (smGet s.tables.prepBeat 0 id)
  else if t.pend.st == .loading then
    (s.tables.armed.find? fun a => a.kind = 0 && a.table = id && a.version = ver).map (·.beat)
  else none

def verName (r : Req) : Nat := num r.slot 66 2
def beatName (r : Req) : Nat := num r.slot 72 8
def rfenceOf (r : Req) : Option (Nat × Nat) := if pFenceEn r.slot 80 then some (pFence r.slot 80, num r.slot 88 8) else none

/-- Arm a table action: the command waits for its beat and echoes it (R304). -/
def armTable (kind beat : Nat) (destroy : Bool) (r : Req) (n : Nat) (s : State) : State :=
  let a : Armed := { kind, table := tabId r, version := verName r, beat, flight := some n, rfence := rfenceOf r, destroy }
  updTables (fun x => { x with armed := x.armed ++ [a] }) (updFlight n (fun f => { f with
    work := .beat
    echo := beat % 2 ^ 24 }) s)

def ownPrepare (s : State) (r : Req) : Verdict :=
  match findTable s (tabId r) with
  | none => .bad stTableInvalid
  | some t => need (t.pend.st == .loading && t.pend.version = verName r) stVersionUnavailable

def execTablePrepare (queue : Nat) (s : State) : Res :=
  .next (dispatch queue (isOp 0x302) oneUj ownPrepare
    (fun r n s => armTable 0 (laterBeat s (beatName r)) false r n s) s)

/-- The commit beat: later than the current beat and than the prepare beat (R304). -/
def commitBeat (s : State) (r : Req) : Nat :=
  match findTable s (tabId r) with
  | none => laterBeat s (beatName r)
  | some t => max (laterBeat s (beatName r)) ((prepBeatOf s (tabId r) t (verName r)).getD 0 + 1)

def ownCommit (s : State) (r : Req) : Verdict :=
  match findTable s (tabId r) with
  | none => .bad stTableInvalid
  | some t => firstBad [need (s.clock.lock != .unlocked) stTimeUnlocked,
      need (prepBeatOf s (tabId r) t (verName r)).isSome stVersionUnavailable,
      need (retiringOk s t (commitBeat s r)) stVersionSlotBusy]

/-- The partition-relative ID of a table on the wire (14 R385). -/
def relTable (s : State) (id : Nat) : Nat := match (tableOwner s id).bind (findPart s) with
  | some p => id - 256 * p.first
  | none => id

/-- The window a message about a table names: the first of the partition's block, taken to be the receiver's too (log 23). -/
def wireWindow (s : State) (p : Nat) : Nat := match findPart s p with
  | some w => 256 * w.first
  | none => 0

/-- BEAT_SYNC to the other devices of the column group (14 R398). -/
def sendSyncs (r : Req) (n beat : Nat) (t : Table) (s : State) : State :=
  let peers := (cfgColgroup s.net.group.config t.colgroup).filter (· != deviceNo s)
  let ok := peers.filter (reachable s)
  let s := updGroup (fun g => { g with
    syncs := g.syncs ++ [(n, ok.map (fun p => (p, match findFlow s p with | some f => f.nextMsg | none => 0)), ok.length != peers.length)] }) s
  ok.foldl (fun s p => sendMsg p
    { type := tyBeatSync
      part := some t.partition
      context := t.context
      window := wireWindow s t.partition
      spec := [(56, 8, beat), (64, 2, relTable s (tabId r)), (66, 2, verName r)]
      flight := some n } s) s

def startCommit (r : Req) (n : Nat) (s : State) : State :=
  let m := commitBeat s r
  let s := armTable 1 m false r n s
  match findTable s (tabId r) with
  | some t => if t.colgroup = 0xFFFF then s else sendSyncs r n m t s
  | none => s

def execTableCommit (queue : Nat) (s : State) : Res :=
  .next (dispatch queue (isOp 0x303) oneUj ownCommit startCommit s)

/-- TABLE_RETIRE's DESTROY flag. -/
def destroyFlag (r : Req) : Bool := bit (num r.slot 68 1) 0

def ownRetire (s : State) (r : Req) : Verdict :=
  match findTable s (tabId r) with
  | none => .bad stTableInvalid
  | some t =>
    if usesVersion t.pend (verName r) then .ok
    else if usesVersion t.cur (verName r) then need (retiringOk s t (laterBeat s (beatName r))) stVersionSlotBusy
    else need (destroyFlag r) stVersionUnavailable

/-- Add to a count of a table's parameter block; it is written at the end of the next apply window (07 R183). -/
def addParam (id off k : Nat) (s : State) : State :=
  if k = 0 then s else
  updTables (fun x =>
    let c := smGet x.counts [] id
    { x with counts := smSet x.counts id (smSet c off (smGet c 0 off + k)) }) s

/-- A tracking version goes: its tracking overwrites that are still uncollected go with it, counted in STALE (R200). -/
def dropTracking (id : Nat) (t : Table) (s : State) : State :=
  if !t.pend.tracking then s else
  let l := s.tables.entries.filter fun e => e.table = id && e.kind = 2
  addParam id 112 l.length (updTables (fun x => { x with entries := x.entries.filter fun e => !(e.table = id && e.kind = 2) }) s)

def startRetire (r : Req) (n : Nat) (s : State) : State :=
  let id := tabId r
  let m := laterBeat s (beatName r)
  match findTable s id with
  | none => finishFlight n stTableInvalid s
  | some t =>
    if usesVersion t.pend (verName r) then
      let s := updTable id (fun t => { t with
        pend := emptyAt (beatNo s)
        destroy := t.destroy || destroyFlag r
        destroyFence := if destroyFlag r then rfenceOf r else t.destroyFence }) (dropTracking id t s)
      let s := if destroyFlag r then s else signalOpt (rfenceOf r) s
      finishFlight n 0 (destroyIfEmpty id (updFlight n (fun f => { f with echo := m % 2 ^ 24 }) s))
    else if usesVersion t.cur (verName r) then armTable 2 m (destroyFlag r) r n s
    else
      let s := updTable id (fun t => { t with
        destroy := true
        destroyFence := rfenceOf r }) s
      finishFlight n 0 (destroyIfEmpty id (updFlight n (fun f => { f with echo := m % 2 ^ 24 }) s))

def execTableRetire (queue : Nat) (s : State) : Res :=
  .next (dispatch queue (isOp 0x304) oneUj ownRetire startRetire s)

end Sys2Proof.Machine
end

