-- ==== Sys2Proof/Machine/Gather.lean ====
section
/-! DEFINITION. Gathers (06 R160 to R176, 11 R310, R311): features, keys, Yarrow's output, pooling; and top-k (R179, R180). -/

namespace Sys2Proof.Machine

/-! ### Sorting -/

def insertOne {α : Type} (lt : α → α → Bool) (x : α) : List α → List α
  | [] => [x]
  | y :: ys => if lt x y then x :: y :: ys else y :: insertOne lt x ys

/-- A stable insertion sort. -/
def insertSort {α : Type} (lt : α → α → Bool) (l : List α) : List α := l.foldl (fun acc x => insertOne lt x acc) []

/-! ### Features (R161, R162) -/

/-- A feature entry as read. -/
structure FeatureForm where
  table : Nat
  version : Nat
  pool : Nat
  exact : Bool
  weighted : Bool
  outFmt : Nat
  count : Nat
  indices : Nat
  offsets : Nat
  weights : Nat
  out : Nat
  stride : Nat
  deriving DecidableEq, Repr

def parseFeature (b : List Byte) : FeatureForm :=
  let m := num b 4 1
  let f := num b 5 1 % 16
  { table := num b 0 2 % 4096, version := num b 2 2, pool := m % 4, exact := bit m 2, weighted := bit m 3
    outFmt := if f ≤ 2 then f else 0, count := num b 8 4, indices := pAddr b 16, offsets := pAddr b 24
    weights := pAddr b 32, out := pAddr b 40, stride := num b 48 4 }

def gatherF (r : Req) : Nat := clampN 1 1024 (num r.slot 72 2)
def gatherBags (r : Req) : Nat := clampN 1 4194304 (num r.slot 76 4)
def gatherWork (r : Req) : List Nat := (List.range 4).map fun k => pAddr r.slot (80 + 8 * k)
def gatherWorkBytes (r : Req) : Nat := num r.slot 112 4

def gatherForms (s : State) (r : Req) : List FeatureForm :=
  (List.range (gatherF r)).map fun i => parseFeature (readVa s r.ctx (pAddr r.slot 64 + 64 * i) 64).data

/-- Ends of the bags: OFFSETS[0] read as 0, each later one clamped; whether a clamp took place (R162). -/
def bagEnds (s : State) (c : Nat) (f : FeatureForm) (bags : Nat) : List Nat × Bool :=
  let b := (readVa s c f.offsets (4 * (bags + 1))).data
  let r := (List.range bags).foldl (fun (a : List Nat × Bool × Nat) i =>
    let o := num b (4 * (i + 1)) 4
    let o' := clampN a.2.2 f.count o
    (o' :: a.1, a.2.1 || o' != o, o')) ([], false, 0)
  (r.1.reverse, r.2.1)

/-- Positions per bag, or one per position for NONE. -/
def bagCounts (s : State) (c : Nat) (f : FeatureForm) (bags : Nat) : List Nat × Bool :=
  if f.pool = 3 then (List.replicate f.count 1, false)
  else
    let e := bagEnds s c f bags
    ((e.1.zip (0 :: e.1)).map (fun x => x.1 - x.2), e.2)

/-- Whether the commit of this beat is not named to other devices yet (02 R53). -/
def freshCommit (s : State) (t : Table) : Bool :=
  t.colgroup != 0xFFFF && 1 < t.gsize && t.cur.edge = s.beat.edges && t.cur.beat = beatNo s &&
  match s.beat.edge with
  | some e => now s < e + max (headNs s) 8000
  | none => false

/-- An EXACT feature on the version just committed: it is named to other devices later (02 R53). -/
def namedLater (s : State) (t : Table) (f : FeatureForm) : Bool :=
  f.exact && t.cur.st == .current && t.cur.version = f.version && freshCommit s t

/-- The slot a feature is served from (R160): 0 CURRENT or 2 RETIRING. -/
def resolveVersion (s : State) (t : Table) (f : FeatureForm) : Option (Nat × VSlot) :=
  if t.unserved then none
  else if f.exact then
    if readableV t.cur && t.cur.version = f.version then some (0, t.cur)
    else if readableV t.retir && t.retir.version = f.version then some (2, t.retir) else none
  else if t.cur.st == .current && !freshCommit s t then some (0, t.cur)
  else if t.cur.st == .current && t.retir.st == .retiring && freshCommit s t then some (2, t.retir)
  else none

/-- A key of a feature with its partition die and, in row-owner layout, its owner's position. -/
structure RKey where
  die : Nat
  owner : Nat
  key : YKey
  null : Bool
  deriving DecidableEq, Repr

def keyOf (table row : Nat) (null : Bool) : Nat := (if null then 2 ^ 52 else row) + 2 ^ 40 * table

/-- The keys of a feature: destinations from `dest0` (NONE) or bag numbers from `bag0` (R162, R163), each on the die that
holds its row. -/
def featureKeys (s : State) (c : Nat) (t : Table) (v : VSlot) (f : FeatureForm) (counts : List Nat) (dest0 bag0 : Nat) :
    List RKey :=
  let l := layoutOf s t v
  let n := counts.foldl (· + ·) 0
  let idx := (readVa s c f.indices (8 * f.count)).data
  let ws := if f.weighted then (readVa s c f.weights (4 * f.count)).data else []
  let bagOf : List Nat := counts.zipIdx.flatMap fun k => List.replicate k.1 k.2
  (List.range n).map fun p =>
    let i := num idx (8 * p) 8
    let null := t.rows ≤ i
    let dest := if f.pool = 3 then dest0 + p else bag0 + bagOf.getD p 0
    let w := if f.weighted then BitVec.ofNat 32 (num ws (4 * p) 4) else 0x3F800000
    let owner := if v.rowOwner && !null then i / v.ownerRows else t.slice
    let row0 := if v.rowOwner then owner * v.ownerRows else 0
    { die := (i - row0) % l.dies, owner, null
      key := { key := keyOf f.table i null, dest, pos := dest0 + p, weight := w } }

/-- A resolved feature with its keys. -/
structure RFeature where
  form : FeatureForm
  table : Table
  slot : Nat
  ver : VSlot
  counts : List Nat
  clamped : Bool
  first : Nat
  keys : List RKey
  deriving DecidableEq, Repr

/-- Each die reads a contiguous share of the batch's positions, and a null key stays on the die that read it (R164). -/
def shareNulls (dies : Nat) (rs : List RFeature) : List RFeature :=
  let n := rs.foldl (fun k f => k + f.keys.length) 0
  (rs.foldl (fun (a : List RFeature × Nat) f =>
    (a.1 ++ [{ f with keys := f.keys.zipIdx.map fun k =>
        if k.1.null then { k.1 with die := (a.2 + k.2) * dies / n } else k.1 }], a.2 + f.keys.length)) ([], 0)).1

/-- The features of a gather, with the number of positions and bags before each. -/
def resolveAll (s : State) (r : Req) : List RFeature :=
  let bags := gatherBags r
  shareNulls (partDieCount s (r.part.getD 0)) ((gatherForms s r).foldl (fun (a : List RFeature × Nat × Nat) f =>
    match findTable s f.table with
    | none => (a.1, a.2.1 + f.count, a.2.2 + bags)
    | some t => match resolveVersion s t f with
      | none => (a.1, a.2.1 + f.count, a.2.2 + bags)
      | some (slot, v) =>
        let k := bagCounts s r.ctx f bags
        (a.1 ++ [{ form := f, table := t, slot, ver := v, counts := k.1, clamped := k.2, first := a.2.1,
                   keys := featureKeys s r.ctx t v f k.1 a.2.1 a.2.2 }], a.2.1 + f.count, a.2.2 + bags)) ([], 0, 0)).1

/-! ### GATHER's checks -/

def outWidth (f : Nat) : Nat := if f = 0 then 4 else 2
/-- Bytes of one output vector: the whole row across devices, the slice otherwise. -/
def vectorBytes (t : Table) (v : VSlot) (fmt : Nat) : Nat :=
  (if v.rowOwner || 1 < t.gsize then t.elems else sliceLen t t.slice) * outWidth fmt
def outStride (t : Table) (v : VSlot) (f : FeatureForm) : Nat := roundUp (max f.stride (vectorBytes t v f.outFmt)) 64
def destCount (r : Req) (f : FeatureForm) : Nat := if f.pool = 3 then f.count else gatherBags r

/-- A feature's table and version. -/
def featureOk (s : State) (r : Req) (f : FeatureForm) : Verdict :=
  match findTable s f.table with
  | none => if tableOwner s f.table == r.part then .bad stTableInvalid else .bad stTableNotOwned
  | some t =>
    firstBad [need (tableOwner s f.table == r.part && t.context = r.ctx) stTableNotOwned,
      need (resolveVersion s t f).isSome stVersionUnavailable,
      if namedLater s t f then .snoop [] else .ok]

/-- A feature's arrays. -/
def featureRanges (s : State) (r : Req) (f : FeatureForm) : Verdict :=
  let w := hWaitMap r.slot
  firstBad [rangeOk s r.ctx f.indices (8 * f.count) true false w,
    if f.pool = 3 then .ok else rangeOk s r.ctx f.offsets (4 * (gatherBags r + 1)) true false w,
    if f.weighted then rangeOk s r.ctx f.weights (4 * f.count) true false w else .ok,
    match findTable s f.table with
    | none => .ok
    | some t => match resolveVersion s t f with
      | none => .ok
      | some (_, v) => rangeOk s r.ctx f.out (matSpan (destCount r f) (outStride t v f) (vectorBytes t v f.outFmt)) false true w]

def distinctTables (fs : List FeatureForm) : List Nat := (fs.map (·.table)).eraseDups

/-- Keys one die takes in a batch: its whole Yarrow, or the buffer parts of the sixteenths owned (R165, 01 R27). -/
def dieLimit (p : Part) : Nat := if wholeDies p then 16777215 else 4194304 * p.sixteenths

/-- The device and die a key is routed to (R164, R176). -/
def keyPlace (s : State) (f : RFeature) (k : RKey) : Nat × Nat :=
  (if f.ver.rowOwner && !k.null && k.owner != f.table.slice
    then ((colDevices s f.table).find? fun d => d.2 = k.owner).elim 0xFFFF (·.1) else deviceNo s, k.die)

/-- No die is sent more keys than it takes. -/
def batchFits (s : State) (p : Part) (rs : List RFeature) : Bool :=
  let places := rs.flatMap fun f => f.keys.map (keyPlace s f)
  places.eraseDups.all fun x => places.count x ≤ dieLimit p

def ownGather (s : State) (r : Req) : Verdict :=
  let w := hWaitMap r.slot
  match rangeOk s r.ctx (pAddr r.slot 64) (64 * gatherF r) true false w, r.part.bind (findPart s) with
  | .ok, some p =>
    let fs := gatherForms s r
    match firstBad (fs.map (featureOk s r) ++ fs.map (featureRanges s r)) with
    | .ok =>
      let rs := resolveAll s r
      let keys := rs.flatMap (·.keys)
      let dies := partDies p
      let echo := pAddr r.slot 120
      firstBad ([need (batchFits s p rs) stYarrowBatchLimit,
        need (64 + 48 * keys.length ≤ gatherWorkBytes r) stYarrowWorkArea] ++
        (dies.zipIdx.map fun d => rangeOk s r.ctx ((gatherWork r).getD d.2 0) (gatherWorkBytes r) true true w) ++
        (dies.zipIdx.map fun d => need ((segments s r.ctx ((gatherWork r).getD d.2 0) (gatherWorkBytes r)).all fun g =>
          segDie g = d.1 && segDieEnd g = d.1) stYarrowWorkArea) ++
        [if echo = 0 then .ok else rangeOk s r.ctx echo (4 * (distinctTables fs).length) false true w])
    | v => v
  | .ok, none => .bad stTableNotOwned
  | v, _ => v

/-! ### Yarrow (R164 to R168) -/

/-- Keys this device sorts: all of a column-split feature, its own and null keys of a row-owner one. -/
def localKeys (f : RFeature) : List RKey := if f.ver.rowOwner then f.keys.filter fun k => k.owner = f.table.slice else f.keys

/-- Order of pairs: key, destination, position. -/
def yLt (a b : YKey) : Bool :=
  a.key < b.key || (a.key == b.key && (a.dest < b.dest || (a.dest == b.dest && a.pos < b.pos)))

/-- Unique records of a sorted list: key and its pairs. -/
def uniqueRecs (l : List YKey) : List (Nat × List YKey) :=
  (l.foldr (fun k acc => match acc with
    | (x, ps) :: rest => if x = k.key then (x, k :: ps) :: rest else (k.key, [k]) :: acc
    | [] => [(k.key, [k])]) [])

def keyNull (k : Nat) : Bool := bit k 52
def keyTable (k : Nat) : Nat := k / 2 ^ 40 % 4096
def keyRow (k : Nat) : Nat := k % 2 ^ 40

def isHot (s : State) (key count : Nat) : Bool := !keyNull key && match findTable s (keyTable key) with
  | some t => 2 ^ t.hotShift ≤ count
  | none => false

/-- The unique records of a die's share of the batch. -/
def dieRecs (g : Gather) (d : Nat) : List (Nat × List YKey) := uniqueRecs (insertSort yLt (smGet g.keys [] d))

/-- The first `k` records with their pairs, written to the work area at `w` (R167; log 22 for their places). -/
def writeYarrow (n : Option Nat) (c w : Nat) (recs : List (Nat × List YKey)) (k : Nat) (s : State) : State :=
  let pairAddr := w + 64 + 16 * recs.length
  let r := (recs.take k).foldl (fun (a : List Byte × List Byte × Nat) x =>
    (a.1 ++ rec_ 16 [(0, 8, x.1), (8, 3, x.2.length), (11, 1, b2n (isHot s x.1 x.2.length)), (12, 4, a.2.2)],
     a.2.1 ++ x.2.flatMap (fun p => le 4 p.dest ++ le 4 p.weight.toNat), a.2.2 + x.2.length)) ([], [], 0)
  let a := writeVa c (w + 64) r.1 s
  let b := writeVa c pairAddr r.2.1 a.1
  match n with
  | some n => noteAcc n true a.2 (noteAcc n true b.2 b.1)
  | none => b.1

/-- The 64-byte summary of a die (R167). -/
def yarrowSummary (s : State) (g : Gather) (w : Nat) (recs : List (Nat × List YKey)) : List Byte :=
  let pairs := recs.foldl (fun n x => n + x.2.length) 0
  let nulls := recs.foldl (fun n x => if keyNull x.1 then n + x.2.length else n) 0
  rec_ 64 [(0, 4, recs.length), (4, 4, pairs), (8, 4, nulls),
    (12, 4, (recs.filter fun x => isHot s x.1 x.2.length).length), (16, 4, recs.foldl (fun m x => max m x.2.length) 0),
    (20, 4, b2n g.clamped), (24, 8, w + 64), (32, 8, w + 64 + 16 * recs.length)]

/-! ### Pooling (R171 to R173) -/

/-- The tile range of a record by its first pair, of pair j of a hot record by its place (log 22). -/
def rangeTile (tiles total i : Nat) : Nat := if total = 0 then 0 else min (tiles - 1) (i * tiles / total)

/-- A die's contributions: tile, destination, weight, key, in record order and pair order. The pairs of a HOT record are
divided among all of the die's tiles (R173). -/
def dieContribs (s : State) (tiles : Nat) (recs : List (Nat × List YKey)) : List (Nat × YKey) :=
  let total := recs.foldl (fun n x => n + x.2.length) 0
  (recs.foldl (fun (a : List (Nat × YKey) × Nat) x =>
    let hot := isHot s x.1 x.2.length
    (a.1 ++ x.2.zipIdx.map (fun p =>
      (if hot then rangeTile tiles x.2.length p.2 else rangeTile tiles total a.2, p.1)), a.2 + x.2.length)) ([], 0)).1

/-- Fold contributions to one destination into an FP32 vector. -/
def addContrib (pool : Nat) (w : FVal) (row : List FVal) (acc : Option (List FVal)) : List FVal :=
  if pool = 2 then
    let v := row.map fun x => mul32x w x
    match acc with
    | none => v
    | some a => (a.zip v).map fun x => (maxF x.1 x.2).1
  else
    let a := acc.getD (row.map fun _ => .fin false 0 0)
    (a.zip row).map fun x => (r32 (fmaF w x.2 x.1)).1

def joinPartials (pool : Nat) (a b : List FVal) : List FVal :=
  (a.zip b).map fun x => if pool = 2 then (maxF x.1 x.2).1 else add32x x.1 x.2

/-- The key is one of the feature's positions with this destination: numbers of other features may be equal (R162). -/
def ofDest (f : GFeature) (dest : Nat) (k : YKey) : Bool := k.dest = dest && f.first ≤ k.pos && k.pos < f.first + f.span

/-- The pooled vector of one destination: tiles ascending within a die, dies ascending (R172). -/
def poolDest (f : GFeature) (tiles dies : Nat) (row : Nat → List FVal) (contribs : Nat → List (Nat × YKey)) (dest : Nat) :
    Option (List FVal) :=
  let join (a b : Option (List FVal)) : Option (List FVal) := match a, b with
    | none, y => y
    | x, none => x
    | some x, some y => some (joinPartials f.pool x y)
  (List.range dies).foldl (fun acc d =>
    let mine := (contribs d).filter fun x => ofDest f dest x.2
    let die := (List.range tiles).foldl (fun a t =>
      join a ((mine.filter fun x => x.1 = t).foldl (fun p x =>
        some (addContrib f.pool (f32 x.2.weight) (row x.2.key) p)) none)) none
    join acc die) none

/-- One output vector as bytes. -/
def outVector (f : GFeature) (n count : Nat) (v : Option (List FVal)) : List Byte :=
  let vals := match v with
    | none => (List.range n).map fun _ => FVal.fin false 0 0
    | some x => if f.pool = 1 && 0 < count then x.map fun e => div32x e (ofInt count) else x
  packCodes f.outFmt (vals.map fun e => (convTo f.outFmt false false e).code)

/-- Destination numbers of feature i of a batch (R162). -/
def destsOf (bags i : Nat) (f : GFeature) : List Nat :=
  (List.range f.counts.length).map (· + if f.pool = 3 then f.first else i * bags)

def featureDests (g : Gather) (i : Nat) : List Nat := match g.features[i]? with
  | none => []
  | some f => destsOf g.bags i f

/-! ### Running a gather -/

/-- Distinct tables of the batch with their versions, in order of first appearance (R311). -/
def gatherEcho (g : Gather) : List (Nat × Nat) := (g.features.map fun f => (f.table, f.version)).eraseDups

def echoBytes (g : Gather) : List Byte := (gatherEcho g).flatMap fun e => le 4 (e.1 + e.2 * 65536)

def mkGather (s : State) (r : Req) (rs : List RFeature) : Gather :=
  let keys := rs.flatMap localKeys
  let dies := partDieCount s (r.part.getD 0)
  { features := rs.map fun f => {
      table := f.form.table, version := f.ver.version, slot := f.slot, pool := f.form.pool
      outFmt := f.form.outFmt, out := f.form.out, stride := outStride f.table f.ver f.form, counts := f.counts
      first := f.first, span := f.form.count, colgroup := f.table.colgroup, rowOwner := f.ver.rowOwner }
    bags := gatherBags r
    keys := (List.range dies).map fun d => (d, (keys.filter fun k => k.die = d).map (·.key))
    work := gatherWork r, workBytes := gatherWorkBytes r, pfence := pFence r.slot 116
    clamped := rs.any (·.clamped), done := [], reran := [], fetched := [], held := false, echoAddr := pAddr r.slot 120 }

def meterKeys (p n : Nat) (s : State) : State :=
  updPart p (fun w => { w with beat := { w.beat with keys := w.beat.keys + n } }) s

/-! ### Messages of a gather between devices (R174, R176, 14 R385)

The spec does not lay these messages out: the header and the elements below are a DESIGN CHOICE (log 23). -/

abbrev gwRecords : Nat := 0
abbrev gwKeys : Nat := 1
abbrev gwSlices : Nat := 2
abbrev gwPartials : Nat := 3
abbrev gwGradients : Nat := 4
abbrev gwEntries : Nat := 5

/-- The 64-byte header of a message into a gather window. -/
def gwHeader (op die feats total tag work bags elems : Nat) : List Byte :=
  rec_ 64 [(0, 1, op), (1, 1, die), (2, 2, feats), (4, 4, total), (8, 8, tag), (16, 8, work), (24, 4, bags), (28, 4, elems)]

/-- A feature of the batch as its peers need it: the table, the version resolved, the pooling and the destinations. -/
def gwFeature (s : State) (x : Nat × GFeature) : List Byte :=
  rec_ 32 [(0, 2, relTable s x.2.table), (2, 2, x.2.version), (4, 1, x.2.pool), (5, 1, x.2.outFmt), (6, 1, b2n x.2.rowOwner),
    (8, 4, x.2.first), (12, 4, x.2.span), (16, 4, x.2.counts.length), (20, 4, x.1)]

def relKey (s : State) (k : Nat) : Nat := k - keyTable k * 2 ^ 40 + relTable s (keyTable k) * 2 ^ 40

/-- A key with its destination, weight and position. -/
def gwKey (s : State) (k : YKey) : List Byte :=
  rec_ 24 [(0, 8, relKey s k.key), (8, 4, k.dest), (12, 4, k.weight.toNat), (16, 4, k.pos)]

/-- A list cut into pieces of at most k, at least one piece. -/
def cutList {α : Type} (k : Nat) (l : List α) : List (List α) :=
  (List.range (max 1 (ceilDiv l.length k))).map fun i => (l.drop (i * k)).take k

/-- Elements of one message, so that it stays below 1 MiB (14 R372). -/
abbrev gwKeysPer : Nat := 40000
abbrev gwVecsPer : Nat := 60

/-- A message into a gather window of a peer. Which window is not stated: a free value (log 23). -/
def sendGw (n : Option Nat) (part context peer : Nat) (payload : List Byte) (s : State) : State :=
  let x := freshFree s
  let msg : Msg := {
    type := tyWrite, flight := n, part := some part, context := context, window := x.1.toNat % 4096, payload }
  match n with
  | none => sendMsg peer msg x.2
  | some n => sendMsg peer msg (updFlight n (fun f => { f with msgs := f.msgs + 1 }) x.2)

/-- The other devices of a feature's column group. -/
def featurePeers (s : State) (f : GFeature) : List Nat :=
  if f.colgroup = 0xFFFF then [] else (cfgColgroup s.net.group.config f.colgroup).filter (· != deviceNo s)

/-- Features of a layout that a peer takes part in, with their places in the batch. -/
def sharedWith (s : State) (rowOwner : Bool) (peer : Nat) (g : Gather) : List (Nat × GFeature) :=
  (g.features.zipIdx.filter fun x => x.1.rowOwner == rowOwner && (featurePeers s x.1).contains peer).map fun x => (x.2, x.1)

/-- A key belongs to one of the features. -/
def keyOfAny (fs : List (Nat × GFeature)) (k : YKey) : Bool := fs.any fun f => f.2.first ≤ k.pos && k.pos < f.2.first + f.2.span

/-- The pairs of a die that a peer receives, in the order of the die's records. -/
def dieShare (fs : List (Nat × GFeature)) (g : Gather) (d : Nat) : List YKey :=
  (dieRecs g d).flatMap fun x => x.2.filter (keyOfAny fs)

/-- Messages of records one peer receives in all. -/
def recordMsgs (fs : List (Nat × GFeature)) (g : Gather) : Nat :=
  g.keys.foldl (fun n k => n + max 1 (ceilDiv (k.2.filter (keyOfAny fs)).length gwKeysPer)) 0

/-- Keys in messages to a peer. -/
def sendKeys (n part context op die total : Nat) (fs : List (Nat × GFeature)) (g : Gather) (peer : Nat) (ks : List YKey)
    (s : State) : State :=
  (cutList gwKeysPer ks).foldl (fun s c =>
    sendGw (some n) part context peer
      (gwHeader op die fs.length total n (g.work.headD 0) g.bags c.length ++ fs.flatMap (gwFeature s) ++ c.flatMap (gwKey s)) s) s

def updGather (n : Nat) (f : Gather → Gather) (s : State) : State :=
  updFlight n (fun w => match w.work with
    | .gather g => { w with work := .gather (f g) }
    | _ => w) s

def noteUnreachable (n : Nat) (s : State) : State :=
  updFlight n (fun f => { f with status := if f.status = 0 then stNetUnreachable else f.status }) s

/-- Step 2 of R174 for a die whose Yarrow batch has ended: its unique records and pairs, with the resolved versions, go to
the same die number of every peer. -/
def sendRecords (n : Nat) (f : Flight) (g : Gather) (d : Nat) (s : State) : State :=
  (g.awaits.filter fun a => a.2.1 = 0).foldl (fun s a =>
    let fs := sharedWith s false a.1 g
    sendKeys n f.part f.context gwRecords d (recordMsgs fs g) fs g a.1 (dieShare fs g d) s) s

/-- Step 1 of R176: each key of a row-owner feature goes to the owner of its row. -/
def remoteOwners (s : State) (rs : List RFeature) : List (Nat × YKey) :=
  rs.flatMap fun f => if !f.ver.rowOwner then [] else f.keys.filterMap fun k =>
    let p := keyPlace s f k
    if p.1 = deviceNo s then none else some (p.1, k.key)

/-- The peers of a gather: those of its column-split features answer with slices, the owners of remote rows with partials. -/
def gatherPeers (s : State) (g : Gather) (rs : List RFeature) : List (Nat × Nat) :=
  (((g.features.filter fun f => !f.rowOwner).flatMap (featurePeers s)).eraseDups.map fun p => (p, 0)) ++
  (((remoteOwners s rs).map (·.1)).eraseDups.map fun p => (p, 1))

/-- The gather's messages at its start: who answers, and the keys of remote owners. -/
def sendGather (n : Nat) (f : Flight) (rs : List RFeature) (g : Gather) (s : State) : State :=
  let keys := remoteOwners s rs
  (gatherPeers s g rs).foldl (fun s p =>
    if !reachable s p.1 then noteUnreachable n s else
    let s := updGather n (fun g => { g with awaits := g.awaits ++ [(p.1, p.2, 0)] }) s
    if p.2 = 0 then s else
      let fs := sharedWith s true p.1 g
      let ks := (keys.filter fun k => k.1 = p.1).map (·.2)
      sendKeys n f.part f.context gwKeys 0 (max 1 (ceilDiv ks.length gwKeysPer)) fs g p.1 ks s) s

/-- A die's Yarrow works on a batch of the partition. -/
def yarrowBusy (s : State) (p d : Nat) : Bool := s.flights.any fun f => f.part = p && f.done.isNone && match f.work with
  | .gather g => g.begun.contains d && !g.done.contains d
  | _ => false

/-- The closed apply beat a die has not merged (07 R191). -/
def mergeBeat (s : State) (p d : Nat) : Option Nat :=
  (s.tables.closed.find? fun c => c.1 = p && !s.tables.merged.contains (p, d, c.2)).map (·.2)

/-- A free Yarrow begins the oldest batch that waits for it; a merge that is due goes first (07 R191). -/
def beginBatch (p d : Nat) (s : State) : State :=
  if yarrowBusy s p d || (mergeBeat s p d).isSome then s else
  match s.flights.find? fun f => f.part = p && f.done.isNone && (match f.work with
      | .gather g => d < g.keys.length && !g.begun.contains d
      | _ => false) with
  | some f => updGather f.num (fun g => { g with begun := g.begun ++ [d] }) s
  | none => s

def beginBatches (p : Nat) (s : State) : State :=
  (List.range (partDieCount s p)).foldl (fun s d => beginBatch p d s) s

def startGather (r : Req) (n : Nat) (s : State) : State :=
  let rs := resolveAll s r
  let g := mkGather s r rs
  let s := rs.foldl (fun s f => updTable f.form.table (fun t => { t with
    nullCount := (t.nullCount + (f.keys.filter (·.null)).length) % 2 ^ 64 }) s) s
  let s := if g.echoAddr = 0 then s else
    let a := writeVa r.ctx g.echoAddr (echoBytes g) s
    noteAcc n true a.2 a.1
  let s := updFlight n (fun f => { f with
    work := .gather g
    echoBlock := g.echoAddr != 0
    echo := if g.echoAddr = 0 then (match g.features with | x :: _ => x.version | [] => 0) else (gatherEcho g).length }) s
  let s := match findFlight s n with
    | some f => sendGather n f rs g s
    | none => s
  beginBatches (r.part.getD devPart) (meterKeys (r.part.getD devPart) (rs.foldl (fun k f => k + f.keys.length) 0) s)

def gatherKeys (s : State) (r : Req) : Nat :=
  (gatherForms s r).foldl (fun n f => n + (bagCounts s r.ctx f (gatherBags r)).1.foldl (· + ·) 0) 0

def gatherCharge (s : State) (r : Req) : Nat := max 1 (keyCharge (gatherKeys s r))

def execGather (queue : Nat) (s : State) : Res :=
  .next (dispatch queue (isOp 0x305) gatherCharge ownGather startGather s)

/-- The version a feature is read from: the slot that holds it now (R158). -/
def servedSlot (t : Table) (ver : Nat) : Option VSlot :=
  [t.cur, t.retir].find? fun v => v.st != .empty && v.version = ver

/-- The charge of a die's fetch and pooling stage (12 R328). -/
def stageCharge (s : State) (g : Gather) (d : Nat) : Nat :=
  let t := (dieRecs g d).foldl (fun (a : Nat × Nat) x =>
    match findTable s (keyTable x.1), g.features.find? (fun f => f.table = keyTable x.1) with
    | some t, some f => match servedSlot t f.version with
      | some v =>
        let l := layoutOf s t v
        (a.1 + (if keyNull x.1 then 0 else l.recB / 64), a.2 + x.2.length * ceilDiv l.n 128)
      | none => a
    | _, _ => a) (0, 0)
  max 1 (ceilDiv (25 * t.1 + 2 * t.2) 10000)

/-- An apply window withholds the fetches of this table (07 R201). -/
def withheld (s : State) (table : Nat) : Bool :=
  s.tables.windows.any (fun w => w.2.tables.contains table) && match findTable s table with
    | some t => !t.granule
    | none => false

/-- The records of a table as they stand in memory: the slabs of the versions it holds. -/
def rowSegs (s : State) (t : Table) : List Seg :=
  ([t.cur, t.retir].filter fun v => v.st != .empty).flatMap fun v =>
    let l := layoutOf s t v
    segments s t.context l.base (l.dies * l.slab)

/-- A stream's fetch of these parts reads records of a withheld table (07 R201: every fetch of its records). -/
def withheldParts (s : State) (parts : List Seg) : Bool :=
  s.tables.tab.any fun t => withheld s t.1 && (rowSegs s t.2).any fun g =>
    parts.any fun p => p.pa < g.pa + g.len && g.pa < p.pa + p.len

/-! ### Fetching and pooling (R169, R171 to R173) -/

/-- The gather stream through which the records of die d's slab are fetched (R169; 05 R133, R134). -/
def recordStream (p : Part) (t : Table) (l : Layout) (d : Nat) : Stream :=
  { kind := 2, path := b2n (wholeDies p), persistent := false, waitMap := false, signalEn := false, rowBytes := l.recB
    rows := ceilDiv (l.rows - d) l.dies, stride := l.recB, spadOff := 0, ring := 0, fence := 0, fenceVal := 0
    base := l.base + d * l.slab, context := t.context, queue := 0, flight := 0, inUse := true, segs := [], ready := 0, pos := 0
    acked := 0, pend := [], idx := [], gqCount := 0, complete := false }

/-- The fetch of one record through its slab's stream; nothing for an index at or above the stream's ROWS. -/
def fetchRow (s : State) (p : Part) (t : Table) (l : Layout) (x : Nat) : Acc :=
  let g := recordStream p t l (l.die x)
  let i := (x - l.row0) / l.dies
  if i < g.rows then readVa s g.context (g.base + i * g.stride) g.rowBytes else {}

/-- Tiles of a partition on one die. -/
def tilesPerDie (p : Part) : Nat := ((partTiles p).filter fun t => t / 32 = (partDies p).headD 0).length

/-- The unique records of the keys of a die. -/
def recsOf (keys : SMap (List YKey)) (d : Nat) : List (Nat × List YKey) := uniqueRecs (insertSort yLt (smGet keys [] d))

/-- The pooled vector of a destination of a feature on this device, from the keys of its dies. -/
def poolFeature (s : State) (p : Part) (t : Table) (v : VSlot) (x : GFeature) (keys : SMap (List YKey)) (dest : Nat) :
    Option (List FVal) :=
  let l := layoutOf s t v
  let row (k : Nat) : List FVal :=
    if keyNull k then (List.range l.n).map fun _ => .fin false 0 0
    else recVals t l.n (parseRec t l.n (fetchRow s p t l (keyRow k)).data)
  poolDest x (tilesPerDie p) (partDies p).length row (fun d => dieContribs s (tilesPerDie p) (recsOf keys d)) dest

/-- What the fetches of a feature's records met. -/
def fetchAccs (s : State) (p : Part) (t : Table) (v : VSlot) (x : GFeature) (keys : SMap (List YKey)) : List Acc :=
  let l := layoutOf s t v
  keys.flatMap fun d => (recsOf keys d.1).filterMap fun k =>
    if keyNull k.1 || keyTable k.1 != x.table then none else some (fetchRow s p t l (keyRow k.1))

/-- Byte of an output vector at which this device's slice begins. -/
def sliceOff (t : Table) (l : Layout) (x : GFeature) : Nat := if 1 < t.gsize then l.first * outWidth x.outFmt else 0

def codes32 (v : List FVal) : List U32 := v.map fun e => (pack32 e).1

/-- Pool one feature of a gather: a column-split slice is written to its output vectors, a row-owner version's sums are
this device's partials (R171, R174, R176). -/
def poolOne (n : Nat) (f : Flight) (g : Gather) (p : Part) (s0 : State) (x : GFeature) (i : Nat) (s : State) : State :=
  match findTable s0 x.table with
  | none => s
  | some t => match servedSlot t x.version with
    | none => s
    | some v =>
      let l := layoutOf s0 t v
      if l.n = 0 then s else
      let s := (fetchAccs s0 p t v x g.keys).foldl (fun s a => noteAcc n false a s) s
      (destsOf g.bags i x).zipIdx.foldl (fun s d =>
        let pooled := poolFeature s0 p t v x g.keys d.1
        if x.rowOwner then
          match pooled with
          | none => s
          | some w => updGather n (fun g => { g with partials := g.partials ++ [(i, d.1, codes32 w)] }) s
        else
          let a := writeVa f.context (x.out + d.2 * x.stride + sliceOff t l x) (outVector x l.n (x.counts.getD d.2 0) pooled) s
          noteAcc n true a.2 a.1) s

/-- Fetch and pool on this device. -/
def poolAll (n : Nat) (f : Flight) (g : Gather) (s : State) : State := match findPart s f.part with
  | none => s
  | some p => g.features.zipIdx.foldl (fun s' x => poolOne n f g p s x.1 x.2 s') s

/-- The partials of a destination, combined in the order of their arrival (R176 step 4). -/
def combined (g : Gather) (x : GFeature) (i dest : Nat) : Option (List FVal) :=
  (g.partials.filter fun q => q.1 = i && q.2.1 = dest).foldl (fun a q =>
    let v := q.2.2.map f32
    match a with
    | none => some v
    | some u => some (joinPartials x.pool u v)) none

/-- Steps 4 and 5 of R176: the row-owner features' output vectors. -/
def writeCombined (n : Nat) (f : Flight) (g : Gather) (s : State) : State :=
  g.features.zipIdx.foldl (fun s x => if !x.1.rowOwner then s else match findTable s x.1.table with
    | none => s
    | some t => (destsOf g.bags x.2 x.1).zipIdx.foldl (fun s d =>
        let a := writeVa f.context (x.1.out + d.2 * x.1.stride)
          (outVector x.1 t.elems (x.1.counts.getD d.2 0) (combined g x.1 x.2 d.1)) s
        noteAcc n true a.2 a.1) s) s

/-- The fetch and pooling stage of a die as admission sees it: the gather's class and deadline. -/
def stageReady (s : State) (f : Flight) (c : Nat) : Ready :=
  { since := now s, charge := c, sampling := f.sampling, deadline := hDeadline f.slot, admitted := (findPart s f.part).isNone
    lc := f.lc, hold := false, kernel := false, tiles := 0, durUs := 0, slot := [], expert := [], mats := [], part := f.part }

/-- Each die whose summary is written is admitted to its fetch and pooling stage (R328). -/
def admitStages (n : Nat) (f : Flight) (g : Gather) (s : State) : State :=
  g.done.foldl (fun s d =>
    if g.fetched.contains d then s else
    let c := stageCharge s g d
    let s := offerStage n d (stageReady s f c) s
    if !(findStage s n d).any (·.admitted) then s else
    updFlight n (fun w => match w.work with
      | .gather g => { w with
          charge := w.charge + c
          work := .gather { g with fetched := g.fetched ++ [d] } }
      | _ => w) (takeStage n d s)) s

/-- A gather ends once it is pooled here, every peer's part has arrived and its messages are acknowledged (R174, R176). -/
def endGather (n : Nat) (s : State) : State := match findFlight s n with
  | none => s
  | some f => match f.work with
    | .gather g =>
      if g.pooled && g.awaits.isEmpty && f.msgs = 0 && f.done.isNone then
        let s := updFlight n (fun w => { w with work := .none_ }) (writeCombined n f g s)
        freeAllDrained (finishFlight n 0 s)
      else s
    | _ => s

/-! ### The checks of pooling instances (15 R401, R402) -/

/-- The tiles that pool a batch: each that has pairs of a die is one pooling instance. -/
def poolingTiles (s : State) (p : Part) (g : Gather) : List Nat :=
  g.keys.flatMap fun k =>
    let ts := (partTiles p).filter fun t => t / 32 = (partDies p).getD k.1 0
    ((dieContribs s (tilesPerDie p) (recsOf g.keys k.1)).map (·.1)).eraseDups.filterMap fun i => ts[i]?

/-- The tile of a pooling instance's duplicate: on another die of the partition where one works (R403). -/
def poolDup (s : State) (p : Part) (t : Nat) : Option Nat :=
  let l := (partTiles p).filter fun u => u != t && working s u
  (l.find? fun u => u / 32 != t / 32).or l.head?

/-- Why a pooling instance on a tile is checked, given its draw. -/
def poolReason (s : State) (f : Flight) (t draw : Nat) : Option Nat :=
  if f.sampling = 3 then some 1
  else if (getTile s t).forced then some 2
  else if draw < sampleThreshold f.sampling then some 0
  else none

/-- One pooling instance. The model pools in one step, so the duplicate of a checked instance has run and agreed when the step
ends (DESIGN CHOICE, log 26). -/
def poolCheck (f : Flight) (p : Part) (inst t : Nat) (s : State) : State :=
  let d := sampleDraw f.part s
  let s := d.2
  match poolReason s f t d.1, poolDup s p t with
  | some r, some u =>
    let c := s.integ.nextSeq
    let k : Check := {
      part := f.part, flight := f.num, inst, reason := r, start := now s, beat := beatNo s, startEdge := s.beat.edges
      primary := t, dup := some u, third := none, ends := [], st := .passed, resolved := now s, resolvedEdge := s.beat.edges
      inPlace := false, dupFirst := false }
    renewAge [t, u] (now s) (updTile t (fun w => { w with forced := false }) (updInteg (fun g => { g with
      nextSeq := c + 1
      checks := smSet g.checks c k }) s))
  | _, _ => s

def poolChecks (f : Flight) (g : Gather) (s : State) : State := match findPart s f.part with
  | none => s
  | some p => (poolingTiles s p g).zipIdx.foldl (fun s x => poolCheck f p x.2 x.1 s) s

/-- Pool the gather, unless an apply window withholds its fetches (07 R201). -/
def poolNow (n : Nat) (f : Flight) (g : Gather) (s : State) : State :=
  if g.held || g.features.any (fun x => withheld s x.table) then updGather n (fun g => { g with held := true }) s
  else
    let s := poolAll n f g (poolChecks f g s)
    let s := updTables (fun x => { x with
      worked := x.worked.filter (fun w => !(w.1 = f.context && w.2.work.head? = g.work.head?)) ++ [(f.context, g)] }) s
    updGather n (fun g => { g with pooled := true })
      (meterHbm f.part (g.features.foldl (fun k x => k + x.counts.length * x.stride) 0) s)

/-- Go on with a gather: its stages meet admission; pool once every die is fetched. -/
def settleGather (n : Nat) (s : State) : State :=
  match findFlight s n with
  | none => s
  | some f => match f.work with
    | .gather g =>
      let s := admitStages n f g s
      (match findFlight s n with
      | none => s
      | some f => match f.work with
        | .gather g =>
          if g.fetched.length < g.keys.length || f.done.isSome then s
          else endGather n (if g.pooled then s else poolNow n f g s)
        | _ => s)
    | _ => s

/-! ### Serving another device's gather (R174, R176) -/

/-- A feature of a message, its table made absolute with the base of the receiving partition's block (14 R385). -/
def gwToFeature (base : Nat) (b : List Byte) : Nat × GFeature :=
  (num b 20 4, {
    table := base + num b 0 2, version := num b 2 2, slot := 0, pool := num b 4 1 % 4, outFmt := num b 5 1 % 4, out := 0
    stride := 0, counts := List.replicate (num b 16 4) 0, first := num b 8 4, span := num b 12 4, colgroup := 0xFFFF
    rowOwner := bit (num b 6 1) 0 })

def gwToKey (base : Nat) (b : List Byte) : YKey :=
  { key := num b 0 8 + base * 2 ^ 40, dest := num b 8 4, weight := BitVec.ofNat 32 (num b 12 4), pos := num b 16 4 }

def gwFeatures (base : Nat) (b : List Byte) : List (Nat × GFeature) :=
  (List.range (num b 2 2)).map fun i => gwToFeature base (slice b (64 + 32 * i) 32)

def gwKeysOf (base : Nat) (b : List Byte) : List YKey :=
  let o := 64 + 32 * num b 2 2
  (List.range (num b 28 4)).map fun i => gwToKey base (slice b (o + 24 * i) 24)

/-- The die of a key at its owner (R150). -/
def ownDie (s : State) (fs : List (Nat × GFeature)) (k : YKey) : Nat :=
  match fs.find? (fun f => f.2.table = keyTable k.key), findTable s (keyTable k.key) with
  | some f, some t => match servedSlot t f.2.version with
    | some v => (layoutOf s t v).die (keyRow k.key)
    | none => 0
  | _, _ => 0

/-- Put keys of a message into a served gather. -/
def addKeys (s : State) (die : Nat) (ks : List YKey) (w : Served) : Served :=
  let put (m : SMap (List YKey)) (d : Nat) (l : List YKey) : SMap (List YKey) := smSet m d (smGet m [] d ++ l)
  { w with
    got := w.got + 1
    keys := if w.op = 0 then put w.keys die ks else ks.foldl (fun m k => put m (ownDie s w.features k) [k]) w.keys }

def sameServed (peer tag op : Nat) (w : Served) : Bool := w.peer = peer && w.tag = tag && w.op = op && !w.done

/-- Positions of each destination, from the keys: a column split's peers receive every key of it. -/
def countDests (w : Served) : Served :=
  let ks := w.keys.flatMap (·.2)
  { w with features := w.features.map fun x => (x.1, { x.2 with
      counts := (destsOf w.bags x.1 x.2).map fun d => (ks.filter (ofDest x.2 d)).length }) }

/-- An element of an answer: feature, destination (its place, or its number), byte or count, and the vector. -/
def gwVec (i d k : Nat) (b : List Byte) : List Byte := padTo 16 (rec_ 16 [(0, 4, i), (4, 4, d), (8, 4, k), (12, 4, b.length)] ++ b)

/-- The vectors this device contributes to a gather it serves. -/
def servedVecs (s : State) (p : Part) (w : Served) : List (List Byte) :=
  w.features.flatMap fun x => match findTable s x.2.table with
    | none => []
    | some t => match servedSlot t x.2.version with
      | none => []
      | some v =>
        let l := layoutOf s t v
        if l.n = 0 then [] else
        (destsOf w.bags x.1 x.2).zipIdx.filterMap fun d =>
          let pooled := poolFeature s p t v x.2 w.keys d.1
          let count := x.2.counts.getD d.2 0
          if w.op = 0 then some (gwVec x.1 d.2 (sliceOff t l x.2) (outVector x.2 l.n count pooled))
          else pooled.map fun u => gwVec x.1 d.1 count ((codes32 u).flatMap fun c => le 4 c.toNat)

/-- Steps 3 and 4 of R174, 2 and 3 of R176: fetch, pool and send what this device holds. -/
def serveGather (w : Served) (s : State) : State := match findPart s w.partition with
  | none => s
  | some p =>
    let w := countDests w
    let vecs := cutList gwVecsPer (servedVecs s p w)
    let accs := w.features.flatMap fun x => match findTable s x.2.table with
      | some t => match servedSlot t x.2.version with
        | some v => fetchAccs s p t v x.2 w.keys
        | none => []
      | none => []
    let s := accs.foldl (fun s a => countErrors a s) s
    let s := vecs.foldl (fun s c => sendGw none w.partition w.context w.peer
      (gwHeader (if w.op = 0 then gwSlices else gwPartials) 0 0 vecs.length w.tag w.work w.bags c.length ++ c.flatten) s) s
    let s := if w.op = 0 then s else meterKeys w.partition (w.keys.flatMap (·.2)).length s
    updTables (fun x => { x with
      served := x.served.map fun y => if sameServed w.peer w.tag w.op y then { w with done := true } else y }) s

/-- Gathers served for other devices go on: every message has arrived and no apply window withholds a fetch. -/
def settleServed (s : State) : State :=
  let l := s.tables.served.filter fun w => !w.done && w.got = w.total
  let s := l.foldl (fun s w => if w.features.any (fun x => withheld s x.2.table) then s else serveGather w s) s
  if l.isEmpty then s else freeAllDrained s

/-- A message of records or keys arrives whole. -/
def takeKeys (peer part base context : Nat) (b : List Byte) (s : State) : State :=
  let op := num b 0 1
  let tag := num b 8 8
  let fresh : Served := {
    peer, tag, op, partition := part, context, work := num b 16 8, features := gwFeatures base b, bags := num b 24 4
    keys := [], got := 0, total := num b 4 4, done := false, grads := [], gotGrads := [] }
  let w := (s.tables.served.find? (sameServed peer tag op)).getD fresh
  let others := s.tables.served.filter fun y => !sameServed peer tag op y &&
    !(y.done && y.peer = peer && y.op = op && y.work = fresh.work)
  settleServed (updTables (fun x => { x with
    served := others ++ [addKeys s (num b 1 1) (gwKeysOf base b) w] }) s)

/-- The vectors of an answer. -/
def gwVecsOf : Nat → List Byte → List (Nat × Nat × Nat × List Byte)
  | 0, _ => []
  | k + 1, b =>
    let n := num b 12 4
    (num b 0 4, num b 4 4, num b 8 4, slice b 16 n) :: gwVecsOf k (b.drop (roundUp (16 + n) 16))

/-- One message of a peer's answer has arrived. -/
def countAwait (peer op total : Nat) (g : Gather) : Gather :=
  let l := g.awaits.map fun a => if a.1 = peer && a.2.1 = op then (a.1, a.2.1, a.2.2 + 1) else a
  { g with awaits := l.filter fun a => !(a.1 = peer && a.2.1 = op && total ≤ a.2.2) }

/-- A peer's slices go to the output vectors, its partials are kept in order of arrival (R174 step 4, R176 step 4). -/
def takeVec (n : Nat) (f : Flight) (op : Nat) (g : Gather) (v : Nat × Nat × Nat × List Byte) (s : State) : State :=
  if op = gwPartials then
    let codes : List U32 := (List.range (v.2.2.2.length / 4)).map fun i => BitVec.ofNat 32 (num v.2.2.2 (4 * i) 4)
    updGather n (fun g => { g with partials := g.partials ++ [(v.1, v.2.1, codes)] }) s
  else match g.features[v.1]? with
    | none => s
    | some x =>
      if x.counts.length ≤ v.2.1 || x.stride < v.2.2.1 + v.2.2.2.length then s else
      let a := writeVa f.context (x.out + v.2.1 * x.stride + v.2.2.1) v.2.2.2 s
      noteAcc n true a.2 a.1

/-- A message of an answer arrives whole; one that no gather waits for is discarded. -/
def takeAnswer (peer : Nat) (b : List Byte) (s : State) : State :=
  let op := num b 0 1
  let n := num b 8 8
  match findFlight s n with
  | none => s
  | some f => match f.work with
    | .gather g =>
      if !(g.awaits.any (fun a => a.1 == peer && a.2.1 + gwSlices == op)) then s else
      let s := (gwVecsOf (num b 28 4) (b.drop 64)).foldl (fun s v => takeVec n f op g v s) s
      settleGather n (updGather n (countAwait peer (op - gwSlices) (num b 4 4)) s)
    | _ => s

/-- Every gather goes on. -/
def settleGathers (s : State) : State := settleServed (s.flights.foldl (fun s f => settleGather f.num s) s)

/-- Gathers held for an apply are released (02 R50 step 9, R52). -/
def releaseGathers (s : State) : State :=
  settleGathers { s with flights := s.flights.map fun f => match f.work with
    | .gather g => if g.features.any (fun x => withheld s x.table) then f else { f with work := .gather { g with held := false } }
    | _ => f }

/-- A die's Yarrow batch ends: records, pairs, then the summary and the fence at UNIQUE + 2³² (R167). -/
def yarrowDone (n d : Nat) (s : State) : State :=
  match findFlight s n with
  | none => s
  | some f => match f.work with
    | .gather g =>
      let recs := dieRecs g d
      let w := g.work.getD d 0
      let s := writeYarrow (some n) f.context w recs recs.length s
      let a := writeVa f.context w (yarrowSummary s g w recs) s
      let s := fenceRaise false ((g.pfence + d) % 2 ^ 18) (recs.length + 2 ^ 32) (noteAcc n true a.2 a.1)
      let s := sendRecords n f g d (updGather n (fun g => { g with done := g.done ++ [d] }) s)
      settleGather n (beginBatches f.part s)
    | _ => s

/-- The die's batch is in progress. -/
def yarrowRunning (s : State) (n d : Nat) : Bool := match findFlight s n with
  | none => false
  | some f => f.done.isNone && match f.work with
    | .gather g => d < g.keys.length && g.begun.contains d && !g.done.contains d
    | _ => false

/-- YARROW_PROGRESS: the fence advances with the records whose pairs are all written (R167). -/
def yarrowProgress (n d k : Nat) (s : State) : State :=
  match findFlight s n with
  | none => s
  | some f => match f.work with
    | .gather g =>
      let recs := dieRecs g d
      fenceRaise false ((g.pfence + d) % 2 ^ 18) (min k recs.length)
        (writeYarrow (some n) f.context (g.work.getD d 0) recs (min k recs.length) s)
    | _ => s

def execYarrowProgress (flight die records : Nat) (s : State) : Res :=
  doWhen (yarrowRunning s flight die) (yarrowProgress flight die records s) s

/-! ### Top-k (R179, R180) -/

structure TopK where
  segs : Nat
  len : Nat
  k : Nat
  bf16 : Bool
  scores : Nat
  stride : Nat
  out : Nat
  fence : Nat
  value : Nat
  deriving DecidableEq, Repr

def parseTopK (b : List Byte) : TopK :=
  let len := clampN 1 16777215 (num b 4 4)
  let bf := num b 10 1 % 16 = 1
  { segs := clampN 1 16777215 (num b 0 4), len, k := clampN 1 1024 (num b 8 2), bf16 := bf, scores := pAddr b 16
    stride := roundUp (max (num b 24 8) (len * if bf then 2 else 4)) 64, out := pAddr b 32, fence := num b 40 8 % 2 ^ 18
    value := num b 48 8 }

/-- Higher rank first: a larger score, then a lower index; NaN below every number. -/
def rankLt (a b : Nat × U32) : Bool :=
  let x := f32 a.2
  let y := f32 b.2
  if isNan x then isNan y && a.1 < b.1
  else if isNan y then true
  else ltF y x || (eqF x y && a.1 < b.1)

def topkSegment (x : TopK) (b : List Byte) : List Byte :=
  let scores := (List.range x.len).map fun i =>
    (i, BitVec.ofNat 32 (if x.bf16 then num b (2 * i) 2 * 65536 else num b (4 * i) 4))
  let top := (insertSort rankLt scores).take x.k
  (top ++ List.replicate (x.k - top.length) (0xFFFFFFFF, 0xFF800000)).flatMap fun (e : Nat × U32) => le 4 e.1 ++ le 4 e.2.toNat

def topkOk (s : State) (part : Option Nat) (c : Nat) (wait : Bool) (x : TopK) : Verdict :=
  firstBad [need (fenceOwner s x.fence == part) stFenceNotOwned,
    rangeOk s c x.scores (matSpan x.segs x.stride (x.len * if x.bf16 then 2 else 4)) true false wait,
    rangeOk s c x.out (8 * x.k * x.segs) false true wait]

/-- Run a YARROW_TOPK node. -/
def runTopK (c n : Nat) (x : TopK) (s : State) : State :=
  let s := (List.range x.segs).foldl (fun s i =>
    let a := readVa s c (x.scores + i * x.stride) (x.len * if x.bf16 then 2 else 4)
    let w := writeVa c (x.out + 8 * x.k * i) (topkSegment x a.data) s
    noteAcc n true w.2 (noteAcc n false a w.1)) s
  finishFlight n 0 (fenceRaise false x.fence x.value s)

end Sys2Proof.Machine
end

