-- ==== Sys2Proof/Machine/Updates.lean ====
section
/-! DEFINITION. Updating tables while serving (07): forming update entries, collecting them, merging, and the apply window. -/

namespace Sys2Proof.Machine

/-! ### Payloads (R185) -/

/-- PFORMAT with its clamp: 0, 1, or 4 for gradients only. -/
def clampPf (gradient : Bool) (v : Nat) : Nat :=
  let v := v % 16
  if v = 0 || (v = 4 && gradient) then v else 1

/-- Bytes of n values in a payload format. -/
def payloadLen (pf n : Nat) : Nat :=
  if pf = 0 then 4 * n else if pf = 4 then roundUp (ceilDiv n 32) 16 + n else 2 * n

/-- The values of a payload, expanded to FP32 (R185, R191). -/
def payloadVals (pf n : Nat) (b : List Byte) : List FVal :=
  (List.range n).map fun i =>
    if pf = 0 then fmtFp32.decode (num b (4 * i) 4)
    else if pf = 4 then (r32 (mulF (decodeEl 4 (num b (roundUp (ceilDiv n 32) 16 + i) 1)) (decodeE8m0 (num b (i / 32) 1)))).1
    else fmtBf16.decode (num b (2 * i) 2)

/-- Elements [first, first + k) of a whole-row payload of n elements, with the format they travel in. A block-scaled slice
that does not begin on a block of 32 travels as BF16 values (log 24). -/
def cutPayload (pf n : Nat) (b : List Byte) (first k : Nat) : Nat × List Byte :=
  if pf = 0 then (0, slice b (4 * first) (4 * k))
  else if pf = 4 then
    if first % 32 = 0 then
      (4, padTo 16 (slice b (first / 32) (ceilDiv k 32)) ++ slice b (roundUp (ceilDiv n 32) 16 + first) k)
    else (1, (((payloadVals 4 n b).drop first).take k).flatMap fun v => le 2 (convTo 1 false false v).code)
  else (1, slice b (2 * first) (2 * k))

/-! ### Collection (R186 to R189) -/

/-- TSC at which collection for an apply beat closes for a table. -/
def closeAt (s : State) (t : Table) (a : Nat) : Nat := a * beatNs s - t.cutoff * 1000

/-- APPLY_BEAT of an entry stamped now (R186). -/
def applyBeat (s : State) (t : Table) : Nat :=
  if now s < closeAt s t (beatNo s + 1) then beatNo s + 1 else beatNo s + 2

def isClosed (s : State) (t : Table) (a : Nat) : Bool := closeAt s t a ≤ now s || s.tables.closed.contains (t.partition, a)

/-- The first beat from `a` on whose collection is open; at most two are closed ahead of the present beat. -/
def openBeat (s : State) (t : Table) (a : Nat) : Nat :=
  let b := max a (beatNo s + 1)
  if !isClosed s t b then b else if !isClosed s t (b + 1) then b + 1 else b + 2

/-- The parameter block as last read (R183). -/
def paramBlock (s : State) (id : Nat) (t : Table) : List Byte :=
  match smFind s.tables.params id with
  | some b => b
  | none => getVa s t.context t.paramAddr 48

/-- Room taken in a table's collection area of a partition die. -/
def areaUsed (s : State) (id die : Nat) : Nat :=
  s.tables.entries.foldl (fun n e => if e.table = id && e.die = die then n + e.bytes else n) 0

/-- Room that messages of gradients under way have reserved in each of a table's areas (14 R383; log 48). -/
def reservedRoom (s : State) (table : Nat) : Nat :=
  s.net.flows.foldl (fun n f => f.2.rxMsgs.foldl (fun n m => match m.win with
    | some w => if m.type = tyAtomic && !m.refused && !m.effects && w.kind = 1 && w.table = table then
        n + num m.header 52 4 % 2 ^ 21 + 48 * (num m.header 52 4 % 2 ^ 21 / 128) else n
    | none => n) n) 0

def areaRoom (s : State) (id : Nat) (t : Table) (die need : Nat) : Bool :=
  areaUsed s id die + reservedRoom s id + need ≤ num (paramBlock s id t) 40 4

/-- Room an entry occupies (R189). -/
def entryRoom (payload : Nat) : Nat := 64 + roundUp payload 64 + 48

/-- The layout that holds a collected row: the tracking version's for a tracking overwrite, else the current one's. -/
def entryLayout (s : State) (t : Table) (kind : Nat) : Layout :=
  layoutOf s t (if kind = 2 && t.pend.tracking then t.pend else t.cur)

/-- Collect an entry on this device: its die, its apply beat when late, its room. `src`: the source of UPDATE_LATE. -/
def collect (src : Nat) (e : Entry) (s : State) : State × Bool :=
  match findTable s e.table with
  | none => (s, false)
  | some t =>
    let l := entryLayout s t e.kind
    let die := if l.holds e.row then l.die e.row else 0
    let b := entryRoom e.payload.length
    if t.rows ≤ e.row then (addParam e.table 120 1 s, true)
    else if !areaRoom s e.table t die b then (addParam e.table 104 1 s, false)
    else
      let late := isClosed s t e.beat || e.beat ≤ beatNo s
      let beat := if late then openBeat s t e.beat else e.beat
      let s := if late then
          emit src evUpdateLate t.partition [(20, 2, e.table), (24, 8, e.beat), (32, 8, beat)] (addParam e.table 96 1 s)
        else s
      (updTables (fun x => { x with entries := x.entries ++ [{ e with
        beat := beat
        die := die
        bytes := b }] }) s, true)

/-- The entry of an entry form. -/
def entryOf (f : EntryForm) : Entry :=
  { table := f.table, row := f.row, kind := f.kind, stamp := f.stamp, dev := f.dev, src := f.src, version := f.version
    pformat := f.pformat, keep := bit f.eflags 0, withState := bit f.eflags 1, beat := f.beat, first := f.first
    nelems := f.nelems, pos := f.pos, payload := f.payload, die := 0, bytes := 0 }

/-- Note the first rejecting status of a command (R189). -/
def noteReject (n st : Nat) (s : State) : State :=
  updFlight n (fun f => { f with status := if f.status = 0 then st else f.status }) s

/-- An entry as it travels between devices: the table named by its relative ID (14 R385; log 23). -/
def gwEntry (s : State) (e : EntryForm) : List Byte :=
  gwHeader gwEntries 0 0 1 0 0 0 1 ++ entryBytes { e with table := relTable s e.table }

/-- Send an entry to its holder: this device's collection, or a message into a gather window of the other device, since an
update window takes only finished FP32 gradients and copies (14 R383, 06 R178; log 23). -/
def sendEntry (n : Option Nat) (dev : Nat) (e : EntryForm) (s : State) : State :=
  if dev = deviceNo s then
    let x := collect srcCmd (entryOf e) s
    if x.2 then x.1 else match n with
      | some n => noteReject n stUpdateCollectFull x.1
      | none => x.1
  else if !reachable s dev then (match n with
    | some n => noteReject n stNetUnreachable s
    | none => s)
  else match findTable s e.table with
    | some t => sendGw n t.partition t.context dev (gwEntry s e) s
    | none => s

/-- A source row: index, payload of the whole row, state with it. -/
structure SrcRow where
  row : Nat
  pf  : Nat
  payload : List Byte
  state : Option RowState
  deriving DecidableEq, Repr

/-- Form and send the entries of a batch of rows (R184, R188): one per holder of the row among the devices named. -/
def sendRows (n : Nat) (id kind version eflags stamp beat : Nat) (devs : State → Table → List (Nat × Nat)) (rows : List SrcRow)
    (s : State) : State :=
  match findTable s id with
  | none => s
  | some t =>
    rows.zipIdx.foldl (fun s x =>
      let r := x.1
      if t.rows ≤ r.row then addParam id 120 1 s else
      (devs s t).foldl (fun s d =>
        match partOf t t.cur r.row d.2 with
        | none => s
        | some (first, k) =>
          let c := cutPayload r.pf t.elems r.payload first k
          let payload := match r.state with
            | none => c.2
            | some st => let z := cutState t t.elems first k st; padTo 64 (c.2 ++ [BitVec.ofNat 8 z.opt]) ++ z.st
          sendEntry (some n) d.1 {
            table := id, row := r.row, kind, stamp, dev := deviceNo s, src := srcCmd, version, pformat := c.1, eflags
            beat, first, nelems := k, pos := x.2, payload } s) s) s

/-- End an update command once every entry is accepted or rejected. -/
def endUpdate (n : Nat) (s : State) : State :=
  match findFlight s n with
  | none => s
  | some f => if f.msgs = 0 then finishFlight n f.status s else updFlight n (fun f => { f with work := .net }) s

/-! ### UPDATE_APPLY and PUBLISH_ROWS (R185, R190, 11 R310) -/

def updTabId (r : Req) : Nat := num r.slot 66 2 % 4096
def updCount (r : Req) : Nat := num r.slot 88 4
/-- The VERSION the entries carry: the expert field, else CURRENT. -/
def updVersion (t : Table) (r : Req) : Nat :=
  if r.level && !r.expert.isEmpty then xField r.expert 0 2 else t.cur.version

def gatherForm (r : Req) : Bool := num r.slot 64 1 != 0

/-- Unique records of a work area as read back: key and its pairs (destination, weight). -/
def readWork (s : State) (c w : Nat) : List (Nat × List (Nat × U32)) :=
  let sum := (readVa s c w 64).data
  let ua := va48 (num sum 24 8)
  let pa := va48 (num sum 32 8)
  (List.range (num sum 0 4)).map fun i =>
    let b := (readVa s c (ua + 16 * i) 16).data
    let cnt := num b 8 3
    let ps := (readVa s c (pa + 8 * num b 12 4) (8 * cnt)).data
    (num b 0 8, (List.range cnt).map fun j => (num ps (8 * j) 4, BitVec.ofNat 32 (num ps (8 * j + 4) 4)))

/-- The ranges the gather form reads: summary, records, pairs of each die's work area. -/
def workRanges (s : State) (r : Req) (w : Nat) : Verdict :=
  let wt := hWaitMap r.slot
  match rangeOk s r.ctx w 64 true false wt with
  | .ok =>
    let sum := (readVa s r.ctx w 64).data
    firstBad [rangeOk s r.ctx (va48 (num sum 24 8)) (16 * num sum 0 4) true false wt,
      rangeOk s r.ctx (va48 (num sum 32 8)) (8 * num sum 4 4) true false wt]
  | v => v

def updWork (s : State) (r : Req) : List Nat :=
  (List.range (partDieCount s (r.part.getD 0))).map fun k => pAddr r.slot (96 + 8 * k)

def updOk (s : State) (r : Req) (gradient : Bool) : Verdict :=
  match findTable s (updTabId r) with
  | none => .bad stTableInvalid
  | some t => firstBad [need (t.context = r.ctx) stTableNotOwned,
      need (t.paramAddr != 0 && (!gradient || t.opt != 0)) stUpdatesDisabled]

/-- Bytes between rows of a batch and of one row of it. -/
def gradRow (t : Table) (pf : Nat) : Nat := payloadLen pf t.elems
def pubRow (t : Table) (r : Req) : Nat :=
  let pf := clampPf false (num r.slot 92 1)
  if bit (num r.slot 93 1) 1 then roundUp (payloadLen pf t.elems + 1) 64 + stateBytes t t.elems else payloadLen pf t.elems
def pubStride (t : Table) (r : Req) : Nat := let v := num r.slot 96 4; if v = 0 then pubRow t r else v

def ownUpdate (s : State) (r : Req) : Verdict :=
  match updOk s r true, findTable s (updTabId r) with
  | .ok, some t =>
    let w := hWaitMap r.slot
    if gatherForm r then firstBad ((updWork s r).map (workRanges s r))
    else
      let row := gradRow t (clampPf true (num r.slot 92 1))
      firstBad [rangeOk s r.ctx (pAddr r.slot 72) (8 * updCount r) true false w,
        rangeOk s r.ctx (pAddr r.slot 80) (row * updCount r) true false w]
  | v, _ => v

/-- What the device keeps of a destination of the gather whose work area is named: pooling and position count (R190). -/
def destOf (bags : Nat) (fs : List (Nat × GFeature)) (table dest : Nat) : Nat × Nat :=
  (fs.findSome? fun f => if f.2.table != table then none else
    ((destsOf bags f.1 f.2).zip f.2.counts).findSome? fun d => if d.1 = dest then some (f.2.pool, d.2) else none).getD (0, 0)

/-- The gradient of one unique record over n elements: Σ weight × dL/d(destination), in pair order; `kind`: pooling and
position count of a destination, `grad`: its gradient (R190). -/
def recordGrad (n : Nat) (kind : Nat → Nat × Nat) (grad : Nat → List FVal) (pairs : List (Nat × U32)) : List FVal :=
  pairs.foldl (fun acc p =>
    let d := kind p.1
    if d.1 = 2 then acc else
    (acc.zip (grad p.1)).map fun a =>
      let v := if d.1 = 1 then div32x a.2 (ofInt d.2) else a.2
      (r32 (fmaF (f32 p.2) v a.1)).1) ((List.range n).map fun _ => .fin false 0 0)

/-- The destination gradients of the command: FP32, whole rows. -/
def destGrad (s : State) (r : Req) (t : Table) (dest : Nat) : List FVal :=
  let stride := let v := num r.slot 136 4; if v = 0 then 4 * t.elems else v
  let b := (readVa s r.ctx (pAddr r.slot 128 + dest * stride) (4 * t.elems)).data
  (List.range t.elems).map fun i => fmtFp32.decode (num b (4 * i) 4)

/-- The gather whose work area the command names. -/
def namedGather (s : State) (r : Req) : Option Gather :=
  (s.tables.worked.find? fun w => w.1 = r.ctx && w.2.work.head? = (updWork s r).head?).map (·.2)

def numbered (g : Gather) : List (Nat × GFeature) := g.features.zipIdx.map fun f => (f.2, f.1)

def gatherRows (s : State) (r : Req) (t : Table) : List SrcRow :=
  let kind (d : Nat) : Nat × Nat := match namedGather s r with
    | some g => destOf g.bags (numbered g) (updTabId r) d
    | none => (0, 0)
  (updWork s r).flatMap fun w => (readWork s r.ctx w).filterMap fun x =>
    if keyNull x.1 || keyTable x.1 != updTabId r then none
    else some { row := keyRow x.1, pf := 0, state := none,
                payload := (recordGrad t.elems kind (destGrad s r t) x.2).flatMap fun v => le 4 (pack32 v).1.toNat }

/-! #### Slices of destination gradients between devices (R190)

Each device of the column group forms its entries from the unique records it already holds. -/

/-- Header fields of such a message beside those of a gather's: table, version, slice, STAMP and APPLY_BEAT (log 23). -/
def gradHeader (s : State) (total work count id version first k stamp beat : Nat) : List Byte :=
  patch (gwHeader gwGradients 0 0 total 0 work 0 count) 32
    (le 2 (relTable s id) ++ le 2 version ++ le 4 first ++ le 4 k ++ zeros 4 ++ le 8 stamp ++ le 8 beat)

/-- Destinations of a table's features in a gather. -/
def tableDests (g : Gather) (id : Nat) : List Nat :=
  (numbered g).flatMap fun f => if f.2.table = id then destsOf g.bags f.1 f.2 else []

/-- Send slice j of each destination gradient to device j. -/
def sendGrads (n : Nat) (r : Req) (id version stamp beat : Nat) (t : Table) (s : State) : State := match namedGather s r with
  | none => s
  | some g =>
    let ds := cutList gwVecsPer (tableDests g id)
    (colDevices s t).foldl (fun s d =>
      if d.1 = deviceNo s || sliceLen t d.2 = 0 then s
      else if !reachable s d.1 then noteReject n stNetUnreachable s
      else ds.foldl (fun s c => sendGw (some n) t.partition t.context d.1
        (gradHeader s ds.length (g.work.headD 0) c.length id version (sliceFirst t d.2) (sliceLen t d.2) stamp beat ++
          c.flatMap fun x => gwVec 0 x 0 (((destGrad s r t x).drop (sliceFirst t d.2)).take (sliceLen t d.2) |>.flatMap
            fun v => le 4 (pack32 v).1.toNat)) s) s) s

/-- The served gather a message of gradients belongs to. -/
def gradsOf (s : State) (peer context : Nat) (b : List Byte) : Option Served :=
  s.tables.served.find? fun w => w.done && w.op = 0 && w.peer = peer && w.context = context && w.work = num b 16 8

/-- Unique records of a served gather that name a table, on each die. -/
def servedRecs (w : Served) (id : Nat) : List (Nat × List (Nat × U32)) :=
  w.keys.flatMap fun d => (recsOf w.keys d.1).filterMap fun x =>
    if keyNull x.1 || keyTable x.1 != id then none else some (x.1, x.2.map fun p => (p.dest, p.weight))

/-- The entries this device forms from a served gather's records and the gradients that arrived for it. -/
def gradEntries (w : Served) (id : Nat) (b : List Byte) : List Entry :=
  let k := num b 40 4
  let grad (d : Nat) : List FVal := match w.grads.find? fun x => x.1 = id && x.2.1 = d with
    | some x => x.2.2.map f32
    | none => (List.range k).map fun _ => .fin false 0 0
  (servedRecs w id).zipIdx.map fun x => {
    table := id, row := keyRow x.1.1, kind := 0, stamp := num b 48 8, dev := w.peer, src := srcCmd, version := num b 34 2
    pformat := 0, keep := false, withState := false, beat := num b 56 8, first := num b 36 4, nelems := k, pos := x.2
    payload := (recordGrad k (destOf w.bags w.features id) grad x.1.2).flatMap fun v => le 4 (pack32 v).1.toNat
    die := 0, bytes := 0 }

/-- A message of gradients arrives whole; with the last one the entries are collected. `beat`: its APPLY_BEAT here. -/
def takeGrads (peer base context src beat : Nat) (b : List Byte) (s : State) : State := match gradsOf s peer context b with
  | none => s
  | some w =>
    let id := base + num b 32 2
    let vs := (gwVecsOf (num b 28 4) (b.drop 64)).map fun v =>
      (id, v.2.1, (List.range (v.2.2.2.length / 4)).map fun i => BitVec.ofNat 32 (num v.2.2.2 (4 * i) 4))
    let got := smGet w.gotGrads 0 id + 1
    let w' := { w with
      grads := w.grads ++ vs
      gotGrads := smSet w.gotGrads id got }
    let whole := num b 4 4 ≤ got
    let w'' := if whole then { w' with
        grads := w'.grads.filter fun x => x.1 != id
        gotGrads := smDel w'.gotGrads id } else w'
    let s := updTables (fun x => { x with served := x.served.map fun y => if y == w then w'' else y }) s
    if whole then (gradEntries w' id b).foldl (fun s e => (collect src { e with beat } s).1) s else s

def batchRows (s : State) (r : Req) (pf row stride : Nat) (st : List Byte → Option RowState) : List SrcRow :=
  (List.range (updCount r)).map fun i =>
    let b := (readVa s r.ctx (pAddr r.slot 80 + i * stride) row).data
    { row := unle (readVa s r.ctx (pAddr r.slot 72 + 8 * i) 8).data, pf, payload := b, state := st b }

def echoBeat (n : Nat) (t : Table) (s : State) : State :=
  updFlight n (fun f => { f with echo := applyBeat s t % 2 ^ 24 }) s

def startUpdate (r : Req) (n : Nat) (s : State) : State :=
  match findTable s (updTabId r) with
  | none => finishFlight n stTableInvalid s
  | some t =>
    let id := updTabId r
    let beat := applyBeat s t
    let stamp := now s
    let v := updVersion t r
    let pf := clampPf true (num r.slot 92 1)
    let s := echoBeat n t s
    endUpdate n (
      if !gatherForm r then
        sendRows n id 0 v 0 stamp beat colDevices (batchRows s r pf (gradRow t pf) (gradRow t pf) fun _ => none) s
      else if t.colgroup = 0xFFFF || t.cur.rowOwner then sendRows n id 0 v 0 stamp beat colDevices (gatherRows s r t) s
      else sendGrads n r id v stamp beat t (sendRows n id 0 v 0 stamp beat (fun s t => [(deviceNo s, t.slice)]) (gatherRows s r t) s))

def execUpdateApply (queue : Nat) (s : State) : Res :=
  .next (dispatch queue (isOp 0x306) oneUj ownUpdate startUpdate s)

def ownPublish (s : State) (r : Req) : Verdict :=
  match updOk s r false, findTable s (updTabId r) with
  | .ok, some t =>
    let w := hWaitMap r.slot
    firstBad [rangeOk s r.ctx (pAddr r.slot 72) (8 * updCount r) true false w,
      rangeOk s r.ctx (pAddr r.slot 80) (matSpan (updCount r) (pubStride t r) (pubRow t r)) true false w]
  | v, _ => v

/-- The state that follows a published row's values. -/
def pubState (t : Table) (r : Req) (b : List Byte) : Option RowState :=
  if bit (num r.slot 93 1) 1 then
    let k := payloadLen (clampPf false (num r.slot 92 1)) t.elems
    some { opt := num b k 1, st := slice b (roundUp (k + 1) 64) (stateBytes t t.elems) }
  else none

def startPublish (r : Req) (n : Nat) (s : State) : State :=
  match findTable s (updTabId r) with
  | none => finishFlight n stTableInvalid s
  | some t =>
    let pf := clampPf false (num r.slot 92 1)
    let rows := batchRows s r pf (pubRow t r) (pubStride t r) (pubState t r)
    endUpdate n (sendRows n (updTabId r) 1 (updVersion t r) (num r.slot 93 1 % 4) (now s) (applyBeat s t) colDevices rows (echoBeat n t s))

def execPublishRows (queue : Nat) (s : State) : Res :=
  .next (dispatch queue (isOp 0x307) oneUj ownPublish startPublish s)

/-! ### Closing and merging (R187, R191) -/

def partTables (s : State) (p : Nat) : List (Nat × Table) := s.tables.tab.filter fun t => t.2.partition = p

/-- The TSC at which the partition's last table closes collection for the next beat. -/
def closeInstant (s : State) (p : Nat) : Nat :=
  let a := beatNo s + 1
  ((partTables s p).filter fun t => t.2.paramAddr != 0).foldl (fun m t => max m (closeAt s t.2 a)) (now s)

/-- COLLECTION_CLOSE: collection for the next beat closes on every table of the partition (R187; log 25). -/
def execCollectionClose (part : Nat) (s : State) : Res :=
  doWhen ((findPart s part).isSome && !s.tables.closed.contains (part, beatNo s + 1))
    (let a := beatNo s + 1
     updTables (fun x => { x with closed := x.closed ++ [(part, a)] }) (advance (min (closeInstant s part) (a * beatNs s - 1)) s)) s

/-- Entries of a partition's tables for an apply beat. -/
def entriesFor (s : State) (p a : Nat) : List Entry :=
  s.tables.entries.filter fun e => e.beat = a && e.kind != 3 && match findTable s e.table with
    | some t => t.partition = p
    | none => false

/-- UPDATE_MERGE_DONE: the die's Yarrow has sorted the entries; the keys are metered and charged (R191, 12 R328). A batch in
progress finishes first; one that waits begins after the merge. -/
def execUpdateMergeDone (part die : Nat) (s : State) : Res :=
  .next (match mergeBeat s part die, findPart s part with
    | some a, some p =>
      if die < (partDies p).length && !yarrowBusy s part die then
        let k := ((entriesFor s part a).filter fun e => e.die = die).length
        let s := updTables (fun x => { x with merged := x.merged ++ [(part, die, a)] }) s
        beginBatch part die (meterKeys part k (takeCharge part (keyCharge k) true s))
      else s
    | _, _ => s)

/-! ### The apply window (R192 to R200) -/

/-- The beat whose window may begin: closed, merged on every die, its step 8 reached (R192). -/
def windowBeat (s : State) (p : Nat) : Option Nat :=
  match findPart s p with
  | none => none
  | some w => (s.tables.closed.find? fun c => c.1 = p && c.2 ≤ beatNo s &&
      -- windows of two beats never overlap (02 R52; log 26)
      (s.tables.windows.all fun x => x.2.beat = c.2) &&
      (List.range (partDies w).length).all fun d => s.tables.merged.contains (p, d, c.2)).map (·.2)

/-- Tables of the partition with entries for the beat. -/
def windowTables (s : State) (p a : Nat) : List Nat := ((entriesFor s p a).map (·.table)).eraseDups

/-- Gathers in progress on these tables are held in basic consistency (R201). -/
def holdGathers (ts : List Nat) (s : State) : State :=
  { s with flights := s.flights.map fun f => match f.work with
    | .gather g => if g.features.any (fun x => ts.contains x.table && withheld s x.table)
        then { f with work := .gather { g with held := true } } else f
    | _ => f }

/-- APPLY_OVERRUN for every table of a window that has not finished when its head ends (02 R52, 17 R457). -/
def overrunOf (p : Nat) (w : Window_) (s : State) : State :=
  if w.overrun then s else
  let s := w.tables.foldl (fun s id =>
    let k := ((s.tables.entries.filter fun e => e.table = id && e.beat = w.beat && e.kind != 3).map (·.row)).eraseDups.length
    emit srcCmd evApplyOverrun p [(20, 2, id), (24, 8, w.beat), (32, 8, k)] s) s
  updTables (fun x => { x with windows := smSet x.windows p { w with overrun := true } }) s

def startWindow (p a : Nat) (s : State) : State :=
  let s := advance (a * beatNs s + 2000) s
  let ts := windowTables s p a
  let w : Window_ := { beat := a, tables := ts, overrun := false }
  let s := (partTables s p).foldl (fun s t => if t.2.paramAddr = 0 then s else
    updTables (fun x => { x with params := smSet x.params t.1 (getVa s t.2.context t.2.paramAddr 48) }) s) s
  let s := holdGathers ts (updTables (fun x => { x with windows := smSet x.windows p w }) s)
  -- one that begins after its own head has overrun it
  if s.beat.inHead && a = beatNo s then s else overrunOf p w s

/-- APPLY_WINDOW_START. -/
def execApplyWindowStart (part : Nat) (s : State) : Res :=
  .next (if (smFind s.tables.windows part).isSome then s else match windowBeat s part with
    | some a => startWindow part a s
    | none => s)

/-- Order of overwrites (R192). -/
def owLt (a b : Entry) : Bool :=
  a.stamp < b.stamp || (a.stamp == b.stamp && (a.dev < b.dev || (a.dev == b.dev &&
    (a.src < b.src || (a.src == b.src && a.pos < b.pos)))))

/-- One element of the merged gradient, in arrival order (R191). -/
def mergeEl (es : List (Entry × List FVal)) (el : Nat) : FVal :=
  let vals := es.filterMap fun x => if x.1.first ≤ el && el < x.1.first + x.1.nelems then x.2[el - x.1.first]? else none
  let r := vals.foldl (fun (a : Total × FVal × Nat) v =>
    let p := if a.2.2 = 0 then v else add32x a.2.1 v
    if a.2.2 + 1 = 64 then (addTotal true a.1 (p, 0), .fin false 0 0, 0) else (a.1, p, a.2.2 + 1)) ({}, .fin false 0 0, 0)
  (totalVal true (if 0 < r.2.2 then addTotal true r.1 (r.2.1, 0) else r.1)).1

def entryVals (e : Entry) : List FVal := payloadVals e.pformat e.nelems e.payload

/-- The state an overwrite entry carries. -/
def entryState (t : Table) (e : Entry) : RowState :=
  let k := payloadLen e.pformat e.nelems
  { opt := num e.payload k 1, st := slice e.payload (roundUp (k + 1) 64) (stateBytes t e.nelems) }

/-- Values and state of a row after its last overwrite (R192). -/
def overwritten (s : State) (t : Table) (l : Layout) (x : Nat) (last : Entry) : List FVal × RowState :=
  let old := rowNow s t l x
  let vs := entryVals last
  let w := old.1.zipIdx.map fun v =>
    let i := l.first + v.2
    if last.first ≤ i && i < last.first + last.nelems then vs.getD (i - last.first) v.1 else v.1
  if last.withState then (w, (mergeRow s t l x last.first vs last.nelems (entryState t last)).2)
  else (w, if last.keep then old.2 else zeroState t l.n)

/-- One row of the window: its entries applied to the CURRENT version's record; what was written, if anything. -/
structure RowDone where
  vals : List FVal
  st : RowState
  discarded : Nat
  deriving DecidableEq, Repr

def applyRow (s : State) (id : Nat) (t : Table) (p : OptParams) (c1 c2 : FVal) (beat x : Nat) (es : List Entry) : RowDone :=
  let l := layoutOf s t t.cur
  let ow := insertSort owLt (es.filter fun e => e.kind != 0)
  let gs := (es.filter fun e => e.kind = 0).map fun e => (e, entryVals e)
  let base := match ow.getLast? with
    | some last => overwritten s t l x last
    | none => rowNow s t l x
  if gs.isEmpty then { vals := base.1, st := base.2, discarded := 0 }
  else if !ow.isEmpty && t.discard then { vals := base.1, st := base.2, discarded := 1 }
  else
    let g := (List.range l.n).map fun i => mergeEl gs (l.first + i)
    let o := optimise t id x beat p c1 c2 base.1 g base.2
    { vals := o.1, st := o.2, discarded := 0 }

/-- Tracking overwrites of a written row (R200). -/
def sendTracking (id : Nat) (t : Table) (l : Layout) (x beat : Nat) (vals : List FVal) (st : RowState) (s : State) : State :=
  if !(t.pend.tracking && !isEmptyV t.pend) then s else
  (colDevices s t).foldl (fun s d =>
    match partOf t t.pend x d.2 with
    | none => s
    | some (pf, pn) =>
      let lo := max pf l.first
      let hi := min (pf + pn) (l.first + l.n)
      if hi ≤ lo then s else
      sendEntry none d.1 {
        table := id, row := x, kind := 2, stamp := now s, dev := deviceNo s, src := srcCmd, version := t.pend.version
        pformat := 0, eflags := 2, beat := beat + 1, first := lo, nelems := hi - lo, pos := 0
        payload := statePayload ((vals.drop (lo - l.first)).take (hi - lo)) (cutState t l.n (lo - l.first) (hi - lo) st) } s) s

/-- Tracking overwrites go into the tracking version while it is PENDING (R200). -/
def applyTracking (t : Table) (beat : Nat) (es : List Entry) (s : State) : State :=
  (insertSort owLt es).foldl (fun s e => putPart none t t.pend e.row e.first beat (entryVals e) (entryState t e) s) s

/-- The version an apply writes: the one CURRENT after step 6 of its beat, while it still is (R192, R199). -/
def applyVersion (s : State) (id beat : Nat) (t : Table) : Option Nat :=
  ((s.tables.targets.find? fun x => x.1 = beat && x.2.1 = id).map (·.2.2)).filter fun v =>
    t.cur.st == .current && t.cur.version = v

/-- The sticky flag word of a partition's optimiser-apply kernel takes what requantisation raised (R198). -/
def applyFlag (p : Nat) (sat : Bool) (s : State) : State :=
  if sat then updTables (fun x => { x with
    applyFlags := smSet x.applyFlags p (smGet x.applyFlags 0 p ||| withSource fSrcVector fSaturate) }) s
  else s

/-- Apply one table's entries to the version its beat names; what was not dropped (R192, R199). -/
def applyEntries (beat id : Nat) (t : Table) (p : OptParams) (es : List Entry) (s : State) : State :=
  let c1 := if t.opt = 3 then biasCorr p.beta1 p.step else fOne
  let c2 := if t.opt = 3 then biasCorr p.beta2 p.step else fOne
  let l := layoutOf s t t.cur
  let es := es.filter fun e => l.holds e.row
  let rows := insertSort (fun a b => a < b) (es.map (·.row)).eraseDups
  let s := rows.foldl (fun s x =>
    let d := applyRow s id t p c1 c2 beat x (es.filter fun e => e.row = x)
    let q := requantiseSat t d.vals
    let s := writeRow none t l x beat q.1 d.st (applyFlag t.partition q.2 s)
    sendTracking id t l x beat (recVals t l.n q.1) d.st (addParam id 88 d.discarded s)) s
  addParam id 64 rows.length (addParam id 72 (es.filter fun e => e.kind != 0).length
    (addParam id 80 (es.filter fun e => e.kind = 0).length s))

/-- The window's end for a table: its entries are applied, and the parameter block takes STEP and LAST_APPLY (R183). -/
def applyTable (beat id : Nat) (s : State) : State :=
  match findTable s id with
  | none => s
  | some t =>
    let all := s.tables.entries.filter fun e => e.table = id && e.beat = beat && e.kind != 3
    let s := updTables (fun x => { x with entries := x.entries.filter fun e => !(e.table = id && e.beat = beat && e.kind != 3) }) s
    let pending := t.pend.tracking && !isEmptyV t.pend
    let tr := if pending then all.filter fun e => e.kind = 2 else []
    let rest := if pending then all.filter fun e => e.kind != 2 else all
    let es := match applyVersion s id beat t with
      | none => []
      | some v => rest.filter fun e => !(t.vtarget && e.version != v)
    let s := addParam id 112 (rest.length - es.length) (applyTracking t beat tr s)
    let p0 := parseParams (paramBlock s id t)
    -- a row whose gradient an overwrite drops applies none (R183, R192)
    let hasGrad := es.any fun e => e.kind = 0 &&
      !(t.discard && es.any fun o => o.row = e.row && o.kind != 0)
    let p := { p0 with step := if hasGrad then (p0.step + 1) % 2 ^ 64 else p0.step }
    let s := applyEntries beat id t p es s
    let s := putVa t.context (t.paramAddr + 24) (le 8 p.step) s
    putVa t.context (t.paramAddr + 48) (le 8 beat) s

/-- Write the counts that wait into the parameter blocks (R183). -/
def flushCounts (p : Nat) (s : State) : State :=
  (partTables s p).foldl (fun s t => if t.2.paramAddr = 0 then s else
    let s := (smGet s.tables.counts [] t.1).foldl (fun s c =>
      putVa t.2.context (t.2.paramAddr + c.1) (le 8 ((unle (getVa s t.2.context (t.2.paramAddr + c.1) 8) + c.2) % 2 ^ 64)) s) s
    updTables (fun x => { x with counts := smDel x.counts t.1 }) s) s

/-- Copy entries that arrived while the window ran (R178). -/
def applyCopies (p : Nat) (s : State) : State :=
  let l := s.tables.entries.filter fun e => e.kind = 3 && match findTable s e.table with
    | some t => t.partition = p
    | none => false
  let s := updTables (fun x => { x with entries := x.entries.filter fun e => !l.contains e }) s
  l.foldl (fun s e => match findTable s e.table with
    | some t => if t.pend.st == .loading then putPart none t t.pend e.row e.first (beatNo s) (entryVals e) (entryState t e) s else s
    | none => s) s

/-- The window ends: every row is written, the parameter blocks updated, held fetches resume unless the head still runs. -/
def endWindow (p : Nat) (w : Window_) (s : State) : State :=
  let s := ((partTables s p).filter fun t => t.2.paramAddr != 0).foldl (fun s t => applyTable w.beat t.1 s) s
  let s := flushCounts p s
  let s := updTables (fun x => { x with
    windows := smDel x.windows p
    closed := x.closed.filter fun c => c != (p, w.beat)
    merged := x.merged.filter fun m => !(m.1 = p && m.2.2 = w.beat) }) s
  let s := applyCopies p s
  if s.beat.inHead then s else releaseGathers s

/-- APPLY_WINDOW_END. -/
def execApplyWindowEnd (part : Nat) (s : State) : Res :=
  .next (match smFind s.tables.windows part with
    | some w => endWindow part w s
    | none => s)

/-- APPLY_OVERRUN at the end of the beat head for every window that runs on (02 R52, 17 R457). -/
def overrunEvents (s : State) : State := s.tables.windows.foldl (fun s w => overrunOf w.1 w.2 s) s

end Sys2Proof.Machine
end

