-- ==== Sys2Proof/Machine/Graph.lean ====
section
/-! DEFINITION. Graphs of nodes (11 R308): LAUNCH_GRAPH and the dispatch of a node. -/

namespace Sys2Proof.Machine

def graphAddr (r : Req) : Nat := pAddr r.slot 64
def graphNodes (r : Req) : Nat := clampN 1 1024 (num r.slot 72 2)

def ownGraph (s : State) (r : Req) : Verdict :=
  rangeOk s r.ctx (graphAddr r) (64 * graphNodes r) true false (hWaitMap r.slot)

def startGraph (r : Req) (n : Nat) (s : State) : State :=
  updFlight n (fun f => { f with
    work := .graph { nodes := graphNodes r, addr := graphAddr r, started := [], starts := [], ended := [], failed := none, cur := [] } }) s

def execLaunchGraph (queue : Nat) (s : State) : Res :=
  .next (dispatch queue (isOp 0x201) oneUj ownGraph startGraph s)

/-- A node's 64 bytes. -/
structure NodeForm where
  kind : Nat
  deps : List Nat
  params : Nat
  expert : Nat
  indPtr : Nat
  indCount : Nat
  deriving DecidableEq, Repr

/-- Dependencies on the node itself or on a later node are ignored. -/
def parseNode (i : Nat) (b : List Byte) : NodeForm :=
  let k := num b 0 1
  { kind := if 5 < k then 0 else k
    deps := ((List.range (min 8 (num b 1 1))).map fun j => num b (2 + 2 * j) 2).filter (· < i)
    params := pAddr b 24, expert := num b 32 8 / 64 * 64, indPtr := num b 40 8 / 64 * 64, indCount := min 8 (num b 48 1 % 16) }

def nodeOpcode (kind : Nat) : Nat := [0x200, 0, 0x305, 0x306, 0x102, 2].getD kind 0x200
def nodeParamBytes (kind : Nat) : Nat := if kind = 1 then 64 else 192

/-- The node's slot: a header of the graph's context and LEVEL (04 R86), and the node's parameters. -/
def nodeSlot (g : Flight) (x : NodeForm) (params : List Byte) : List Byte :=
  let flags := b2n (hLevel g.slot) + 8 * b2n (hWaitMap g.slot)
  rec_ 64 [(0, 4, g.seq), (4, 2, nodeOpcode x.kind), (6, 1, flags), (36, 2, g.context), (38, 1, x.indCount),
    (40, 8, x.expert), (48, 8, x.indPtr)] ++ slice params 0 192

def nodeReq (s : State) (g : Flight) (x : NodeForm) (params : List Byte) : Req :=
  { queue := g.queue, part := if (findPart s g.part).isSome then some g.part else none, operator := isOperator s g.queue
    op := nodeOpcode x.kind, slot := nodeSlot g x params }

/-- The check of a node's own kind. -/
def nodeOwn (kind : Nat) (ds : List StreamDesc) (s : State) (r : Req) : Verdict :=
  match kind with
  | 0 => ownLaunch ds s r
  | 1 => topkOk s r.part r.ctx (hWaitMap r.slot) (parseTopK (r.slot.drop 64))
  | 2 => ownGather s r
  | 3 => ownUpdate s r
  | 4 => ownD2d s r
  | _ => .ok

/-- The charge of a node (12 R327, R328). -/
def nodeCharge (kind : Nat) (s : State) (r : Req) : Nat :=
  match kind with
  | 0 => launchCharge s r
  | 1 => let x := parseTopK (r.slot.drop 64); max 1 (keyCharge (x.segs * x.len))
  | 2 => gatherCharge s r
  | 4 => copyCharge 30 s r
  | _ => 1

/-- Run a dispatched node. -/
def nodeStart (kind : Nat) (ds : List StreamDesc) (r : Req) (n : Nat) (s : State) : State :=
  match kind with
  | 0 => startKernel ds r n s
  | 1 => runTopK r.ctx n (parseTopK (r.slot.drop 64)) s
  | 2 => startGather r n s
  | 3 => startUpdate r n s
  | 4 => runD2d r n s
  | _ => finishFlight n 0 (signalAll r s)

/-- The node's flight, with what its admission fixed. -/
def nodeFlight (s : State) (g : Flight) (i : Nat) (a : Ready) (r : Req) : Flight :=
  let c : Cmd := { seq := g.seq, bytes := g.slot, fetched := now s, covered := g.covered, origin := g.origin }
  { newFlight s r c a.charge g.lc false with
    node := some (g.num, i)
    since := a.since
    sampling := a.sampling }

/-- The node is running from now on. -/
def beginNode (g i num : Nat) (s : State) : State :=
  updFlight g (fun f => match f.work with
    | .graph w => { f with work := .graph { w with
        started := w.started ++ [i]
        starts := smSet w.starts i (now s, s.beat.edges)
        cur := smSet w.cur i num } }
    | _ => f) s

/-- A node fails before it runs. -/
def failNode (g : Flight) (i : Nat) (r : Req) (v : Verdict) (s : State) : State :=
  let x := verdictStatus v
  let f := { nodeFlight s g i (readyOf s r 0 g.lc 0) r with record := x.2 }
  finishFlight f.num x.1 (addFlight f (beginNode g.num i f.num (takeStage g.num i s)))

/-- A node whose dependencies are complete: parameters read, checks, charge, admission, effect. -/
def runNode (g : Flight) (i : Nat) (x : NodeForm) (ds : List StreamDesc) (s : State) : State :=
  let p := readChecked s g.context x.params (nodeParamBytes x.kind) false
  let r := nodeReq s g x p.2
  let bad (r : Req) (v : Verdict) : State := match v with
    | .snoop l => sendSnoops l s
    | v => failNode g i r v s
  match p.1 with
  | .ok =>
    match (if x.kind = 1 then .ok else firstBad (idents s r.part r.op r.slot)) with
    | .ok =>
      let y := resolve s r x.indPtr x.indCount x.expert
      match firstBad [y.1, if x.kind = 1 then .ok else checkResolved s y.2, nodeOwn x.kind ds s y.2] with
      | .ok =>
        let s := offerStage g.num i (readyOf s y.2 (nodeCharge x.kind s y.2) g.lc (hDeadline g.slot)) s
        match findStage s g.num i with
        | some a =>
          if !a.admitted then s else
          let s := takeStage g.num i s
          let f := nodeFlight s g i a y.2
          nodeStart x.kind ds y.2 f.num (addFlight f (beginNode g.num i f.num s))
        | none => s
      | v => bad y.2 v
    | v => bad r v
  | v => bad r v

/-- The node exists, has not started, and its dependencies are complete without a failure. -/
def nodeReady (w : Graph) (i : Nat) (x : NodeForm) : Bool :=
  i < w.nodes && !w.started.contains i && w.failed.isNone && x.deps.all fun d => w.ended.contains d

/-- An UPDATE_APPLY node waits like the command it is (15 R417). -/
def nodeMustWait (s : State) (g : Flight) (kind : Nat) : Bool :=
  kind = 3 && (partUnresolved s g.part || provHeld s g.part)

def execGraphNodeDispatch (flight node : Nat) (streams : List StreamDesc) (s : State) : Res :=
  .next (match findFlight s flight with
    | none => s
    | some g => match g.work with
      | .graph w =>
        let x := parseNode node (readVa s g.context (w.addr + 64 * node) 64).data
        if g.done.isNone && nodeReady w node x && !nodeMustWait s g x.kind && !s.beat.paused then runNode g node x streams s else s
      | _ => s)

end Sys2Proof.Machine
end

