-- ==== Sys2Proof/Machine/Sorrel.lean ====
section
/-! DEFINITION. Result integrity (15): signatures and comparison of checked runs, quarantine, retraction and replay, the
module fault, tests and self-test slots, the detectors of R423. -/

namespace Sys2Proof.Machine

/-! ### Runs on arrays -/

/-- Shape of the kernel a run belongs to. -/
def runShape (s : State) (r : Run) : Nat := match findFlight s r.flight with
  | some f => match f.work with
    | .kernel k => k.shape
    | _ => 0
  | none => 0

/-- Member tiles of the array a run occupies; the run stands on the array's first tile. -/
def runTiles (s : State) (t : Nat) : List Nat := match (getTile s t).run with
  | some r => arrayTiles (runShape s r) t
  | none => []

/-- Tiles that runs occupy. -/
def busyTiles (s : State) : List Nat := s.tiles.flatMap fun t => runTiles s t.1
def isBusy (s : State) (t : Nat) : Bool := (busyTiles s).contains t

def kernelOf (s : State) (n : Nat) : Option (Flight × Kernel) :=
  (findFlight s n).bind fun f => match f.work with
    | .kernel k => some (f, k)
    | _ => none

def updKernel (n : Nat) (g : Kernel → Kernel) (s : State) : State :=
  updFlight n (fun f => match f.work with
    | .kernel k => { f with work := .kernel (g k) }
    | _ => f) s

/-! ### Signatures (R408; log 29) -/

/-- The CRC-64 of each granule of an output, summed with that of flags, histograms and guard decisions. -/
def outGranules (outs : SMap Byte) : List Nat := (outs.map fun x => x.1 / 64).eraseDups
def sigGranule (outs : SMap Byte) (g : Nat) : Nat :=
  crc64 (le 8 (64 * g) ++ (List.range 64).map fun i => smGet outs 0 (64 * g + i))
def sigTail (flags : U32) (hists : SMap Hist) (guard : List Bool) : Nat :=
  crc64 (le 4 flags.toNat ++ hists.flatMap (fun h => le 4 h.1 ++ histRecord h.2 0) ++ guard.map fun b => if b then 1 else 0)
/-- Stored bytes with the lone nibbles in place: the other half of such a byte is the neighbour's and counts as 0 (03 R60). -/
def withNibs (outs : SMap Byte) (nibs : SMap Nat) : SMap Byte :=
  nibs.foldl (fun m x => smSet m (x.1 / 2) (nibbleOf (smGet m 0 (x.1 / 2)) (x.1 % 2 = 1) x.2)) outs
where
  /-- a byte with one nibble replaced -/
  nibbleOf (b : Byte) (high : Bool) (v : Nat) : Byte :=
    BitVec.ofNat 8 (if high then b.toNat % 16 + 16 * (v % 16) else b.toNat / 16 * 16 + v % 16)

def signature (outs : SMap Byte) (flags : U32) (hists : SMap Hist) (guard : List Bool) : Nat :=
  ((outGranules outs).foldl (fun n g => n + sigGranule outs g) (sigTail flags hists guard)) % 2 ^ 64

/-! ### Quarantine (R413, R414) -/

/-- The instance running on a tile stops and is started again elsewhere; its part of a check is run again (R412, R413). -/
def redispatch (t : Nat) (s : State) : State :=
  match (getTile s t).run with
  | none => s
  | some r =>
    let s := updTile t stopRun (clearAcc (· == t) s)
    match r.role with
    | .primary =>
      let s := match r.check with
        | some c => updInteg (fun g => { g with checks := smDel g.checks c }) s
        | none => s
      let s := match r.check with
        | some c => { s with flights := s.flights.map fun f => { f with deps := f.deps.filter (· != c) } }
        | none => s
      updKernel r.flight (fun k => { k with again := k.again ++ [r.inst] }) s
    | .duplicate => match r.check with
      | some c => updInteg (fun g => { g with checks := smMap g.checks fun i x => if i = c then { x with dup := none } else x }) s
      | none => s
    | .third => match r.check with
      | some c => updInteg (fun g => { g with checks := smMap g.checks fun i x => if i = c then { x with third := none } else x }) s
      | none => s

/-- The first tile of the run that occupies a tile. -/
def runAt (s : State) (t : Nat) : Option Nat := (s.tiles.find? fun x => (runTiles s x.1).contains t).map (·.1)

/-- Quarantine one tile: withdrawn at once, SUSPECT_WINDOW, its instance started again elsewhere. -/
def quarantine (t : Nat) (s : State) : State :=
  let w := getTile s t
  if w.withdrawn == some .quarantine || w.retired then s else
  let s := match runAt s t with
    | some u => redispatch u s
    | none => s
  let s := emit (srcTile t) evSuspectWindow ((tileOwner s t).getD devPart) [(24, 8, w.lastPass), (32, 8, now s)] s
  updTile t (fun x => { x with
    withdrawn := some .quarantine
    reserved := none
    quarTimes := x.quarTimes ++ [now s] }) s

def quarantineAll (ts : List Nat) (s : State) : State := ts.foldl (fun s t => quarantine t s) s

/-! ### Retraction and replay (R416 to R421) -/

/-- A command completes with RETRACTED and CHECK RETRACTED_FAILED, whether or not its work had ended. -/
def retractFlight (n : Nat) (s : State) : State :=
  match findFlight s n with
  | none => s
  | some f =>
    let fam := flightFamily s n
    let s := (fam.drop 1).foldl (fun s k => dropFlight k s) (stopFlight n s)
    if f.done.isSome then updFlight n (fun f => { f with
        retracted := true
        done := if f.status = 0 then some (now s) else f.done
        status := if f.status = 0 then stRetracted else f.status }) s
    else finishTop n stRetracted (updFlight n (fun f => { f with
        retracted := true
        status := stRetracted }) s)

/-- The command of a flight: itself or its graph. -/
def topOf (s : State) (n : Nat) : Nat := match findFlight s n with
  | some f => topFlight f
  | none => n

/-- Start a repeatable command again from its beginning (R419). -/
def replayFlight (n : Nat) (s : State) : State :=
  match findFlight s n with
  | none => s
  | some f =>
    let fam := flightFamily s n
    let s := (fam.drop 1).foldl (fun s k => dropFlight k s) (stopFlight n s)
    let s := updFlight n (fun f => { f with
      done := none
      status := 0
      retracted := false
      denied := none
      uncorr := none
      hostFault := none
      record := none }) s
    let r : Req := { queue := f.queue, part := if (findPart s f.part).isSome then some f.part else none,
                     operator := isOperator s f.queue, op := f.opcode, slot := f.slot, expert := f.expert }
    match f.opcode, f.work with
    | 0x100, _ => runH2d f.context r n s
    | 0x101, _ => runD2h r n s
    | 0x102, _ => runD2d r n s
    | 0x103, _ => runNet f.lc r n s
    | 0x200, .kernel _ => updKernel n (fun k => { k with
        next := 0
        again := []
        ended := 0
        flags := 0
        hists := k.hists.map fun h => (h.1, { qstat := h.2.qstat &&& qHistEmpty : Hist })
        started := false }) s
    | 0x201, _ => startGraph r n s
    | 0x305, _ => startGather r n s
    | _, _ => finishFlight n 0 s

/-- The repeatable commands of a partition dispatched at or after an instant and not yet complete, in dispatch order. -/
def replaySet (s : State) (p since : Nat) : List Nat :=
  (s.flights.filter fun f => f.part = p && f.node.isNone && f.repeatable && since ≤ f.start && !f.retracted).map (·.num)

/-- More than 2 beat edges lie between the dispatch of the set's earliest command and now (R421). -/
def tooLate (s : State) (ns : List Nat) : Bool :=
  ns.any fun n => match findFlight s n with
    | some f => f.startEdge + 2 < s.beat.edges
    | none => false

/-- Replay a set, or complete its commands with RETRACTED when it is too late. -/
def replayAll (check : Option Nat) (sender : Nat) (ns : List Nat) (s : State) : State :=
  if tooLate s ns then ns.foldl (fun s n => retractFlight n s) s
  else ns.foldl (fun s n => replayFlight n s)
    (updInteg (fun g => { g with replays := g.replays ++ [(check, sender, ns)] }) s)

/-- Nodes of a flight's graph dispatched at or after an instant, its own node apart. -/
def laterNodes (s : State) (n since : Nat) : List (Nat × Nat × Nat) :=
  match (findFlight s n).bind (·.node) with
  | some (g, i) => match findFlight s g with
    | some f => match f.work with
      | .graph w => w.starts.filter fun x => x.1 != i && since ≤ x.2.1
      | _ => []
    | none => []
  | none => []

/-- The nodes of a graph start again: what they did is forgotten and they are dispatched anew in order (R417, R419). -/
def replayNodes (g : Nat) (is : List Nat) (s : State) : State :=
  let fam := (s.flights.filter fun f => match f.node with
    | some x => x.1 = g && is.contains x.2
    | none => false).map (·.num)
  let s := fam.foldl (fun s k => dropFlight k (stopFlight k s)) s
  updFlight g (fun f => match f.work with
    | .graph w =>
      let f := { f with work := .graph { w with
        started := w.started.filter (!is.contains ·)
        starts := w.starts.filter fun x => !is.contains x.1
        ended := w.ended.filter (!is.contains ·)
        cur := w.cur.filter fun x => !is.contains x.1
        failed := match w.failed with
          | some x => if is.contains x.1 then none else some x
          | none => none } }
      if f.done.isSome then { f with
        done := none
        status := 0
        record := none } else f
    | _ => f) s

/-- Group members that received a PROVISIONAL packet tagged at or above a check. -/
def sendRetract (c beat : Nat) (s : State) : State := sendAll (provFlows s c) (retractMsg c beat) s

/-- A replay set whose commands have all ended is done: the group hears that the check is clear (R419). -/
def settleReplays (s : State) : State :=
  s.integ.replays.foldl (fun s x =>
    let running := x.2.2.any fun n => match findFlight s n with
      | some f => f.done.isNone
      | none => false
    if running then s
    else
      let s := updInteg (fun g => { g with replays := g.replays.filter (· != x) }) s
      match x.1 with
      | some c => sendAll (provFlows s c) (clearMsg c c) s
      | none => s) s

/-- Commands that depend on a failed check complete with RETRACTED (10 R278). -/
def retractDependants (c : Nat) (s : State) : State :=
  ((s.flights.filter fun f => f.node.isNone && f.deps.contains c).map (·.num)).foldl (fun s n => retractFlight n s) s

/-! ### Resolving a check (R408, R412) -/

def setCheck (c : Nat) (f : Check → Check) (s : State) : State :=
  updInteg (fun g => { g with checks := smMap g.checks fun i x => if i = c then f x else x }) s

def endOf (k : Check) (role : Nat) : Option RunEnd := smFind k.ends role

/-- Write one lone nibble through a context (03 R60). -/
def writeNibbleVa (c va : Nat) (high : Bool) (v : Nat) (s : State) : State × Acc :=
  (segments s c va 1).foldl (fun x g => writeNibble (admits s c true) g.pa high v x) (s, {})

/-- Write a run's stores, by device virtual address of the command's context, into memory. -/
def writeOuts (ctx flight : Nat) (outs : SMap Byte) (nibs : SMap Nat) (s : State) : State :=
  nibs.foldl (fun s b =>
    let a := writeNibbleVa ctx (b.1 / 2) (b.1 % 2 = 1) b.2 s
    noteAcc flight true a.2 a.1)
  (outs.foldl (fun s b =>
    let a := writeVa ctx b.1 [b.2] s
    noteAcc flight true a.2 a.1) s)

def ctxOf (s : State) (n : Nat) : Nat := match findFlight s n with
  | some f => f.context
  | none => 0

/-- Array tiles of a run of a check. -/
def checkTiles (s : State) (k : Check) (t : Nat) : List Nat := match kernelOf s k.flight with
  | some (_, kn) => arrayTiles kn.shape t
  | none => [t]

/-- Something that records waited for has resolved: their END moves to now (10 R275, R278); a first record of an EARLY
command does not wait. -/
def touchResolved (p : Flight → Bool) (s : State) : State :=
  ((s.flights.filter fun f => p f && (!hEarly f.slot || f.early)).map (·.num)).foldl (fun s n => touchDone n s) s

/-- The check has its result. -/
def markCheck (c : Nat) (st : CState) (s : State) : State :=
  let s := setCheck c (fun k => { k with
    st := st
    resolved := now s
    resolvedEdge := s.beat.edges }) s
  let s := touchResolved (fun f => f.deps.contains c) s
  { s with tiles := smMap s.tiles fun _ t => if t.reserved = some c then { t with reserved := none } else t }

/-- The command's SIGNAL fence waited for held stores (01 R24). -/
def signalHeld (k : Check) (s : State) : State := trySignal (topOf s k.flight) s

/-- Held stores reach memory, and after them the fences the primary signalled (01 R24). -/
def release (k : Check) (e : RunEnd) (s : State) : State :=
  let s := writeOuts (ctxOf s k.flight) k.flight e.outs e.nibs s
  match endOf k 0 with
  | some p => p.fences.foldl (fun s x => fenceRaise false x.1 x.2 s) s
  | none => s

/-- The check passed: held stores of the primary reach memory. -/
def passCheck (c : Nat) (k : Check) (good : List (Nat × Nat)) (s : State) : State :=
  let s := if k.inPlace && !k.dupFirst then (match endOf k 0 with
      | some p => release k p s
      | none => s) else s
  signalHeld k (markCheck c .passed (good.foldl (fun s g => renewAge (checkTiles s k g.1) g.2 s) s))

/-- Keep the last 1,024 retracted checks (R422). -/
def logRetracted (c p : Nat) (s : State) : State :=
  updInteg (fun g => { g with retracted := ((c, p) :: g.retracted).take 1024 }) s

/-- CORRECTED: the third run's output stands; RETRACT, and the replay set runs again: the repeatable commands, and the
nodes of the check's own graph, that were dispatched at or after the primary's start (01 R33, R419). -/
def correctCheck (c : Nat) (k : Check) (third : RunEnd) (s : State) : State :=
  let s := release k third s
  let s := logRetracted c k.part (signalHeld k (markCheck c .corrected s))
  let s := quarantineAll (checkTiles s k k.primary) s
  let s := sendRetract c k.beat s
  let top := topOf s k.flight
  let set := (replaySet s k.part k.start).filter (· != top)
  let later := laterNodes s k.flight k.start
  if later.isEmpty then settleReplays (replayAll (some c) 0xFFFF set s)
  else if tooLate s set || later.any (fun x => x.2.2 + 2 < s.beat.edges) then
    (top :: set).foldl (fun s n => retractFlight n s) s
  else
    let s := updInteg (fun g => { g with replays := g.replays ++ [(some c, 0xFFFF, top :: set)] }) s
    settleReplays (set.foldl (fun s n => replayFlight n s) (replayNodes top (later.map (·.1)) s))

/-- FAILED: the command and what depends on it complete with RETRACTED; a second RETRACT goes out. -/
def failCheck (c : Nat) (k : Check) (tiles : List Nat) (s : State) : State :=
  let s := logRetracted c k.part (markCheck c .failed s)
  let s := quarantineAll tiles s
  let s := sendRetract c k.beat (sendRetract c k.beat s)
  retractDependants c (retractFlight (topOf s k.flight) s)

/-- Compare the ended runs of a check. -/
def compareCheck (c : Nat) (s : State) : State :=
  match smFind s.integ.checks c with
  | none => s
  | some k =>
    match endOf k 0, endOf k 1 with
    | some p, some d =>
      if k.st != .pending then s
      else if p.sig = d.sig then passCheck c k [(p.tile, p.start), (d.tile, d.start)] s
      else if k.dupFirst then
        failCheck c k (checkTiles s k p.tile ++ checkTiles s k d.tile)
          (emit (srcTile p.tile) evMismatch k.part [(24, 8, c), (32, 2, srcTile d.tile)] s)
      else match endOf k 2 with
        | none =>
          if k.third.isSome then s
          else if k.ends.length = 2 then emit (srcTile p.tile) evMismatch k.part [(24, 8, c), (32, 2, srcTile d.tile)] s else s
        | some t =>
          if t.sig = p.sig then
            quarantineAll (checkTiles s k d.tile) (passCheck c k [(p.tile, p.start), (t.tile, t.start)] s)
          else if t.sig = d.sig then
            correctCheck c k t (renewAge (checkTiles s k d.tile) d.start (renewAge (checkTiles s k t.tile) t.start s))
          else failCheck c k (checkTiles s k p.tile ++ checkTiles s k d.tile ++ checkTiles s k t.tile) s
    | _, _ => s

/-- The check has two disagreeing runs and waits for a third. -/
def wantsThird (k : Check) : Bool := k.st == .pending && !k.dupFirst && k.third.isNone &&
  match endOf k 0, endOf k 1 with
  | some p, some d => p.sig != d.sig
  | _, _ => false

/-- The check waits for a duplicate. -/
def wantsDup (k : Check) : Bool := k.st == .pending && k.dup.isNone && (endOf k 1).isNone

/-! ### Eligible arrays (R403, R412) -/

def disjoint (a b : List Nat) : Bool := a.all fun x => !b.contains x

def partArrays (s : State) (p shape cols : Nat) : List Nat := match findPart s p with
  | none => []
  | some w => (arraysIn s shape (partTiles w)).filter fun t =>
      cols ≤ arrayWidth s shape t && (arrayTiles shape t).all (working s)

def kernCols (k : Kernel) : Nat := (k.descs.map fun b => (parseMDesc k.level b).cols).foldl max 0

/-- Arrays on which a check's duplicate may run. -/
def dupArrays (s : State) (c : Check) (k : Kernel) : List Nat :=
  let l := partArrays s c.part k.shape (kernCols k)
  let apart := l.filter fun t => disjoint (arrayTiles k.shape t) (arrayTiles k.shape c.primary)
  if apart.isEmpty && k.shape = 2 then l.filter (· = c.primary) else apart

/-- Arrays on which a check's third run may run. -/
def thirdArrays (s : State) (c : Check) (k : Kernel) : List Nat :=
  let l := partArrays s c.part k.shape (kernCols k)
  let d := c.dup.getD c.primary
  let apart := l.filter fun t => disjoint (arrayTiles k.shape t) (arrayTiles k.shape c.primary) &&
    disjoint (arrayTiles k.shape t) (arrayTiles k.shape d)
  if apart.isEmpty && 0 < k.shape then l.filter (· = c.primary) else apart

/-- A check's next run may start on this array. -/
def checkWants (s : State) (t : Nat) (c : Check) : Bool := match kernelOf s c.flight with
  | none => false
  | some (_, k) => (wantsDup c && (dupArrays s c k).contains t && !(t = c.primary && (endOf c 0).isNone)) ||
      (wantsThird c && (thirdArrays s c k).contains t)

/-- Checks that run ahead of every instance that is not a check on this array. -/
def checksAhead (s : State) (t : Nat) : Bool := s.integ.checks.any fun c => checkWants s t c.2

/-! ### The module fault (R424) -/

/-- Abort every run and complete every unreleased command with RETRACTED. -/
def retractAll (s : State) : State :=
  let s := stopRuns (fun _ _ => true) s
  ((s.flights.filter fun f => f.node.isNone).map (·.num)).foldl (fun s n => retractFlight n s) s

/-- 24 h in ns. -/
abbrev dayNs : Nat := 86400000000000

/-- A module fault of a cause at a unit. -/
def moduleFault (cause unit : Nat) (s : State) : State :=
  if s.power.moduleFault.isSome then s
  else
    let pend := (s.integ.checks.filter fun c => c.2.st == .pending).map fun c => (c.1, c.2.beat)
    let s := updPower (fun p => { p with moduleFault := some cause }) s
    let s := retractAll s
    -- a second RETRACT needs a first: none of these checks has sent one (R419)
    let s := pend.foldl (fun s c => sendAll (otherMembers s) (retractMsg c.1 c.2) (sendAll (otherMembers s) (retractMsg c.1 c.2) s)) s
    let s := updInteg (fun g => { g with checks := smMap g.checks fun _ c =>
      if c.st == .pending then { c with
        st := .failed
        resolved := now s
        resolvedEdge := s.beat.edges } else c }) s
    let s := if isMember s then leaveNow s else s
    let s := emit srcCmd evModuleFault devPart [(20, 1, cause), (22, 2, unit)] s
    let again := s.sec.faultLog.any fun x => x.2 = cause && now s ≤ x.1 + dayNs
    let s := updSec (fun x => { x with
      faultLog := x.faultLog ++ [(now s, cause)]
      replace := x.replace || again }) s
    msix 0 0 s

/-- LOCKSTEP_MISMATCH. -/
def execLockstepMismatch (s : State) : Res := .next (moduleFault 0 srcCmd s)

/-- FLIT_CRC_ERROR: a replayed flit that fails again counts; three failed replays of one flit are a module fault (01 R21). -/
def execFlitCrcError (link : Nat) (replayed : Bool) (s : State) : Res :=
  .next (
    let n := if replayed then smGet s.integ.flitFails 0 link + 1 else 0
    let s := updInteg (fun g => { g with flitFails := smSet g.flitFails link n }) s
    if 3 ≤ n then moduleFault 1 srcCmd s else s)

/-- HUB_SRAM_ECC_ERROR: a single-bit error is corrected. -/
def execHubSramEccError (doubleBit : Bool) (s : State) : Res := doWhen doubleBit (moduleFault 2 srcCmd s) s

/-- TRNG_HEALTH_FAIL: the DRBG reseeds; two in a row are a module fault (16 R440). -/
def execTrngHealthFail (s : State) : Res :=
  .next (
    let n := s.sec.trngFails + 1
    let s := updSec (fun x => { x with
      trngFails := n
      trng := if 2 ≤ n then 2 else 1 }) { s with freeCtr := s.freeCtr + 1 }
    if 2 ≤ n then moduleFault 4 srcCmd s else s)

/-- SCRATCHPAD_ECC_ERROR: a double-bit error starts the instance again on another tile and quarantines this one. -/
def execScratchpadEccError (tile : Nat) (doubleBit : Bool) (s : State) : Res :=
  doWhen (doubleBit && tile < 128) (quarantine tile s) s

/-- YARROW_BATCH_DONE: a batch that breaks a summary invariant is run again once; a second time is a module fault (R423). -/
def execYarrowBatchDone (flight die : Nat) (violation : Bool) (s : State) : Res :=
  .next (if !yarrowRunning s flight die then s
    else if !violation then yarrowDone flight die s
    else match findFlight s flight with
      | some f => match f.work with
        | .gather g =>
          if g.reran.contains die then moduleFault 3 (srcYarrow die) s
          else updFlight flight (fun f => { f with work := .gather { g with reran := g.reran ++ [die] } }) s
        | _ => s
      | none => s)

/-! ### Timers (R409, R418, R421) -/

/-- CHECK_AGE_EXPIRY: the tile's next instance is forced (R409). -/
def execCheckAgeExpiry (tile : Nat) (s : State) : Res :=
  doWhen (tile < 128) (updTile tile (fun t => { t with forced := true }) (advance ((getTile s tile).ageStart + 12000000) s)) s

/-- The highest sequence at or below which every check is resolved. -/
def resolvedUpTo (s : State) : Nat :=
  ((s.integ.checks.filter fun c => c.2.st == .pending).map (·.1)).foldl min s.integ.nextSeq - 1

/-- Checks are kept for 4 beats after they resolve (R422). -/
def dropOldChecks (s : State) : State :=
  updInteg (fun g => { g with checks := smFilter g.checks fun _ c => c.st == .pending || s.beat.edges ≤ c.resolvedEdge + 4 }) s

/-- CHECK_WATERMARK_TICK: at the next whole µs the watermark moves, and CHECK_CLEAR goes to the flows that carried
PROVISIONAL packets (R418). -/
def watermarkTick (s : State) : State :=
  let s := advance ((now s / 1000 + 1) * 1000) s
  let w := resolvedUpTo s
  if w ≤ s.integ.mark then s
  else
    let old := s.integ.mark
    let ps := (s.net.flows.filter fun f => groupPeer f.1 && f.2.provTag.isSome).map (·.1)
    let s := sendAll ps (clearMsg (old + 1) w) s
    let s := ps.foldl (fun s p => updFlow p (fun f => { f with provTag := match f.provTag with
      | some t => if t ≤ w then none else some t
      | none => none }) s) s
    dropOldChecks (updInteg (fun g => { g with mark := w }) s)

def execCheckWatermarkTick (s : State) : Res := .next (watermarkTick s)

/-- A second RETRACT from a sender for provisional messages: commands that depend on them complete with RETRACTED (R420). -/
def provFailed (gone : List Prov) (s : State) : State :=
  let keys := gone.map fun x => (x.sender, x.tag)
  let parts := (gone.map (·.part))
  let ns := (s.flights.filter fun f => f.node.isNone && parts.contains f.part && f.prov.any fun d => keys.contains d).map (·.num)
  let s := ns.foldl (fun s n => retractFlight n s) s
  updInteg (fun g => { g with prov := g.prov.filter fun x => !gone.contains x }) s

/-- PROVISIONAL_EXPIRY: messages still provisional at the third beat edge after their arrival (R421). -/
def execProvisionalExpiry (s : State) : Res :=
  .next (provFailed (s.integ.prov.filter fun x => x.edge + 3 ≤ s.beat.edges) s)

/-! ### Tests (R413, R426 to R429) -/

/-- What a test of a tile leads to: new bypass, retired, lane fault, intermittent (R413). -/
def testOutcome (s : State) (t : Nat) (r : TestResult) : List Nat × Bool × Bool × Bool :=
  let w := getTile s t
  let by_ := (w.bypass ++ r.columns).eraseDups
  let recent := (w.quarTimes.filter fun q => now s ≤ q + dayNs).length
  let clean := r.columns.isEmpty && !r.lane
  if r.lane then (w.bypass, true, true, false)
  else if 4 < by_.length then (w.bypass, true, false, false)
  else if clean && 3 ≤ recent then (w.bypass, true, false, true)
  else (by_, false, false, false)

/-- TILE_STATE (17 R457). -/
def tileState (t width : Nat) (retired lane inter : Bool) (s : State) : State :=
  emit (srcTile t) evTileState ((tileOwner s t).getD devPart) [(20, 1, width), (21, 1, b2n retired + 2 * b2n lane + 4 * b2n inter)] s

/-- The quarantine test of a tile ends: it returns, bypasses columns or retires at the next beat head. -/
def quarantineDone (t : Nat) (r : TestResult) (s : State) : State :=
  let o := testOutcome s t r
  let w := getTile s t
  let changed := o.2.1 || o.1 != w.bypass
  let s := updTile t (fun x => { x with
    widthNext := if changed then some (o.1, o.2.1, o.2.2.1) else none
    returning := !o.2.1
    ageStart := now s
    lastPass := if o.2.1 then x.lastPass else now s }) s
  tileState t (128 - o.1.length) o.2.1 o.2.2.1 o.2.2.2 s

/-- QUARANTINE_TEST_DONE: the 2 ms exclusive test of a quarantined tile has ended (R413). -/
def execQuarantineTestDone (tile : Nat) (r : TestResult) (s : State) : Res :=
  doWhen (tile < 128 && (getTile s tile).withdrawn == some .quarantine && !(getTile s tile).returning &&
      (getTile s tile).widthNext.isNone) (quarantineDone tile r s) s

/-- At a beat head: QUARANTINED is set, widths change with GEN, tested tiles return (R413, 04 R92). -/
def tilesBeatHead (s : State) : State :=
  { s with tiles := smMap s.tiles fun _ t =>
      let t := if t.withdrawn == some .quarantine then { t with quarantined := true } else t
      let t := match t.widthNext with
        | some (b, ret, lane) => { t with
            bypass := b
            width := if ret then 0 else 128 - b.length
            retired := t.retired || ret
            laneFault := t.laneFault || lane
            gen := (t.gen + 1) % 2 ^ 16
            widthNext := none
            withdrawn := if ret then none else t.withdrawn
            quarantined := if ret then false else t.quarantined }
        | none => t
      if t.returning then { t with
        returning := false
        withdrawn := none
        quarantined := false } else t }

/-- An LC kernel is pending on a tile. -/
def lcWaits (s : State) (t : Nat) : Bool := lcPending s (2 ^ t)

/-- A slot withdraws one tile of the die at most (R428). -/
def slotOnDie (s : State) (d : Nat) : Bool := s.tiles.any fun t => t.1 / 32 = d && match t.2.withdrawn with
  | some .selfTest => true
  | some .calibration => true
  | some (.test n) => (match findFlight s n with | some f => num f.slot 65 1 = 0 | none => true)
  | _ => false

/-- The TEST_RUN that waits for a unit, and whether in exclusive mode. -/
def testFor (s : State) (u : Nat) : Option (Nat × Bool) :=
  (s.flights.find? fun f => f.done.isNone && match f.work with
    | .test left _ _ _ => left.contains u
    | _ => false).map fun f => (f.num, num f.slot 65 1 != 0)

def aged (s : State) (t : Nat) : Bool := (getTile s t).ageStart + 12000000 ≤ now s

/-- What the next slot of an idle tile is for: its own self-test first, then calibration, then a TEST_RUN (R428, R429). -/
def slotFor (s : State) (t : Nat) : Option Withdrawn :=
  if aged s t then some .selfTest
  else if (smGet s.integ.calib [] (t / 32)).head? = some (t % 32) then some .calibration
  else (testFor s t).map fun x => .test x.1

/-- An idle tile of the die waits for its self-test slot, ahead of every other slot of the die (R429). -/
def agedWaits (s : State) (d : Nat) : Bool :=
  (List.range 32).any fun i => aged s (32 * d + i) && working s (32 * d + i) && !isBusy s (32 * d + i)

/-- TEST_SLOT_START: the tile is at an instance boundary, its die has no other slot, no LC kernel waits for it. -/
def slotMayStart (s : State) (t : Nat) : Bool :=
  let exclusive := match slotFor s t with
    | some (.test _) => (match testFor s t with | some x => x.2 | none => false)
    | _ => false
  t < 128 && working s t && !isBusy s t && (exclusive || (!slotOnDie s (t / 32) && (aged s t || (!lcWaits s t && !agedWaits s (t / 32)))))

def execTestSlotStart (tile : Nat) (s : State) : Res :=
  .next (if !slotMayStart s tile then s else match slotFor s tile with
    | some w => updTile tile (fun t => { t with withdrawn := some w }) s
    | none => s)

/-- One unit of a TEST_RUN ends; the command ends with its record once none is left (R427). -/
def testUnitDone (n u : Nat) (r : TestResult) (detail action : Nat) (s : State) : State :=
  match findFlight s n with
  | none => s
  | some f => match f.work with
    | .test left failed d0 a0 =>
      let left := left.filter (· != u)
      let failed := if r.fault then failed ++ [u] else failed
      let d := if r.fault && d0 = 0 then detail else if u < 0x100 then d0 else detail
      let a := if r.fault then action else a0
      let s := updFlight n (fun f => { f with work := .test left failed d a }) s
      if !left.isEmpty then s
      else
        let scope := min 4 (num f.slot 64 1)
        let map := if scope = 4 then (failed.filter (· < 128)).foldl (fun m t => m + 2 ^ t) 0 else 0
        let rec_ := rec_ 64 [(0, 8, f.start), (8, 8, now s), (16, 1, scope), (17, 1, min 1 (num f.slot 65 1)), (18, 2, num f.slot 66 2),
          (20, 2, f.echo), (22, 2, failed.length), (24, 1, b2n (!failed.isEmpty)), (25, 1, a), (28, 4, if scope = 4 then 0 else d),
          (32, 16, map)]
        let x := writeVa f.context (pAddr f.slot 72) rec_ s
        finishFlight n (if failed.isEmpty then 0 else stTestFailed) (noteAcc n true x.2 x.1)
    | _ => s

/-- DETAIL of a tile's test: first faulty column, lane fault. -/
def tileDetail (r : TestResult) : Nat := r.columns.foldl min 127 + (if r.lane then 128 else 0)

/-- The calibration of a tile ends (17 R461). -/
def calibrationDone (t margin : Nat) (s : State) : State :=
  let d := t / 32
  let run := smGet s.tele.calRun (256, 0) d
  let run := if margin < run.1 then (margin, t % 32) else run
  let left := (smGet s.integ.calib [] d).drop 1
  let s := updInteg (fun g => { g with calib := smSet g.calib d left }) s
  let s := updTele (fun x => { x with
    calRun := smSet x.calRun d run
    calNext := smSet x.calNext d ((t % 32 + 1) % 32) }) s
  let s := if left.isEmpty then
      emit (srcTile t) evCalibration devPart [(20, 1, d), (21, 1, run.1), (22, 1, run.2)]
        (updTele (fun x => { x with
          calWorst := smSet x.calWorst d run.1
          calRot := smSet x.calRot d ((smGet x.calRot 0 d + 1) % 2 ^ 32)
          calRun := smDel x.calRun d }) s)
    else s
  if margin < 16 then quarantine t s else s

/-- A slot of a tile ends. -/
def slotEnd (t : Nat) (r : TestResult) (s : State) : State :=
  let back (s : State) : State := updTile t (fun x => { x with withdrawn := none }) s
  match (getTile s t).withdrawn with
  | some .selfTest =>
    let s := back s
    if r.fault then quarantine t s
    else updTile t (fun x => { x with
      ageStart := now s
      lastPass := now s
      forced := false }) s
  | some .calibration => calibrationDone t r.margin (back s)
  | some (.test n) =>
    let s := back s
    let retires := r.lane || 4 < ((getTile s t).bypass ++ r.columns).eraseDups.length
    let s := testUnitDone n t r (tileDetail r) (if retires then 2 else 1) s
    if r.fault then quarantine t s
    else updTile t (fun x => { x with
      ageStart := now s
      lastPass := now s }) s
  | _ => s

/-- The gang of a shape whose bottom row holds a tile (01 R16, 04 R85). -/
def gangOf (shape t : Nat) : List Nat :=
  let k := 2 ^ shape
  if t % 32 / 8 % k = k - 1 then arrayTiles shape (t / 32 * 32 + (t % 32 / 8 - (k - 1)) * 8 + t % 8 / k * k) else []

/-- The gang a unit number names: 0x300 + bottom tile a 4×4 gang, 0x400 + bottom tile a 2×2 gang (log 43). -/
def gangTiles (u : Nat) : List Nat := if 0x400 ≤ u then gangOf 1 (u - 0x400) else gangOf 2 (u - 0x300)

/-- A unit that is no tile: a channel (0x100 + number), a port (0x200 + number), the slot of a gang (0x300 + tile). -/
def unitEnd (u : Nat) (r : TestResult) (s : State) : State :=
  match testFor s u with
  | none => s
  | some (n, _) =>
    let s :=
      if !r.fault then s
      else if 0x300 ≤ u then quarantineAll (gangTiles u) s
      else if 0x200 ≤ u then (List.range 4).foldl (fun s k => updSub (4 * (u - 0x200) + k) (fun p => { p with pcs := false }) s) s
      else updChan (u - 0x100) (fun c => { c with candidate := true })
        (if (getChan s (u - 0x100)).candidate then s
         else emit (srcChan (u - 0x100)) evMapoutCandidate devPart [(20, 4, (getChan s (u - 0x100)).ceHour)] s)
    testUnitDone n u r r.detail (if 0x300 ≤ u then 2 else if 0x200 ≤ u then 4 else 3) s

/-- TEST_SLOT_END. -/
def execTestSlotEnd (tile : Nat) (r : TestResult) (s : State) : Res :=
  .next (if tile < 128 then slotEnd tile r s else unitEnd tile r s)

/-- CALIBRATION_TIMER: every 60 s each die queues its tiles in order (R429). -/
def execCalibrationTimer (s : State) : Res :=
  .next (
    let s := advance s.integ.calAt s
    updInteg (fun g => { g with
      calAt := g.calAt + 60 * 1000000000
      calib := (List.range 4).map fun d => (d, smGet g.calib [] d ++ (List.range 32).filter fun i =>
        !(getTile s (d * 32 + i)).retired && !(smGet g.calib [] d).contains i) }) s)

end Sys2Proof.Machine
end

