-- ==== Sys2Proof/Machine/Tiles.lean ====
section
/-! DEFINITION. Instances on tiles (05 R124 to R131, 12 R320, 15 R401 to R411): start and end of a run, the end of a kernel,
and the sequencer's instructions (R126). -/

namespace Sys2Proof.Machine

/-! ### Starting a run -/

/-- Bytes the store streams of a kernel move on the array of a tile. -/
def storeSize (k : Kernel) (t : Nat) : Nat :=
  (k.streams.filter fun x => (arrayTiles k.shape t).contains x.1 && x.2.2.kind = 1).foldl (fun n x => n + streamBytes x.2.2) 0

def segsMeet (a b : List Seg) : Bool := a.any fun x => b.any fun y => x.pa < y.pa + y.len && y.pa < x.pa + x.len

/-- The instance's store segments overlap those of its own load or gather streams (R405). -/
def inPlaceOn (k : Kernel) (t : Nat) : Bool :=
  let mine := k.streams.filter fun x => (arrayTiles k.shape t).contains x.1
  (mine.filter fun x => x.2.2.kind = 1).any fun st => (mine.filter fun x => x.2.2.kind != 1).any fun ld =>
    (st.2.2.path = 2) == (ld.2.2.path = 2) && segsMeet st.2.2.segs ld.2.2.segs

/-- Sixteenths of a die that a partition owns: each has 1 MiB of hold buffer (R406). -/
def holdRoom (s : State) (p d : Nat) : Nat :=
  ((List.range 4).filter fun i => sixteenthOwner s (4 * d + i) == some p).length * 1048576

/-- Hold buffer in use on a die by a partition's unresolved in-place checks. -/
def holdUsed (s : State) (p d : Nat) : Nat :=
  s.integ.checks.foldl (fun n c =>
    if c.2.st == .pending && c.2.inPlace && !c.2.dupFirst && c.2.part = p && c.2.primary / 32 = d then
      match kernelOf s c.2.flight with
      | some (_, k) => n + storeSize k c.2.primary
      | none => n
    else n) 0

/-- A stream as it stands at the start of a flight's run. -/
def freshStream (flight : Nat) (x : Stream) : Stream :=
  { x with
    flight := flight
    inUse := true
    ready := 0
    pos := 0
    acked := 0
    pend := []
    idx := []
    gqCount := 0
    complete := false }

/-- Install an array's streams at the start of a run: those the launch armed for the primary's array (R404). -/
def installStreams (k : Kernel) (flight src t : Nat) (s : State) : State :=
  ((arrayTiles k.shape src).zip (arrayTiles k.shape t)).foldl (fun s p =>
    let mine := k.streams.filter fun x => x.1 = p.1
    updTile p.2 (fun w => { w with
      streams := mine.foldl (fun m x => smSet m x.2.1 (freshStream flight x.2.2)) w.streams }) s) s

/-- A tile takes up a kernel: a change of context clears scratchpad, persistent streams and residency (R130); registers,
masks, flags and position start anew (R115, R121, R125); a preloaded program and its shadow registers take over, any
other program is loaded (R124, R127). -/
def enterTile (f : Flight) (k : Kernel) (t : Nat) (s : State) : State :=
  let bs := (programRead s f k).data
  updTile t (fun w =>
    let pre := w.preload = some f.num
    let w := if w.context = some f.context then w else { w with
      spad := []
      streams := []
      resident := [] }
    { w with
      context := some f.context
      accHi := []
      accLo := []
      accPart := []
      accFor := none
      vreg := []
      mask := []
      vl := 128
      vlZero := false
      sreg := if pre then w.shadow else launchSregs k
      redTotal := []
      flags := 0
      pc := 0
      loops := []
      vloop := none
      stall := .none_
      prog := some (k.program, k.progBytes)
      progMem := if w.progFor = some f.num then w.progMem else if pre then w.nextMem else bs
      progFor := some f.num
      preload := if pre then none else w.preload
      matrix := none }) s

/-- The program that OSCALE CURRENT denies the conversion area (R131). -/
def kernConv (k : Kernel) : Bool := k.descs.any fun b => (parseMDesc k.level b).qc.oscale = 1

/-- Begin a run of an instance on an array; `src`: the primary's first tile, whose streams and residency it takes (R404). -/
def beginRun (f : Flight) (k : Kernel) (t src : Nat) (r : Run) (s : State) : State :=
  let loaded := (getTile s t).progFor = some f.num || (getTile s t).preload = some f.num
  let s := if loaded then s else noteAcc f.num false (programRead s f k) s
  let s := (arrayTiles k.shape t).foldl (fun s u => enterTile f k u s) s
  let s := installStreams k f.num src t s
  let s := if r.role = .primary then s else
    (getTile s src).resident.foldl (fun s x =>
      let a := readVa s f.context x.2.2 x.2.1
      noteAcc f.num false a (updTile t (spadWrite false x.1 a.data) s)) s
  let s := updTile t (spadWrite false k.spad (k.descs.flatMap id)) s
  let s := if k.cls && !k.started then monSample 1 f.part (now s - k.lcReady) s else s
  updKernel f.num (fun k => { k with started := true }) (updTile t (fun w => { w with
    run := some r
    forced := if r.role = .primary then false else w.forced
    reserved := none }) s)

def newRun (f : Flight) (k : Kernel) (inst : Nat) (role : Role) (check : Option Nat) (hold : Bool) (s : State) : Run :=
  { flight := f.num, inst, role, start := now s, check, lc := k.cls, durationUs := k.durationUs, overrun := false, meter := now s, hold
    outs := [], nibs := [], hists := [], guardBits := [], fences := [] }

/-- Reasons of R402 in the order they are reported: full, long, forced, debug, sampled. -/
def halts (s : State) (f : Flight) (k : Kernel) : Bool :=
  dbgEnabled s f.part && k.descs.any fun b => (parseMDesc k.level b).halt.isSome

/-- Why an instance about to start is checked, given its draw of 16 bits; the fraction is that of the command's admission
(02 R51). -/
def checkReason (s : State) (f : Flight) (k : Kernel) (t draw : Nat) : Option Nat :=
  if f.sampling = 3 then some 1
  else if 4000 < k.durationUs then some 3
  else if (arrayTiles k.shape t).any (fun u => (getTile s u).forced) then some 2
  else if halts s f k then some 4
  else if draw % 65536 < sampleThreshold f.sampling then some 0
  else none

/-- A new check of an instance (R415, R416): its command depends on it. -/
def addCheck (f : Flight) (inst reason t : Nat) (inPlace dupFirst : Bool) (s : State) : Nat × State :=
  let c := s.integ.nextSeq
  let k : Check := {
    part := f.part, flight := f.num, inst, reason, start := now s, beat := beatNo s, startEdge := s.beat.edges
    primary := t, dup := none, third := none, ends := [], st := .pending, resolved := 0, resolvedEdge := 0, inPlace, dupFirst }
  let s := updInteg (fun g => { g with
    nextSeq := c + 1
    checks := smSet g.checks c k }) s
  (c, updFlight (topFlight f) (fun w => { w with deps := w.deps ++ [c] })
    (updFlight f.num (fun w => { w with deps := if f.node.isSome then w.deps ++ [c] else w.deps }) s))

/-- Reserve the eligible array whose running instance started earliest (R410). -/
def reserveFor (c : Nat) (k : Kernel) (s : State) : State :=
  match smFind s.integ.checks c with
  | none => s
  | some x =>
    let l := (dupArrays s x k).filterMap fun t => (getTile s t).run.map fun r => (t, r.start)
    match l.foldl (fun (b : Option (Nat × Nat)) y => match b with
        | none => some y
        | some z => if y.2 < z.2 then some y else some z) none with
    | some y => updTile y.1 (fun w => { w with reserved := some c }) s
    | none => s

/-! ### INSTANCE_START (12 R320) -/

/-- The array is at an instance boundary and may take work. -/
def arrayFree (s : State) (shape t : Nat) : Bool :=
  let ts := arrayTiles shape t
  let busy := busyTiles s
  !ts.isEmpty && ts.all fun u => working s u && !busy.contains u

/-- The tile's sixteenth is being removed from its partition: it admits nothing (12 R338). -/
def removingTile (s : State) (t : Nat) : Bool := s.sched.removals.any fun r => r.blocks.contains (tileSixteenth t)

/-- The tile mask, width, priority and thermal conditions of a primary (R320, R428, 19 R481). -/
def mayPrimary (s : State) (f : Flight) (k : Kernel) (t : Nat) : Bool :=
  let ts := arrayTiles k.shape t
  arrayFree s k.shape t && ts.all (fun u => k.tileMask.testBit u && !removingTile s u && (getTile s u).reserved.isNone) &&
  kernCols k ≤ arrayWidth s k.shape t && !checksAhead s t &&
  (f.lc || (!lcPending s (maskOf ts) && !s.power.protect.toNat.testBit (t / 32)))

/-- The check whose duplicate-first order waits for its primary (R406). -/
def dupFirstCheck (s : State) (n inst t : Nat) : Option Nat :=
  (s.integ.checks.find? fun c => c.2.st == .pending && c.2.dupFirst && c.2.flight = n && c.2.inst = inst && c.2.primary = t &&
    (endOf c.2 0).isNone).map (·.1)

def takeInstance (n inst : Nat) (s : State) : State :=
  updKernel n (fun k => if k.again.contains inst then { k with again := k.again.filter (· != inst) } else { k with next := k.next + 1 }) s

/-- Start the duplicate of a long instance in the same cycle on an array that is free (R411). -/
def startDup (c : Nat) (f : Flight) (k : Kernel) (s : State) : State :=
  match smFind s.integ.checks c with
  | none => s
  | some x =>
    match (dupArrays s x k).find? fun t => arrayFree s k.shape t with
    | some t =>
      beginRun f k t x.primary (newRun f k x.inst .duplicate (some c) true s) (setCheck c (fun x => { x with dup := some t }) s)
    | none => s

/-- Start a primary: unchecked, checked, or reserved in duplicate-first order. -/
def startPrimary (f : Flight) (k : Kernel) (t inst : Nat) (s : State) : State :=
  let d := sampleDraw f.part s
  let s := d.2
  let ip := inPlaceOn k t
  let big := holdRoom s f.part (t / 32) < storeSize k t
  let fits := holdUsed s f.part (t / 32) + storeSize k t ≤ holdRoom s f.part (t / 32)
  match checkReason s f k t d.1 with
  | none => beginRun f k t t (newRun f k inst .primary none false s) (takeInstance f.num inst s)
  | some 0 =>
    if ip && !big && !fits then
      beginRun f k t t (newRun f k inst .primary none false s)
        (takeInstance f.num inst (updPart f.part (fun p => { p with skipped := p.skipped + 1 }) s))
    else startChecked 0 ip big s
  | some r =>
    if ip && !big && !fits then s
    else if r = 3 && !ip && 4000 < k.durationUs && !(longDupFree s) then s
    else startChecked r ip big s
where
  /-- an array for the duplicate of a long instance is at an instance boundary -/
  longDupFree (s : State) : Bool :=
    let x : Check := {
      part := f.part, flight := f.num, inst, reason := 3, start := 0, beat := 0, startEdge := 0, primary := t, dup := none
      third := none, ends := [], st := .pending, resolved := 0, resolvedEdge := 0, inPlace := false, dupFirst := false }
    (dupArrays s x k).any fun u => arrayFree s k.shape u || u = t
  /-- a checked instance -/
  startChecked (reason : Nat) (ip big : Bool) (s : State) : State :=
    let hold := ip || halts s f k
    let c := addCheck f inst reason t hold (ip && big) s
    let s := takeInstance f.num inst c.2
    if ip && big then updTile t (fun w => { w with reserved := some c.1 }) s
    else
      let s := beginRun f k t t (newRun f k inst .primary (some c.1) hold s) s
      if reason = 3 then startDup c.1 f k s else if reason = 2 then reserveFor c.1 k s else s

/-- The streams of a kernel that begins, those that lost their segments translated again (R138). -/
def armAgain (s : State) (k : Kernel) : Verdict × List (Nat × Nat × Stream) :=
  let l := k.streams.map fun y => if y.2.2.segs.isEmpty && y.2.2.path != 2 then
      let a := armStream s false y.2.2
      (a.1, y.1, y.2.1, a.2)
    else (.ok, y)
  (firstBad (l.map (·.1)), l.map (·.2))

/-- A kernel's first instance: its launch fails where a stream that lost its segments cannot be armed again (R127, R138). -/
def startFirst (f : Flight) (k : Kernel) (t inst : Nat) (s : State) : State :=
  if k.started then startPrimary f k t inst s else
  match armAgain s k with
  | (.badAt st a _, _) => finishFlight f.num st (updFlight f.num (fun f => { f with record := some a }) s)
  | (_, l) =>
    let k := { k with streams := l }
    startPrimary f k t inst (updKernel f.num (fun k => { k with streams := l }) s)

/-- A primary that may start now: the next instance or one to start again; or the primary of a duplicate-first check. -/
def primaryStart (f : Flight) (k : Kernel) (t inst : Nat) (s : State) : State :=
  match dupFirstCheck s f.num inst t with
  | some c =>
    match smFind s.integ.checks c with
    | some x => if (endOf x 1).isSome && arrayFree s k.shape t then beginRun f k t t (newRun f k inst .primary (some c) false s) s else s
    | none => s
  | none =>
    if (inst = k.next && inst < k.instances || k.again.contains inst) && mayPrimary s f k t then startFirst f k t inst s else s

/-- A run of a check that waits for one on this array. -/
def checkStart (f : Flight) (k : Kernel) (c : Nat) (x : Check) (t : Nat) (s : State) : State :=
  if wantsDup x then
    beginRun f k t x.primary (newRun f k x.inst .duplicate (some c) true s) (setCheck c (fun x => { x with dup := some t }) s)
  else beginRun f k t x.primary (newRun f k x.inst .third (some c) true s) (setCheck c (fun x => { x with third := some t }) s)

/-- INSTANCE_START: a primary, duplicate or third run starts at an instance boundary of its array. -/
def execInstanceStart (tile flight inst : Nat) (s : State) : Res :=
  .next (match kernelOf s flight with
    | none => s
    | some (f, k) =>
      match s.integ.checks.find? fun c => c.2.flight = flight && c.2.inst = inst && checkWants s tile c.2 with
        | some (c, x) => if arrayFree s k.shape tile then checkStart f k c x tile s else s
        | none => if f.done.isSome then s else primaryStart f k tile inst s)

/-- LONG_INSTANCE_CHECK: a run of 4 ms without a check is checked from now on; its duplicate starts on an eligible array,
reserved until then (R411). -/
def execLongInstanceCheck (tile duplicateTile : Nat) (s : State) : Res :=
  .next (match (getTile s tile).run with
    | none => s
    | some r => match kernelOf s r.flight with
      | none => s
      | some (f, k) =>
        if r.role != .primary || r.check.isSome || now s < r.start + 4000000 then s
        else
          let c := addCheck f r.inst 3 tile false false s
          let s := updTile tile (fun w => { w with run := some { r with check := some c.1 } }) c.2
          let s := setCheck c.1 (fun x => { x with start := r.start }) s
          match smFind s.integ.checks c.1 with
          | none => s
          | some x =>
            if !(dupArrays s x k).contains duplicateTile then s
            else if arrayFree s k.shape duplicateTile then checkStart f k c.1 x duplicateTile s
            else updTile duplicateTile (fun w => { w with reserved := some c.1 }) s)

/-- DURATION_OVERRUN (12 R321). -/
def execDurationOverrun (tile : Nat) (s : State) : Res :=
  .next (match (getTile s tile).run with
    | none => s
    | some r =>
      match findFlight s r.flight with
      | none => s
      | some f =>
        if r.overrun || now s ≤ r.start + r.durationUs * 1000 then s
        else
          let s := emit (srcTile tile) evDurationOverrun f.part [(20, 2, f.queue), (24, 4, hReady f.slot), (28, 4, r.durationUs),
            (32, 4, (now s - r.start) / 1000)] s
          let s := updPart f.part (fun p => { p with durOver := satAdd 32 p.durOver 1 }) s
          updTile tile (fun w => { w with run := some { r with overrun := true } }) s)

/-! ### The end of a run and of a kernel -/

/-- Every write of the array's store streams is acknowledged. -/
def storesDone (s : State) (t : Nat) : Bool :=
  (runTiles s t).all fun u => (getTile s u).streams.all fun x => x.2.kind != 1 || x.2.pend.isEmpty

/-- Ranges that load streams filled in whole, kept for a duplicate of a later kernel (R404). -/
def residentAfter (t : Tile) : List (Nat × Nat × Nat) :=
  let new := t.streams.filterMap fun x =>
    if x.2.kind = 0 && x.2.path != 2 && x.2.ring = 0 && x.2.rows = 1 && streamBytes x.2 ≤ x.2.ready
    then some (x.2.spadOff, streamBytes x.2, x.2.base) else none
  (new ++ t.resident.filter fun r => new.all fun n => r.1 + r.2.1 ≤ n.1 || n.1 + n.2.1 ≤ r.1).take 8

/-- Leave the array: streams but persistent ones go, stress and tile time count (12 R335, 17 R461). -/
def leaveArray (t : Nat) (r : Run) (part : Nat) (s : State) : State :=
  let ts := runTiles s t
  let dur := now s - r.start
  let s := ts.foldl (fun s u => updTile u (fun w => { stopRun w with
    resident := residentAfter w
    stress := w.stress + dur * stepFactor (clockStep s (u / 32)) / 100 }) s) s
  updPart part (fun p => { p with beat := { p.beat with tileNs := p.beat.tileNs + (now s - r.meter) * ts.length } }) s

def roleNo : Role → Nat
  | .primary => 0
  | .duplicate => 1
  | .third => 2

/-- A run ends: its contribution to the kernel (primaries only), its signature to the check. -/
def endRun (t : Nat) (r : Run) (s : State) : State :=
  match findFlight s r.flight with
  | none => updTile t stopRun s
  | some f =>
    let fl := (getTile s t).flags
    let e : RunEnd := { tile := t, sig := signature (withNibs r.outs r.nibs) fl r.hists r.guardBits, outs := r.outs, nibs := r.nibs, fences := r.fences, start := r.start }
    let s := leaveArray t r f.part s
    let s := if r.role = .primary then updKernel r.flight (fun k => { k with
        ended := k.ended + 1
        flags := k.flags ||| fl
        hists := r.hists.foldl (fun m h => smSet m h.1 (histMerge (smGet m {} h.1) h.2)) k.hists }) s else s
    let s := settleRearms s
    match r.check with
    | none => s
    | some c => compareCheck c (setCheck c (fun x => { x with ends := smSet x.ends (roleNo r.role) e }) s)

/-- The kernel's last instance has ended (R122). -/
def kernelOver (f : Flight) (k : Kernel) : Bool :=
  f.done.isNone && k.instances ≤ k.next && k.again.isEmpty && k.instances ≤ k.ended

/-- Histories are pushed and histogram records written (03 R78, R81). The push goes onto the history as the kernel read it,
so of two kernels that run at once one push is lost (R79). -/
def writeHist (f : Flight) (k : Kernel) (i : Nat) (d : MDesc) (s : State) : State :=
  let h := smGet k.hists {} i
  let s :=
    if d.qc.oscale = 2 && d.qc.histA != 0 then
      let b := writeVa f.context d.qc.histA (historyPush (smGet k.hbufs (List.replicate 320 0) i) h.amax) s
      noteAcc f.num true b.2 b.1
    else s
  if d.qc.histoA = 0 then s else
  let scale := if d.qc.oscale = 2 then (pack32 (scaleVal (scaleKind d.qc) (smGet k.histScale 0 i).toNat)).1 else 0
  let b := writeVa f.context d.qc.histoA (histRecord h scale) s
  noteAcc f.num true b.2 b.1

/-- KERNEL_COMPLETE: history, histogram, flag word, then the command's end. -/
def completeKernel (f : Flight) (k : Kernel) (s : State) : State :=
  let s := k.descs.zipIdx.foldl (fun s d => writeHist f k d.2 (parseMDesc k.level d.1) s) s
  let s := k.mma.zipIdx.foldl (fun s d => writeHist f k (8 + d.2) (parseMDesc k.level d.1) s) s
  let s := if k.flagsAddr = 0 then s else
    let b := writeVa f.context k.flagsAddr (le 4 k.flags.toNat) s
    noteAcc f.num true b.2 b.1
  settleReplays (finishFlight f.num 0 s)

def execKernelComplete (flight : Nat) (s : State) : Res :=
  .next (match kernelOf s flight with
    | some (f, k) => if kernelOver f k then completeKernel f k s else s
    | none => s)

/-! ### The sequencer (R126) -/

/-- The sequencer may issue. -/
def issues (t : Tile) : Bool := t.run.isSome && t.stall == .none_

def nextPc (t : Tile) : Tile := { t with pc := t.pc + 1 }

/-- An instruction that changes its tile alone. -/
def seqOp (tile : Nat) (f : Tile → Tile) (s : State) : Res :=
  doWhen (issues (getTile s tile)) (updTile tile (fun t => nextPc (f t)) s) s

/-- SETVL (R114). -/
def setVl (v : Nat) (t : Tile) : Tile :=
  if v = 0 then { t with vlZero := true }
  else if 8192 < v then orFlags fVlClamped { t with
    vl := 8192
    vlZero := false }
  else { t with
    vl := v
    vlZero := false }

def execSetvl (tile : Nat) (src : SOp) (s : State) : Res := seqOp tile (fun t => setVl (sval t src) t) s

def vStrips (t : Tile) : Nat := if t.vlZero then 0 else ceilDiv t.vl 128

/-- VLOOP opens, or skips its body when there are no strips. -/
def vloopOpen (bodyLen : Nat) (t : Tile) : Tile :=
  if vStrips t = 0 then { t with
    pc := t.pc + bodyLen + 2
    vlZero := false }
  else { t with
    vloop := some { body := t.pc + 1, strip := 0, strips := vStrips t }
    vlZero := false
    pc := t.pc + 1 }

def execVloop (tile bodyLen : Nat) (s : State) : Res :=
  let t := getTile s tile
  if !issues t then .next s
  else if t.vloop.isSome then .fault .loopInVloop
  else .next (updTile tile (vloopOpen bodyLen) s)

def vendNext (v : VLoop) (t : Tile) : Tile :=
  if v.strip + 1 < v.strips then { t with
    vloop := some { v with strip := v.strip + 1 }
    pc := v.body }
  else { t with
    vloop := none
    pc := t.pc + 1 }

def execVend (tile : Nat) (s : State) : Res :=
  let t := getTile s tile
  if !issues t then .next s
  else match t.vloop with
    | none => .fault .vendWithoutVloop
    | some v => .next (updTile tile (vendNext v) s)

/-- LOOP: 32-bit count; 0 skips the body. -/
def loopOpen (n bodyLen : Nat) (t : Tile) : Tile :=
  if n = 0 then { t with pc := t.pc + bodyLen + 2 }
  else { t with
    loops := { body := t.pc + 1, left := n } :: t.loops
    pc := t.pc + 1 }

def execLoop (tile : Nat) (src : SOp) (bodyLen : Nat) (s : State) : Res :=
  let t := getTile s tile
  if !issues t then .next s
  else if t.vloop.isSome then .fault .loopInVloop
  else if 8 ≤ t.loops.length then .fault .loopDepth
  else .next (updTile tile (loopOpen (sval t src % 2 ^ 32) bodyLen) s)

def lendNext (l : Loop) (rest : List Loop) (t : Tile) : Tile :=
  if 1 < l.left then { t with
    loops := { l with left := l.left - 1 } :: rest
    pc := l.body }
  else { t with
    loops := rest
    pc := t.pc + 1 }

def execLend (tile : Nat) (s : State) : Res :=
  let t := getTile s tile
  if !issues t then .next s
  else if t.vloop.isSome then .fault .lendWithoutLoop
  else match t.loops with
    | [] => .fault .lendWithoutLoop
    | l :: rest => .next (updTile tile (lendNext l rest) s)

/-- SOP: unsigned 64 bits; sub clips at 0, add and mul at 2⁶⁴ − 1; a shift of 64 or more is not stated (log 13). -/
def sopVal (op : SopOp) (a b : Nat) : Nat :=
  match op with
  | .add => min (a + b) (2 ^ 64 - 1)
  | .sub => a - b
  | .mul => min (a * b) (2 ^ 64 - 1)
  | .shl => if b < 64 then a * 2 ^ b % 2 ^ 64 else (Config.unstated64 1 (BitVec.ofNat 64 a) (BitVec.ofNat 64 b)).toNat
  | .shr => if b < 64 then a / 2 ^ b else (Config.unstated64 2 (BitVec.ofNat 64 a) (BitVec.ofNat 64 b)).toNat
  | .min => min a b
  | .max => max a b

def execSop (tile : Nat) (op : SopOp) (dst : Fin 32) (a b : SOp) (s : State) : Res :=
  seqOp tile (fun t => { t with sreg := smSet t.sreg dst.val (BitVec.ofNat 64 (sopVal op (sval t a) (sval t b))) }) s

/-! ### Streams -/

def findStream (t : Tile) (n : Nat) : Option Stream := (smFind t.streams n).bind fun x => if x.inUse then some x else none
def putStream (n : Nat) (x : Stream) (t : Tile) : Tile := { t with streams := smSet t.streams n x }

/-- Bytes a ring store stream can still take; a linear one has room for its whole range. -/
def swaitMet (x : Stream) (n : Nat) : Bool :=
  if x.kind = 1 then x.ring = 0 || x.pos - x.acked + n ≤ x.ring else x.pos + n ≤ x.ready

/-- SWAIT: proceeds, or stalls until the stream has the bytes or the room. -/
def execSwait (tile stream : Nat) (n : SOp) (s : State) : Res :=
  let t := getTile s tile
  doWhen (issues t)
    (updTile tile (fun t => match findStream t stream with
      | some x => if swaitMet x (sval t n) then nextPc t else { t with stall := .swait stream (sval t n) }
      | none => { t with stall := .swait stream (sval t n) }) s) s

def swaitReady (t : Tile) : Bool := match t.stall with
  | .swait st n => (match findStream t st with | some x => swaitMet x n | none => false)
  | _ => false

def proceed (t : Tile) : Tile := nextPc { t with stall := .none_ }

def execSwaitMet (tile : Nat) (s : State) : Res := doWhen (swaitReady (getTile s tile)) (updTile tile proceed s) s

/-- Scratchpad offset of a stream position. -/
def streamSpad (x : Stream) (p : Nat) : Nat := x.spadOff + if x.ring = 0 then p else p % x.ring

/-- The program's reach of the scratchpad on this tile (R131). -/
def tileConv (s : State) (tile : Nat) : Bool := match (getTile s tile).run with
  | some r => (match kernelOf s r.flight with | some (_, k) => kernConv k | none => false)
  | none => false

/-- SPAD_RANGE where bytes of a stream lie beyond the program's reach (R131). -/
def streamFlag (conv : Bool) (x : Stream) (p n : Nat) : U32 :=
  flagIf ((List.range n).any fun i => spadOut conv (streamSpad x (p + i))) fSpadRange

/-- SADV: a store stream takes n bytes from the scratchpad and issues them; others only move on. -/
def advStream (conv : Bool) (n : Nat) (x : Stream) (t : Tile) : Stream :=
  if x.kind = 1 then
    let bs := (List.range n).flatMap fun i => spadRead t conv (streamSpad x (x.pos + i)) 1
    { x with
      pos := x.pos + n
      pend := if n = 0 then x.pend else x.pend ++ [{ pos := x.pos, bytes := bs }] }
  else { x with pos := x.pos + n }

def execSadv (tile stream : Nat) (n : SOp) (s : State) : Res :=
  let c := tileConv s tile
  seqOp tile (fun t => match findStream t stream with
    | some x => orFlags (if x.kind = 1 then streamFlag c x x.pos (sval t n) else 0)
        (putStream stream (advStream c (sval t n) x t) t)
    | none => t) s

/-- GQ: row indices from the scratchpad to a gather stream. -/
def execGq (tile stream : Nat) (off cnt : SOp) (s : State) : Res :=
  let c := tileConv s tile
  seqOp tile (fun t => match findStream t stream with
    | some x =>
      let n := sval t cnt
      let b := spadRead t c (sval t off) (8 * n)
      orFlags (spadFlag c (sval t off) (8 * n))
        (putStream stream { x with idx := x.idx ++ (List.range n).map fun i => num b (8 * i) 8 } t)
    | none => t) s

def drainedStream (t : Tile) (n : Nat) : Bool := match smFind t.streams n with
  | some x => x.pend.isEmpty
  | none => true

/-- SDRAIN. -/
def execSdrain (tile stream : Nat) (s : State) : Res :=
  doWhen (issues (getTile s tile))
    (updTile tile (fun t => if drainedStream t stream then nextPc t else { t with stall := .sdrain stream }) s) s

def sdrainReady (t : Tile) : Bool := match t.stall with
  | .sdrain n => drainedStream t n
  | _ => false

def execSdrainDone (tile : Nat) (s : State) : Res := doWhen (sdrainReady (getTile s tile)) (updTile tile proceed s) s

/-! ### Fences and barriers -/

def runPart (s : State) (tile : Nat) : Option Nat := match (getTile s tile).run with
  | some r => (findFlight s r.flight).map (·.part)
  | none => none

def isPrimary (t : Tile) : Bool := match t.run with
  | some r => r.role == .primary
  | none => false

/-- A fence signalled by a run: raised at once, or, while the run's stores are held, once they are written (01 R24). -/
def runFence (tile f v : Nat) (s : State) : State :=
  match (runAt s tile).bind fun u => (getTile s u).run.map fun r => (u, r) with
  | some (u, r) =>
    if r.hold then updTile u (fun w => { w with run := some { r with fences := r.fences ++ [(f, v)] } }) s
    else fenceRaise false f v s
  | none => fenceRaise false f v s

/-- FSIG: after the run's issued stores are acknowledged (01 R24); suppressed in a duplicate (15 R407); a fence the
partition does not own is not raised (log 15). -/
def execFsig (tile : Nat) (fence value : SOp) (s : State) : Res :=
  let t := getTile s tile
  let f := sval t fence % 2 ^ 18
  doWhen (issues t && storesDone s tile)
    (updTile tile nextPc
      (if isPrimary t && fenceOwner s f == runPart s tile then runFence tile f (sval t value) s else s)) s

/-- FWAIT: proceeds, or stalls from now on (10 R287); a foreign fence is not waited for (log 15). -/
def execFwait (tile : Nat) (fence value : SOp) (s : State) : Res :=
  let t := getTile s tile
  let f := sval t fence % 2 ^ 18
  doWhen (issues t)
    (updTile tile (fun t =>
      if fenceOwner s f != runPart s tile || sval t value ≤ fenceVal s f then nextPc t
      else { t with stall := .fwait f (sval t value) (now s) }) s) s

def fwaitReady (s : State) (t : Tile) : Bool := match t.stall with
  | .fwait f v _ => v ≤ fenceVal s f
  | _ => false

def execFwaitMet (tile : Nat) (s : State) : Res := doWhen (fwaitReady s (getTile s tile)) (updTile tile proceed s) s

/-- The key of a barrier: the group of the lowest die that takes part. -/
def barKey (tile : Nat) (group : Fin 64) (members : List Nat) : Nat := members.foldl min tile / 32 * 64 + group.val

/-- BAR: the tile joins a group of its die and stalls; with members on several dies the barrier is device-wide (01 R23).
DESIGN CHOICE (log 95): the spec names the group and not its members; they are the operand of the group's first BAR. -/
def execBar (tile : Nat) (group : Fin 64) (members : List Nat) (s : State) : Res :=
  let key := barKey tile group members
  let g := smGet s.barriers (members, []) key
  doWhen (issues (getTile s tile))
    { updTile tile (fun t => { t with stall := .bar group.val }) s with
      barriers := smSet s.barriers key (g.1, g.2 ++ [tile]) } s

/-- Every member has arrived and still waits there. -/
def barFull (s : State) (key : Nat) : Bool := match smFind s.barriers key with
  | some g => g.1.all fun t => g.2.contains t && (getTile s t).stall == .bar (key % 64)
  | none => false

/-- BAR_GROUP_COMPLETE: every member proceeds. -/
def execBarGroupComplete (die : Nat) (group : Fin 64) (s : State) : Res :=
  let key := die * 64 + group.val
  doWhen (barFull s key)
    ((smGet s.barriers ([], []) key).2.eraseDups.foldl (fun s t => updTile t (fun w =>
        if w.stall == .bar group.val then proceed w else w) s)
      { s with barriers := smDel s.barriers key }) s

/-- END: the instance ends after every store stream has drained. -/
def execEnd (tile : Nat) (s : State) : Res :=
  doWhen (issues (getTile s tile)) (updTile tile (fun t => { t with stall := .ending }) s) s

/-- The flight whose instance runs on an array of the tile. -/
def tileFlight (s : State) (t : Nat) : Option Flight :=
  (runAt s t).bind fun u => (getTile s u).run.bind fun r => findFlight s r.flight

/-- The fence of a complete stream, raised for the primary's run only (R140, 15 R407; log 15). -/
def streamFence (t : Nat) (x : Stream) (s : State) : State :=
  match runAt s t with
  | some u =>
    if x.signalEn && isPrimary (getTile s u) && fenceOwner s x.fence == runPart s u && (runPart s u).isSome
    then runFence t x.fence x.fenceVal s else s
  | none => s

/-- A gather stream has no length of its own: it is complete once its instance ends with every queued row delivered, and
signals its fence then (R133; DESIGN CHOICE, log 100). -/
def gatherFences (tile : Nat) (s : State) : State :=
  (runTiles s tile).foldl (fun s u => (getTile s u).streams.foldl (fun s x =>
    if x.2.kind = 2 && x.2.inUse && x.2.idx.isEmpty then streamFence u x.2 s else s) s) s

/-- INSTANCE_END: after END, once every store stream has drained. -/
def execInstanceEnd (tile : Nat) (s : State) : Res :=
  .next (match (getTile s tile).run with
    | none => s
    | some r => if (getTile s tile).stall == .ending && storesDone s tile then
        (match (getTile (gatherFences tile s) tile).run with
        | some r => endRun tile r (gatherFences tile s)
        | none => endRun tile r s)
      else s)

/-! ### Vector instructions (R116) -/

def execArith (tile : Nat) (op : ArithOp) (bf16 : Bool) (m : VMask) (d a b c : Fin 32) (s : State) : Res :=
  seqOp tile (vArith op bf16 m d a b c) s
def execInt (tile : Nat) (op : IntOp) (m : VMask) (d a b : Fin 32) (s : State) : Res := seqOp tile (vInt op m d a b) s
def execCmp (tile : Nat) (op : CmpOp) (m : VMask) (d : Fin 8) (a b : Fin 32) (s : State) : Res := seqOp tile (vCmp op m d a b) s
def execMaskop (tile : Nat) (op : MaskOp) (d a b : Fin 8) (s : State) : Res := seqOp tile (vMaskop op d a b) s
def execCvt (tile : Nat) (op : CvtOp) (m : VMask) (d a : Fin 32) (s : State) : Res := seqOp tile (vCvt op m d a) s
def execTrans (tile : Nat) (fn : TransFn) (m : VMask) (d a : Fin 32) (s : State) : Res := seqOp tile (vTrans fn m d a) s
def execDiv (tile : Nat) (sqrt : Bool) (m : VMask) (d a b : Fin 32) (s : State) : Res := seqOp tile (vDiv sqrt m d a b) s
def execPerm (tile : Nat) (op : PermOp) (m : VMask) (d a : Fin 32) (s : State) : Res := seqOp tile (vPerm op m d a) s
def execReduce (tile : Nat) (op : RedOp) (bf16 : Bool) (m : VMask) (d a : Fin 32) (s : State) : Res :=
  seqOp tile (vReduce op bf16 m d a) s

def execLdv (tile : Nat) (m : VMask) (d : Fin 32) (addr : SOp) (s : State) : Res :=
  let c := tileConv s tile
  seqOp tile (fun t => vLdv c m d (sval t addr) t) s

/-- A write of the scratchpad drops the residency entries it touches (15 R404). -/
def dropResident (off n : Nat) (t : Tile) : Tile :=
  { t with resident := t.resident.filter fun r => r.1 + r.2.1 ≤ off || off + n ≤ r.1 }

def execStv (tile : Nat) (m : VMask) (a : Fin 32) (addr : SOp) (s : State) : Res :=
  let c := tileConv s tile
  seqOp tile (fun t => dropResident ((sval t addr + 512 * curStrip t) % 2 ^ 23) 512 (vStv c m a (sval t addr) t)) s

/-! ### Matrix instances (04 R84, R101 to R111) -/

/-- The number of the descriptor an MMA names: the launch's own by its place and bytes, from 8 on one that only MMA names
(R86). -/
def descIndex (k : Kernel) (off : Nat) (b : List Byte) : Nat :=
  let i := (off - k.spad) / 256
  if k.spad ≤ off && k.descs[i]? == some b then i
  else match k.descs.findIdx? (· == b) with
    | some j => j
    | none => 8 + k.mma.findIdx (· == b)

/-- A descriptor that only MMA names joins the kernel: its history is read at its first MMA (03 R78; log 92). -/
def addMma (s : State) (f : Flight) (b : List Byte) (k : Kernel) : Kernel :=
  if k.descs.contains b || k.mma.contains b then k else
  let q := (parseMDesc k.level b).qc
  let i := 8 + k.mma.length
  let h := if q.histA = 0 then none else some (readVa s f.context q.histA 320).data
  let k := { k with mma := k.mma ++ [b] }
  if q.oscale != 2 then k else { k with
    histScale := smSet k.histScale i (BitVec.ofNat 32 (historyScale q h).1)
    hists := smSet k.hists i { qstat := flagIf (historyScale q h).2 qHistEmpty : Hist }
    hbufs := match h with
      | some x => smSet k.hbufs i x
      | none => k.hbufs }

/-- MMA: the matrix instance of descriptor bytes b starts. -/
def startMatrix (k : Kernel) (off : Nat) (b : List Byte) (t : Tile) : Tile :=
  { t with matrix := some {
      desc := descIndex k off b, bytes := b, halted := false, resumed := false, chunks := 0, runPos := 0
      replay := false, held := [], ended := false } }

/-- The members of the array come up from idle together (R108). -/
def rampUp (tile : Nat) (s : State) : State :=
  (runTiles s tile).foldl (fun s u => updTile u (fun t => { t with ramp := .up }) s) s

/-- A halt that only an MMA's descriptor names makes the instance a checked one from then on: what it stores from now is
held (R103; log 94). -/
def haltCheck (tile : Nat) (f : Flight) (d : MDesc) (s : State) : State :=
  match (getTile s tile).run with
  | none => s
  | some r =>
    if r.role != .primary || r.check.isSome || d.halt.isNone || !dbgEnabled s f.part then s else
    let c := addCheck f r.inst 4 tile true false s
    setCheck c.1 (fun x => { x with start := r.start })
      (updTile tile (fun w => { w with run := some { r with
        check := some c.1
        hold := true } }) c.2)

def matrixBusy (t : Tile) : Bool := match t.matrix with
  | some m => !m.ended
  | none => false

/-- MMA: the descriptor at offset d of the scratchpad is taken and its instance starts. -/
def execMma (tile : Nat) (d : SOp) (s : State) : Res :=
  let t := getTile s tile
  match t.run.bind (fun r => kernelOf s r.flight) with
  | none => .next s
  | some (f, k) =>
    let b := spadRead t (kernConv k) (sval t d) 256
    doWhen (issues t && !matrixBusy t)
      (updTile tile (fun t => nextPc (orFlags (spadFlag (kernConv k) (sval t d) 256) (startMatrix (addMma s f b k) (sval t d) b t)))
        (updKernel f.num (addMma s f b) (haltCheck tile f (parseMDesc k.level b) (rampUp tile s)))) s

/-- MWAIT. MATRIX_INSTANCE_END or GUARD_REPLAY_DONE lets it proceed. -/
def execMwait (tile : Nat) (s : State) : Res :=
  doWhen (issues (getTile s tile))
    (updTile tile (fun t => if matrixBusy t then { t with stall := .mwait } else nextPc t) s) s

/-- The matrix instance has ended. -/
def matrixOver (t : Tile) : Tile :=
  let t := { t with matrix := t.matrix.map fun m => { m with
    ended := true
    replay := false } }
  if t.stall == .mwait then proceed t else t

def readerOf (s : State) (c : Nat) : Reader := fun a n => (readVa s c a n).data

/-- What reading the instance's operands meets (R494). -/
def operandAcc (s : State) (c : Nat) (d : MDesc) (i : Nat) : Acc :=
  let (r0, r1, c0, c1) := instBlock d i
  let rd (a : Acc) (va n : Nat) : Acc := (segments s c va n).foldl (fun a g => readPhys s (admits s c false) g.pa g.len a) a
  let a := if d.k = 0 then {} else (List.range (r1 - r0)).foldl (fun a j => rd a (d.aA + (r0 + j) * d.aS) (rowBytes d.qa.fmt d.k)) ({} : Acc)
  let b0 := c0 * formatBits d.qb.fmt / 8
  if r1 ≤ r0 then a else
  (List.range d.k).foldl (fun a j => rd a (d.bA + j * d.bS + b0) (ceilDiv (c1 * formatBits d.qb.fmt) 8 - b0)) a

/-- The output of one instance as stores, with its block-scale entries. -/
def matrixStores (d : MDesc) (o : MOut) : List (Nat × List Byte) × List (Nat × Bool × Nat) :=
  let rs := o.rows.map fun x => rowStores d o.c0 x.1 x.2
  (rs.flatMap (·.1) ++ (if d.qc.oscale = 0 || d.qc.scaleA = 0 then [] else o.scales.map fun x => (d.qc.scaleA + x.1, [BitVec.ofNat 8 x.2])),
   rs.flatMap (·.2))

/-- Bytes a run stored: noted for its signature and, where they are held, for the comparison (15 R405). -/
def outPut (t : Nat) (a : Nat) (bs : List Byte) (s : State) : State :=
  updTile t (fun w => { w with run := w.run.map fun r => { r with
    outs := smPutRange r.outs a bs
    nibs := smFilter r.nibs fun i _ => i / 2 < a || a + bs.length ≤ i / 2 } }) s

/-- A lone nibble a run stored: its half of the byte only (03 R60). -/
def nibPut (t : Nat) (x : Nat × Bool × Nat) (s : State) : State :=
  updTile t (fun w => { w with run := w.run.map fun r => { r with
    nibs := smSet r.nibs (2 * x.1 + b2n x.2.1) (x.2.2 % 16) } }) s

/-- Stores of a run: to memory unless they are suppressed or held; noted for the signature (15 R405, R407). -/
def storeOut (t : Nat) (r : Run) (f : Flight) (stores : List (Nat × List Byte)) (nibbles : List (Nat × Bool × Nat)) (s : State) : State :=
  let direct := r.role == .primary && !r.hold
  let s := stores.foldl (fun s x =>
    let s := if direct then
        let a := writeVa f.context x.1 x.2 s
        noteAcc f.num true a.2 a.1
      else s
    outPut t x.1 x.2 s) s
  nibbles.foldl (fun s x =>
    let s := if direct then
        let a := writeNibbleVa f.context x.1 x.2.1 x.2.2 s
        noteAcc f.num true a.2 a.1
      else s
    nibPut t x s) s

/-- Deliver the instance's output: stores, flags, histogram contribution; the accumulator files are clear (R101). -/
def deliver (t : Nat) (r : Run) (f : Flight) (m : Matrix) (d : MDesc) (o : MOut) (q : U32) (replays : Nat) (s : State) : State :=
  let st := matrixStores d o
  let s := clearAcc (· == t) (storeOut t r f st.1 st.2 s)
  let h : Hist := { o.hist with
    amax := (pack32 o.amax).1
    qstat := o.qstat ||| q
    replays := replays }
  updTile t (fun w => matrixOver (orFlags o.flags { w with run := w.run.map fun r => { r with
    hists := smSet r.hists m.desc (histMerge (smGet r.hists {} m.desc) h) } })) s

/-- A run's matrix with its kernel. -/
def matrixAt (s : State) (t : Nat) : Option (Run × Flight × Kernel × Matrix) :=
  match (getTile s t).run, (getTile s t).matrix with
  | some r, some m => (kernelOf s r.flight).map fun x => (r, x.1, x.2, m)
  | _, _ => none

/-- Chunks of a matrix instance. -/
def chunkCount (d : MDesc) : Nat := ceilDiv d.k (shapeW d.shape)

/-- Debug mode halts this instance: the partition's bit is set, the run is the primary, and chunk HALT_CHUNK is one of the
instance's chunks (R102, R103). -/
def mayHalt (s : State) (r : Run) (f : Flight) (k : Kernel) (m : Matrix) : Bool :=
  let d := parseMDesc k.level m.bytes
  r.role == .primary && dbgEnabled s f.part && (match d.halt with
    | some h => h < chunkCount d
    | none => false) && !m.halted && !m.resumed

/-- The history scale a descriptor's output converts with. -/
def scaleOfDesc (k : Kernel) (m : Matrix) (d : MDesc) : Nat :=
  (smGet k.histScale (BitVec.ofNat 32 (historyScale d.qc none).1) m.desc).toNat

/-- The ranges an instance reads: rows of A and B, scales, zero points, sums and bias (03 R63 to R68, 04 R86). -/
def heldRanges (d : MDesc) (i : Nat) : List (Nat × Nat) :=
  let (r0, r1, _, _) := instBlock d i
  let q (x : Quant) (rows cols chans : Nat) : List (Nat × Nat) :=
    [(x.scaleA, scaleBytes x rows cols chans), (x.zpA, if x.zpMode = 2 && zpTakes x then chans else 0)]
  ((if d.k = 0 then [] else
    ((List.range (r1 - r0)).map fun j => (d.aA + (r0 + j) * d.aS, rowBytes d.qa.fmt d.k)) ++
    ((List.range d.k).map fun j => (d.bA + j * d.bS, rowBytes d.qb.fmt d.n)) ++
    q d.qa d.m d.k d.m ++ q d.qb d.k d.n d.n ++ [(d.qb.sumA, if (zpUse d).1 then 4 * d.n else 0)]) ++
    q d.qc d.m d.n d.n ++ [(d.biasA, 4 * d.n)]).filter fun x => x.1 != 0 && x.2 != 0

/-- The inputs as an instance holds them until its guard decision is made (R80). -/
def holdInputs (rd : Reader) (d : MDesc) (i : Nat) : List (Nat × List Byte) :=
  (heldRanges d i).map fun x => (x.1, rd x.1 x.2)

/-- Reading from held inputs. -/
def heldReader (l : List (Nat × List Byte)) : Reader := fun a n =>
  match l.find? fun x => x.1 ≤ a && a + n ≤ x.1 + x.2.length with
  | some x => slice x.2 (a - x.1) n
  | none => List.replicate n 0

def noteGuard (t : Nat) (b : Bool) (s : State) : State :=
  updTile t (fun w => { w with run := w.run.map fun r => { r with guardBits := r.guardBits ++ [b] } }) s

/-- The last row passes the epilogue: output written, or a guard replay begun on the inputs held (R80, R104). -/
def matrixEnd (t : Nat) (r : Run) (f : Flight) (k : Kernel) (m : Matrix) (s : State) : State :=
  let d := parseMDesc k.level m.bytes
  let rd := readerOf s f.context
  let o := matrixOut rd d r.inst (scaleOfDesc k m d) none
  let s := noteAcc f.num false (operandAcc s f.context d r.inst) s
  if d.qc.oscale = 2 then
    let g := guardTest d o (scaleOfDesc k m d)
    if g.1 || g.2 then
      if d.qc.guard then noteGuard t true (updTile t (fun w => { w with matrix := some { m with
          replay := true
          held := holdInputs rd d r.inst } }) s)
      else deliver t r f m d o (flagIf g.1 qOver ||| flagIf g.2 qUnder) 0 (noteGuard t false s)
    else deliver t r f m d o 0 0 (noteGuard t false s)
  else deliver t r f m d o 0 0 s

def execMatrixInstanceEnd (tile : Nat) (s : State) : Res :=
  .next (match matrixAt s tile with
    | some (r, f, k, m) =>
      if m.ended || m.replay || (m.halted && !m.resumed) || mayHalt s r f k m then s else matrixEnd tile r f k m s
    | none => s)

/-- GUARD_REPLAY_DONE: the instance run again from its held inputs and converted with its own scale (R80). -/
def execGuardReplayDone (tile : Nat) (s : State) : Res :=
  .next (match matrixAt s tile with
    | some (r, f, k, m) =>
      if !m.replay || m.ended then s
      else
        let d := parseMDesc k.level m.bytes
        let rd := heldReader m.held
        let o0 := matrixOut rd d r.inst (scaleOfDesc k m d) none
        let own := (derive d.qc.fmt (scaleKind d.qc) o0.amax).1
        deliver tile r f m d (matrixOut rd d r.inst (scaleOfDesc k m d) (some own)) qReplayed 1 s
    | none => s)

/-- One accumulator's three values: hi, lo, partial. -/
structure AccEl where
  tile : Nat
  key  : Nat
  hi   : U32
  lo   : U32
  part : U32

/-- The accumulators of the halted instance where the array holds them (R90, R101, R103, R110). -/
def exposed (s : State) (f : Flight) (d : MDesc) (shape t i chunks : Nat) : List AccEl :=
  let (r0, r1, c0, c1) := instBlock d i
  let rd := readerOf s f.context
  let rows := if d.k = 0 then [] else rowsB rd d
  let cols := (List.range (c1 - c0)).map fun j => (j, (colB rd d rows (c0 + j)).vals)
  let ps := physCols s shape t
  (List.range (r1 - r0)).flatMap fun r =>
    let a := (rowA rd d (r0 + r)).vals
    cols.filterMap fun x => (accPlace ps d.p r x.1).map fun y =>
      let v := accumulate d a x.2 chunks
      { tile := y.1, key := y.2, hi := (pack32 v.tot.hi).1, lo := (pack32 v.tot.lo).1
        part := BitVec.ofNat 32 ((accFmt d).pack v.part).1 }

/-- Fill the files of the array's bottom tiles. -/
def fillAcc (t : Nat) (els : List AccEl) (s : State) : State :=
  els.foldl (fun s x => updTile x.tile (fun w => { w with
    accHi := smSet w.accHi x.key x.hi
    accLo := smSet w.accLo x.key x.lo
    accPart := smSet w.accPart x.key x.part
    accFor := some t }) s) s

/-- DEBUG_HALT: after chunk HALT_CHUNK has entered in full the file stands exposed (R102, R103). -/
def execDebugHalt (tile : Nat) (s : State) : Res :=
  .next (match matrixAt s tile with
    | some (r, f, k, m) =>
      if !mayHalt s r f k m || m.ended || m.replay then s
      else
        let d := parseMDesc k.level m.bytes
        let n := d.halt.getD 0 + 1
        fillAcc tile (exposed s f d k.shape tile r.inst n) (updTile tile (fun w => { w with matrix := some { m with
          halted := true
          chunks := n
          runPos := if d.acc16 then n % d.run else 0 } }) s)
    | none => s)

/-- The first tile of the array whose bottom row holds a tile, when its instance is halted (R103). -/
def haltedArray (s : State) (t : Nat) : Option (Nat × Run) :=
  ((s.tiles.find? fun x => (match x.2.matrix with
      | some m => m.halted && !m.resumed
      | none => false) && (gangOf (match x.2.run with
        | some r => runShape s r
        | none => 0) t).head? == some x.1).bind fun x => x.2.run.map fun r => (x.1, r))

/-- The array the function's DBG_CTRL selects by a bottom tile, when its partition owns it and it is halted. -/
def haltedTile (s : State) (func : Nat) : Option (Nat × Run) :=
  let t := (getFunc s func).dbgTile
  if tileOwner s t != funcPart s func then none else haltedArray s t

/-- DBG_RESUME: the halted instance goes on. -/
def dbgResume (func : Nat) (s : State) : State := match haltedTile s func with
  | some (t, _) => updTile t (fun w => { w with matrix := w.matrix.map fun m => { m with
      resumed := true
      halted := false } }) s
  | none => s

def execDbgResume (func : Nat) (s : State) : Res := .next (dbgResume func s)

/-- DBG_ABORT: the command ends with INSTANCE_ABORTED (R102, R103, 10 R294). -/
def dbgAbort (func : Nat) (s : State) : State := match haltedTile s func with
  | some (_, r) => abortFlight (topOf s r.flight) stInstanceAborted s
  | none => s

def execDbgAbort (func : Nat) (s : State) : Res := .next (dbgAbort func s)

/-- An instance of some kernel waits that this tile could take. -/
def instancePends (s : State) (t : Nat) : Bool := s.flights.any fun f => f.done.isNone && match f.work with
  | .kernel k => k.tileMask.testBit t && (k.next < k.instances || !k.again.isEmpty)
  | _ => false

/-- ARRAY_RAMP_DOWN: an array with no A row and no pending instance becomes idle, a gang's members together (R107, R108).
The 64 cycles and the steps of the ramp are timing (log 84). -/
def execArrayRampDown (tile : Nat) (s : State) : Res :=
  let first := (runAt s tile).getD tile
  let ts := match runAt s tile with
    | some u => runTiles s u
    | none => [tile]
  doWhen (!matrixBusy (getTile s first) && !instancePends s tile)
    (ts.foldl (fun s u => updTile u (fun t => { t with ramp := .idle }) s) s) s

end Sys2Proof.Machine
end

