-- ==== Sys2Proof/Machine/Time.lean ====
section
/-! DEFINITION. Network time (02_time_and_beats): measurements, their correction, lock states, 1PPS and ToD, the TSC
latch, and what the passing of a nanosecond does to the TSC (step on an empty queue, log 2). -/

namespace Sys2Proof.Machine

/-- A second in ns. -/
abbrev secNs : Nat := 1000000000

/-! ### The tick (02 R42; logs 2, 3) -/

/-- The extra 1/65,536 ns of a tick at 500 ppm: 4,096 of them in 125 ticks, which is 500 ppm exactly. -/
def slewUnits (phase : Nat) : Nat := (phase + 1) * 4096 / 125 - phase * 4096 / 125

/-- Units of 1/65,536 ns that one nanosecond of the oscillator adds to the TSC under a correction. -/
def tickUnits (phase : Nat) : Correction → Nat
  | .none => 65536
  | .slew o => if o > 0 then 65536 - slewUnits phase else if o < 0 then 65536 + slewUnits phase else 65536
  | .halfRate _ => 32768

/-- What is left to correct once a tick has moved the TSC by `d` ns. -/
def tickCorr (c : Correction) (d : Nat) : Correction :=
  match c with
  | .none => .none
  | .slew o => if o + (d : Int) - 1 = 0 then .none else .slew (o + (d : Int) - 1)
  | .halfRate o => if o + (d : Int) - 1 ≤ 1000000 then .slew (o + (d : Int) - 1) else .halfRate (o + (d : Int) - 1)

/-- One nanosecond passes. -/
def tick (s : State) : State :=
  if s.power.rails == .none_ then s else
  updClock (fun c =>
    let u := c.frac + tickUnits c.phase c.corr
    { c with
      tsc := (c.tsc + u / 65536) % 2 ^ 64
      frac := u % 65536
      phase := (c.phase + 1) % 125
      corr := tickCorr c.corr (u / 65536) }) s

/-! ### Measurements (02 R42, R43) -/

def satOffset (o : Int) : Int := max (-2147483647) (min 2147483647 o)

/-- The correction of a measured offset (R42): the new TSC, the correction in force, whether it steps. -/
def correctionOf (first member : Bool) (tsc : Nat) (off : Int) : Nat × Correction × Bool :=
  let src := ((tsc : Int) - off).toNat % 2 ^ 64
  if first then (src, .none, true)
  else if off.natAbs ≤ 1000000 then (tsc, if off = 0 then .none else .slew off, false)
  else if member then (tsc, .slew off, false)
  else if off < 0 then (src, .none, true)
  else (tsc, .halfRate off, false)

/-- The lock state after a measurement (R43), given the new count of good measurements. -/
def lockAfter (l : LockState) (good : Nat) (off : Int) : LockState :=
  if off.natAbs > 2000 then .unlocked
  else match l with
    | .locked => if off.natAbs > 250 then .degraded else .locked
    | .degraded => if good ≥ 8 then .locked else .degraded
    | .unlocked => if good ≥ 8 then .locked else .unlocked

/-- TIME.STATUS.STATE changes: the TIME_STATE event. -/
def setLock (l : LockState) (s : State) : State :=
  let old := s.clock.lock
  if l = old then s else
  let s := updClock (fun c => { c with
    lock := l, everLocked := c.everLocked || l == .locked,
    unlockedSince := if l = .unlocked then c.tsc else c.unlockedSince }) s
  -- TIME_DEGRADED of the windows that are open (17 R452)
  let s := if l == .locked then s else updTele (fun t => { t with
    monitors := t.monitors.map fun m => if m.active then { m with degraded := true } else m }) s
  emit srcClover evTimeState devPart
    [(20, 1, lockCode old), (21, 1, lockCode l), (24, 4, unsignedOf 32 s.clock.offset)] s

/-- A valid offset measurement (R42, R43): correction, TIME_STEP, lock state, GOOD_COUNT. -/
def measure (off : Int) (s : State) : State :=
  let old := now s
  let (t, corr, step) := correctionOf (!s.clock.measured) (isMember s) old off
  let good := if off.natAbs ≤ 250 then min 255 (s.clock.goodCount + 1) else 0
  let s := updClock (fun c => { c with
    tsc := t, frac := if step then 0 else c.frac, corr := corr, offset := satOffset off, measured := true,
    lastValid := t, holdover := false, goodCount := good, stepOccurred := c.stepOccurred || step }) s
  let s := if step then emitAt t srcClover evTimeStep devPart [(20, 8, old), (28, 8, t)] s else s
  setLock (lockAfter s.clock.lock good off) s

/-- The TSC less the time the source names. -/
def offsetTo (s : State) (source : Nat) : Int := (now s : Int) - (source : Int)

def ctlSource (s : State) : Nat := min 2 (bits s.clock.ctrl.toNat 1 0)
def ctlPort (s : State) : Nat := bits s.clock.ctrl.toNat 5 2
def ctlDomain (s : State) : Nat := bits s.clock.ctrl.toNat 13 6
def ctlTransport (s : State) : Nat := min 2 (bits s.clock.ctrl.toNat 15 14)
def ppsOutEn (s : State) : Bool := bit s.clock.ctrl.toNat 16

/-- PTP measures on the selected port, domain and transport, with the Ethernet ports up: S0 and S1 (R38, R40). -/
def ptpAccepted (sub dom transport : Nat) (s : State) : Bool :=
  ctlSource s == 1 && sub == ctlPort s && dom == ctlDomain s && transport == ctlTransport s &&
  (s.power.state == .s0 || s.power.state == .s1)

/-- ASYM_NS of the port corrects the measured path (14 R370; log 12). -/
def ptpSource (sub source : Nat) (s : State) : Nat :=
  ((source : Int) + signedOf 32 (getSub s sub).asym.toNat).toNat

/-- PTP_MESSAGE: an offset measurement against the source (R38). -/
def execPtpMessage (sub dom transport source : Nat) (s : State) : Res :=
  doWhen (ptpAccepted sub dom transport s) (measure (offsetTo s (ptpSource sub source s)) s) s

/-- The ToD message is for us: 16 bytes, SYNC and TYPE (R39). -/
def todFramed (b : List Byte) : Bool := b.length == 16 && num b 0 2 == 0x3CC3 && num b 2 1 == 1
def todCrcOk (b : List Byte) : Bool := crc16 (b.take 14) == num b 14 2

/-- What a framed message leaves for the next edge; UTC_OFFSET is recorded and not used (R39). -/
def todKept (b : List Byte) (t : Nat) : Option Tod :=
  if todCrcOk b then some { taiSec := num b 3 8, utcOffset := num b 11 2, flags := num b 13 1, arrived := t } else none

/-- TOD_MESSAGE: kept until the next edge; one whose CRC fails leaves the next edge unlabelled (R39). -/
def execTodMessage (b : List Byte) (s : State) : Res :=
  doWhen (ctlSource s == 2 && todFramed b)
    (updClock (fun c => { c with tod := todKept b c.tsc }) s) s

/-- A message labels an edge when it ended 100 ms to 900 ms before it (R39). -/
def todLabels (m : Tod) (t : Nat) : Bool := m.arrived + 100000000 ≤ t && t ≤ m.arrived + 900000000

/-- IN_DELAY_NS is subtracted from the edge's stamp (19 R483). -/
def ppsInDelay (s : State) : Int := signedOf 16 (bits s.power.modPps.toNat 15 0)

/-- PPS_EDGE: a measurement when a valid ToD message labels the edge (R39). -/
def execPpsEdge (s : State) : Res :=
  let clear (s : State) : State := updClock (fun c => { c with tod := none }) s
  let record (m : Tod) (s : State) : State := updClock (fun c => { c with
    utcOffset := m.utcOffset
    todFlags := m.flags }) s
  doWhen (ctlSource s == 2)
    (match s.clock.tod with
     | none => s
     | some m =>
       if todLabels m (now s) then clear (record m (measure (offsetTo s (m.taiSec * secNs) - ppsInDelay s) s)) else clear s) s

/-- MEASUREMENT_TIMEOUT: 2 s without a valid measurement (R43). -/
def execMeasurementTimeout (s : State) : Res :=
  doWhen (s.clock.lock != .unlocked)
    (setLock .unlocked (updClock (fun c => { c with goodCount := 0 }) (advance (s.clock.lastValid + 2 * secNs) s))) s

/-- HOLDOVER: 1 s without a valid measurement (R49). -/
def execHoldover (s : State) : Res :=
  .next (updClock (fun c => { c with holdover := true }) (advance (s.clock.lastValid + secNs) s))

/-! ### 1PPS and ToD out, the TSC latch -/

/-- OUT_DELAY_NS advances the PPS_OUT edge (19 R483). -/
def ppsOutDelay (s : State) : Int := signedOf 16 (bits s.power.modPps.toNat 31 16)

/-- The first whole TAI second from an instant on, with the output delay. -/
def wholeSecond (s : State) (t : Int) : Nat := roundUp (t + ppsOutDelay s).toNat secNs

/-- The instant of the next edge that has not been driven: a whole TAI second less OUT_DELAY_NS. -/
def nextPps (s : State) : Nat :=
  let t := ((wholeSecond s (now s) : Int) - ppsOutDelay s).toNat
  if s.clock.ppsEdge == some t then t + secNs else t

/-- PPS_OUT_EDGE (R41). -/
def execPpsOutEdge (s : State) : Res :=
  doWhen (ppsOutEn s)
    (updClock (fun c => { c with ppsEdge := some (nextPps s) }) (advance (nextPps s) s)) s

/-- The level of the 1PPS output: high for 100 ms from each edge driven (R41). -/
def ppsOutHigh (s : State) : Bool := match s.clock.ppsEdge with
  | some t => decide (now s < t + 100000000)
  | none => false

/-- The second whose message goes out next, 500 ms before its PPS_OUT edge (19 R477). -/
def todSecond (s : State) : Nat := wholeSecond s ((now s + secNs / 2 : Nat) : Int)
def nextTodTx (s : State) : Nat := ((todSecond s : Int) - ppsOutDelay s - (secNs / 2 : Nat)).toNat

/-- The message of R39 for the next edge; UTC_OFFSET and FLAGS as last recorded from a ToD message received (log 12). -/
def todOut (s : State) (sec : Nat) : List Byte :=
  let b := rec_ 14 [(0, 2, 0x3CC3), (2, 1, 1), (3, 8, sec), (11, 2, s.clock.utcOffset), (13, 1, s.clock.todFlags % 2)]
  b ++ le 2 (crc16 b)

/-- TOD_TRANSMIT (19 R477). -/
def execTodTransmit (s : State) : Res :=
  doWhen (ppsOutEn s)
    (updOut (fun o => { o with tod := o.tod ++ [todOut s (todSecond s / secNs)] }) (advance (nextTodTx s) s)) s

/-- TSC_LOW_READ: bits [31:0] answered, bits [63:32] latched for the function (R36). -/
def execTscLowRead (func : Nat) (s : State) : Res :=
  .next (updOut (fun o => { o with reads := o.reads ++ [(func, BitVec.ofNat 32 (now s))] })
    (updClock (fun c => { c with latch := smSet c.latch func (BitVec.ofNat 32 (now s / 2 ^ 32)) }) s))

end Sys2Proof.Machine
end

