-- ==== Sys2Proof/Machine/Memory.lean ====
section
/-! DEFINITION. Device memory at work: stream responses and store acknowledgements (05 R133 to R141), the channel
controllers (08 R204 to R224, 09 R244), predictive map-out (R225 to R229) and dead channels (R230, R231). -/

namespace Sys2Proof.Machine

/-! ### Streams (05 R139, R140) -/

/-- The parts of [off, off + n) of a stream's range as physical (or host) addresses. -/
def streamParts (x : Stream) (off n : Nat) : List Seg :=
  x.segs.filterMap fun g =>
    let lo := max off g.off
    let hi := min (off + n) (g.off + g.len)
    if lo < hi then some { off := lo - off, pa := g.pa + (lo - g.off), len := hi - lo } else none

/-- Offset in the range of a position of a load or store stream: row and byte. -/
def streamOff (x : Stream) (p : Nat) : Nat :=
  if x.rowBytes = 0 then 0 else p / x.rowBytes * x.stride + p % x.rowBytes

/-- The parts of n bytes of a load or store stream from position p, row by row, with `off` counted from p. -/
def posParts (x : Stream) (p n : Nat) : List Seg :=
  if n = 0 || x.rowBytes = 0 then [] else
  (List.range ((p + n - 1) / x.rowBytes - p / x.rowBytes + 1)).flatMap fun i =>
    let row := p / x.rowBytes + i
    let lo := max p (row * x.rowBytes)
    let hi := min (p + n) ((row + 1) * x.rowBytes)
    (streamParts x (streamOff x lo) (hi - lo)).map fun g => { g with off := g.off + (lo - p) }

/-- Put bytes of a stream into the scratchpad from stream position p on; out of range nothing is written (R131). -/
def spadPut (conv : Bool) (x : Stream) (p : Nat) (bs : List Byte) (t : Tile) : Tile :=
  dropResident x.spadOff (if x.ring = 0 then p + bs.length else x.ring)
    { t with spad := bs.zipIdx.foldl (fun m b =>
        if spadOut conv (streamSpad x (p + b.2)) then m else smSet m (streamSpad x (p + b.2) % 2 ^ 23) b.1) t.spad }

/-- The sticky flag word of the instance on the array of a tile takes flags. -/
def arrayFlags (t : Nat) (f : U32) (s : State) : State := match runAt s t with
  | some u => updTile u (orFlags f) s
  | none => s

/-- What the program may reach of the scratchpad of any tile of its array (R131). -/
def arrayConv (s : State) (t : Nat) : Bool := match runAt s t with
  | some u => tileConv s u
  | none => false

/-- Bytes that leave a die on a link between a tile and memory (12 R334, 01 R18). -/
def crossBytes (t : Nat) (out : Bool) (parts : List Seg) : Nat :=
  parts.foldl (fun n g =>
    n + (if out then dieRoute (t / 32) (stackOf g.pa / 4) else dieRoute (stackOf g.pa / 4) (t / 32)).length * g.len) 0

/-- The pool of a stream's requests to memory or the host (R142). -/
def streamPool (x : Stream) (parts : List Seg) : Pool :=
  let d := (parts.head?.map fun g => stackOf g.pa / 4).getD 0
  if x.path = 2 then .host else if x.path = 1 then .teasel d else if x.kind = 1 then .write d else .read d

/-- A stream may issue a request for n bytes: a free tag of its pool, and tokens of each regulator its bytes pass (R141). -/
def streamMay (s : State) (t p : Nat) (x : Stream) (parts : List Seg) (n : Nat) : Bool :=
  let c := if x.path = 2 then 0 else crossBytes t (x.kind = 1) parts
  tagFree s p 1 (streamPool x parts) && regOpen s p (if x.path = 2 then 2 else 0) n && (c = 0 || regOpen s p 1 c)

/-- The tokens such a request takes. -/
def streamSpend (t p : Nat) (x : Stream) (parts : List Seg) (n : Nat) (s : State) : State :=
  if x.path = 2 then meterHost p n s
  else
    let c := crossBytes t (x.kind = 1) parts
    meterHbm p n (if c = 0 then s else meterD2d p c s)

/-- How many bytes of a load stream may arrive now: what is left, and what the ring has room for (R139). -/
def loadRoom (x : Stream) : Nat :=
  let left := streamBytes x - x.ready
  if x.ring = 0 then left else min left (x.ring - (x.ready - x.pos))

/-- Bytes delivered to a load stream. -/
def loadDeliver (t e n : Nat) (host : List Byte) (f : Flight) (x : Stream) (s : State) : State :=
  let k := min n (loadRoom x)
  let parts := posParts x x.ready k
  let c := arrayConv s t
  if !streamMay s t f.part x parts k || (x.path != 2 && withheldParts s parts) then s else
  let done (bs : List Byte) (s : State) : State :=
    let x' := { x with
      ready := x.ready + k
      complete := x.ready + k == streamBytes x }
    let s := arrayFlags t (streamFlag c x x.ready k) (updTile t (fun w => putStream e x' (spadPut c x x.ready bs w)) s)
    if x'.complete && !x.complete then streamFence t x s else s
  if x.path = 2 then done (slice host 0 k) (streamSpend t f.part x parts k s)
  else afterSnoops false parts (fun s =>
    let a := parts.foldl (fun a g => readPhys s (admits s f.context false) g.pa g.len a) {}
    done (slice a.data 0 k) (streamSpend t f.part x parts k (noteAcc f.num false a s))) s

/-- A null-row access of a gather stream counts in NULL_COUNT of the table whose records BASE lies in (R134, 06 R163; log
100). -/
def countNull (x : Stream) (s : State) : State :=
  match s.tables.tab.find? fun t => t.2.context = x.context && ([t.2.cur, t.2.retir].any fun v => v.st != .empty &&
      (let l := layoutOf s t.2 v
       l.base ≤ x.base && x.base < l.base + l.dies * l.slab)) with
  | some t => updTable t.1 (fun t => { t with nullCount := (t.nullCount + 1) % 2 ^ 64 }) s
  | none => s

/-- The next row of a gather stream: zeros for an index at or above ROWS, a null-row access (R134). -/
def gatherDeliver (t e : Nat) (host : List Byte) (f : Flight) (x : Stream) (s : State) : State :=
  match x.idx with
  | [] => s
  | i :: rest =>
    if x.ring != 0 && x.ring < x.ready - x.pos + x.rowBytes then s else
    let c := arrayConv s t
    let done (bs : List Byte) (s : State) : State :=
      arrayFlags t (streamFlag c x x.ready x.rowBytes) (updTile t (fun w => putStream e { x with
        idx := rest
        ready := x.ready + x.rowBytes
        gqCount := x.gqCount + 1 } (spadPut c x x.ready bs w)) s)
    if x.rows ≤ i then done (zeros x.rowBytes) (countNull x s) else
    let parts := streamParts x (i * x.stride) x.rowBytes
    if !streamMay s t f.part x parts x.rowBytes || (x.path != 2 && withheldParts s parts) then s
    else if x.path = 2 then done (slice host 0 x.rowBytes) (streamSpend t f.part x parts x.rowBytes s)
    else afterSnoops false parts (fun s =>
      let a := parts.foldl (fun a g => readPhys s (admits s f.context false) g.pa g.len a) {}
      done (slice a.data 0 x.rowBytes) (streamSpend t f.part x parts x.rowBytes (noteAcc f.num false a s))) s

/-- Where a store stream's byte is noted for the signature: its device virtual address, or 2^63 on for host memory. -/
def outKey (x : Stream) (off : Nat) : Nat := (if x.path = 2 then 2 ^ 63 else 0) + x.base + off

/-- Note the bytes of a store in the run of the array. -/
def noteStore (u : Nat) (x : Stream) (p : PendStore) (s : State) : State :=
  p.bytes.zipIdx.foldl (fun s b => outPut u (outKey x (streamOff x (p.pos + b.2))) [b.1] s) s

/-- A write of a store stream reaches its destination and is acknowledged (R140); a duplicate's and a third run's stores
are suppressed, those of a held in-place run wait in the hold buffer (15 R405, R407). -/
def storeDone (t e : Nat) (f : Flight) (u : Nat) (r : Run) (x : Stream) (index : Nat) (p : PendStore) (s : State) : State :=
  let n := p.bytes.length
  let parts := posParts x p.pos n
  if r.role == .primary && !streamMay s t f.part x parts n then s else
  let ack (s : State) : State :=
    let x' := { x with
      pend := x.pend.eraseIdx index
      acked := x.acked + n
      complete := x.acked + n == streamBytes x }
    let s := updTile t (putStream e x') (noteStore u x p s)
    if x'.complete && !x.complete then streamFence t x s else s
  if r.role != .primary then ack s
  else if x.path = 2 then
    ack (updOut (fun o => { o with
      hostWrites := o.hostWrites ++ parts.map fun g => (queueFunc s f.queue, g.pa, slice p.bytes g.off g.len) })
      (streamSpend t f.part x parts n s))
  else if r.hold then ack s
  else afterSnoops true parts (fun s =>
    let a := parts.foldl (fun a g => writePhys (admits a.1 f.context true) g.pa (slice p.bytes g.off g.len) a) (s, {})
    ack (streamSpend t f.part x parts n (noteAcc f.num true a.2 a.1))) s

/-! ### Dead channels (08 R230, R231) -/

/-- Requests that wait at a stack's channels complete with MEM_CHANNEL_DEAD (R230 step 1). -/
def flushStack (k c : Nat) (s : State) : State :=
  (List.range 16).foldl (fun s i =>
    let n := k * 16 + i
    let l := (getChan s n).queue
    let s := updChan n (fun w => { w with queue := [] }) s
    l.foldl (fun s r =>
      let s := updMem (fun m => { m with done := m.done ++ [{ id := r.id, data := [], status := stMemChannelDead }] }) s
      match r.who with
      | .command q n =>
        (match s.flights.find? (fun f => f.queue = q && f.seq = n) with
        | some f => updFlight f.num (fun f => { f with
            status := if f.status = 0 then stMemChannelDead else f.status
            chan := c }) s
        | none => s)
      | _ => s) s) s

/-- The extents of any context that cover one of the frames 38,400 to 40,959 of a stack (R231). -/
def topExtents (s : State) (k : Nat) : List Nat :=
  (s.mem.extents.filter fun e => !e.2.shared && e.2.paFrame < stackFrame k 40960 &&
    stackFrame k 38400 < e.2.paFrame + e.2.lenFrames).map (·.1)

/-- The owning partition of a stack, for its records. -/
def stackPart (s : State) (k : Nat) : Option Nat := sixteenthOwner s k

/-- The removed extent that begins lowest. -/
def lowestExtent (l : List Extent) : Option Extent :=
  l.foldl (fun (b : Option Extent) e => match b with
    | none => some e
    | some x => if e.paFrame < x.paFrame then some e else some x) none

/-- STACK_LOST: ADDRESS names the lowest removed frame, as its owner maps it (R230 step 4, R231). -/
def stackLost (c : Nat) (is : List Nat) (s : State) : FaultRec :=
  match lowestExtent (is.filterMap fun i => smFind s.mem.extents i) with
  | some e => chanRec s stStackLost c e.context (e.vaFrame * frameBytes)
  | none => { chanRec s stStackLost c 0 0 with atype := 3 }

/-- A channel dies (R230): the stack's contents are lost; it is zero-filled 15-way, or retired when it already has a
mapped-out channel or is still in map-out. -/
def killChannel (c cause : Nat) (s : State) : State :=
  let k := c / 16
  let s := updChan c (fun w => { w with ueKill := false }) s
  if (getChan s c).st == .dead || (getChan s c).st == .mappedOut then s else
  let s := updChan c (fun w => { w with
    st := .dead
    retry := none }) s
  let s := emit (srcChan c) evChannelDead devPart [(20, 1, cause)] s
  if (getStack s k).out.isSome || (getStack s k).retired then
    flushStack k c (dropSlots k (updStack k (fun x => { x with
      retired := true
      phase := .idle
      next := none }) s))
  else
    let is := topExtents s k
    let s := updStack k (fun x => { x with
      phase := .zeroFill
      channel := c % 16
      waitFrame := none
      out := some (c % 16) }) s
    let s := flushStack k c s
    let s := faultPut (stackPart s k) (stackLost c is s) s
    let s := msix 0 s.mem.opFaultq.vector s
    let s := revokeExtents is (some stMemChannelDead) s
    updMem (fun m => { m with owners := smFilter m.owners fun f _ => !(stackFrame k 38400 ≤ f && f < stackFrame k 40960) }) s

/-- Channels that met sixteen uncorrectable reads within 1 ms die (R230; log 31). -/
def killsDue (s : State) : State :=
  ((s.mem.channels.filter fun c => c.2.ueKill).map (·.1)).foldl (fun s c => killChannel c 1 s) s

/-- Data for a load or gather stream arrives. -/
def execStreamResponse (tile engine bytes : Nat) (hostData : List Byte) (s : State) : Res :=
  .next (match findStream (getTile s tile) engine, tileFlight s tile with
    | some x, some f =>
      if x.kind = 0 then killsDue (loadDeliver tile engine bytes hostData f x s)
      else if x.kind = 2 then killsDue (gatherDeliver tile engine hostData f x s)
      else s
    | _, _ => s)

def execStoreAck (tile engine index : Nat) (s : State) : Res :=
  .next (match findStream (getTile s tile) engine, runAt s tile with
    | some x, some u =>
      match (getTile s u).run, x.pend[index]? with
      | some r, some p =>
        (match findFlight s r.flight with
        | some f => if x.kind = 1 then killsDue (storeDone tile engine f u r x index p s) else s
        | none => s)
      | _, _ => s
    | _, _ => s)

/-- The channel controllers work: booted, in S0 or S1 (18 R464). -/
def hbmOn (s : State) : Bool := s.power.ready && s.power.rails == .on && (s.power.state == .s0 || s.power.state == .s1)

/-- A row of the channel controllers, which does nothing while they are off. -/
def memRow (s : State) (r : Res) : Res := if hbmOn s then r else .next s

/-- The zero-fill of a stack ends: owned frames are zero plaintext under their key domain, the others zero ciphertext. -/
def execZeroFillDone (stack : Nat) (s : State) : Res := memRow s <|
  doWhen ((getStack s stack).phase == .zeroFill)
    (let c := stack * 16 + (getStack s stack).channel
     let inStack (f : Nat) : Bool := stackFrame stack 0 ≤ f && f < stackFrame stack 40960
     let s := updMem (fun m => { m with
       cells := m.cells.filter fun x => !inStack (x.1 / frameBytes)
       keyTag := smFilter m.keyTag fun g _ => !inStack (g / 32768)
       zeroed := smFilter m.zeroed fun f _ => !inStack f
       errors := smFilter m.errors fun g _ => !inStack (g / 32768)
       poison := m.poison.filter fun g => !inStack (g / 32768) }) s
     let s := (ownedFrom s stack 0).foldl (fun s o => updMem (fun m => zeroFrame m (keyPair s o.1) o.1) s) s
     let s := updStack stack (fun x => { x with
       phase := .idle
       reduced := true }) s
     emit (srcChan c) evStackReady devPart [(20, 1, stack)] s) s

/-! ### Requests: time, classes, records (08 R206 to R214, 09 R244, R494) -/

/-- The flight of a requester that is a command. -/
def reqFlight (s : State) (r : ChanReq) : Option Flight := match r.who with
  | .command q n => s.flights.find? fun f => f.queue = q && f.seq = n
  | _ => none

/-- An operation that is no command met blocked or uncorrectable granules: its event and record (R494). -/
def accessRecord (r : ChanReq) (st pa n : Nat) (s : State) : State :=
  let c := chanOf s pa
  let ctx := r.context.getD 0
  let s := if st = stAccessDenied
    then emit (srcChan c) evAccessDenied r.partition [(20, 2, ctx), (22, 1, b2n r.write), (24, 8, frameOf pa)] s
    else emit (srcChan c) evMemUncorrectable r.partition [(24, 8, frameOf pa)] s
  if r.who == .cxlMem && st = stMemUncorrectable && !r.write then s else
  let win := match r.who with
    | .window k => some k
    | _ => none
  faultPut (if (findPart s r.partition).isSome then some r.partition else none)
    { stamp := now s, source := srcChan c, context := ctx, status := st, atype := 0, write := r.write,
      remote := win.isSome, window := win.getD 0,
      address := vaOfPa s.mem.extents ctx pa, detail := n } s

/-- What an access of a request met is noted for its command, or placed at once. -/
def noteReq (r : ChanReq) (a : Acc) (s : State) : State :=
  match reqFlight s r with
  | some f => noteAcc f.num r.write a s
  | none =>
    let s := countErrors a s
    let s := match a.denied with
      | some (pa, n) => accessRecord r stAccessDenied pa n s
      | none => s
    match a.uncorr with
    | some (pa, n) => accessRecord r stMemUncorrectable pa n s
    | none => s

def reqDone (id : Nat) (data : List Byte) (st : Nat) (s : State) : State :=
  updMem (fun m => { m with done := m.done ++ [{ id, data, status := st }] }) s

/-- Channel time of a request in units of 1/3,840 ns: T_OPEN 20 ns, 1 byte in 1/76.8 ns, a Teasel granule 1.6 ns; a write of
part of a granule is charged twice (R206 to R209). -/
def chanTime (w : Channel) (ways : Nat) (r : ChanReq) : Nat :=
  let part := r.write && (!r.nibbles.isEmpty || r.pa % 64 != 0 || r.len % 64 != 0)
  let hidden := match w.last with
    | some (who, n, pa) => who == r.who && n == r.stream && r.pa == pa + 2048 * ways
    | none => false
  (if r.teasel then 6144 else if hidden then 50 * r.len else 76800 + 50 * r.len) * (if part then 2 else 1)

def classRank : TClass → Nat
  | .lcRead => 1
  | .lcWrite => 2
  | .beRead => 3
  | .beWrite => 4
  | .background => 5

/-- A write to a frame in a staging slot is held (R228). -/
def heldWrite (s : State) (r : ChanReq) : Bool := r.write && writeHeld s [{ off := 0, pa := r.pa, len := max 1 r.len }]

def isBe (c : TClass) : Bool := c == .beRead || c == .beWrite

/-- A patrol scrub read, and a write-back of it. -/
def isScrub (r : ChanReq) : Bool := r.who == .scrub && !r.write
def isWriteBack (r : ChanReq) : Bool := r.who == .scrub && r.write

/-- Of the ready requests of one class the long path serves the oldest; Teasel issues in an order of its own, a free value
(R206, R209; log 32). -/
def pickFrom (s : State) (l : List ChanReq) : Option ChanReq :=
  match l.filter (·.teasel) with
  | [] => l.head?
  | ts =>
    let cands := ts ++ (l.find? fun r => !r.teasel).toList
    if cands.length = 1 then cands.head? else cands[(Config.freeValue s.freeCtr).toNat % cands.length]?

/-- The request a free channel serves (R212, R213, R224). -/
def pickReq (s : State) (c : Nat) : Option ChanReq :=
  let w := getChan s c
  let l := w.queue.filter fun r => !heldWrite s r
  let left := 3840 * (w.window + 10000 - now s)
  let best (p : ChanReq → Bool) : Option ChanReq := [1, 2, 3, 4, 5].findSome? fun k =>
    pickFrom s (l.filter fun r => p r && classRank r.cls = k)
  match l.find? fun r => isScrub r && r.arrived + 1000000 < now s with
  | some r => some r
  | none =>
    match (if left ≤ w.bgGuard && w.bgGuard != 0 then best fun r => r.cls == .background else none) with
    | some r => some r
    | none =>
      match (if left ≤ w.beGuard && w.beGuard != 0 then best fun r => isBe r.cls else none) with
      | some r => some r
      | none => best fun _ => true

/-! ### Serving (08 R208, R215 to R219, R224) -/

/-- The wrong symbols that serving finds: the request's granules in order, each in 7 bits of the operand (log 32). A fresh
value says of each granule whether it is miscorrected beyond the code's reach. -/
def findErrors (pa len symbols : Nat) (s : State) : State :=
  (pieces pa len).zipIdx.foldl (fun s x =>
    let n := symbols / 128 ^ x.2 % 128
    if n = 0 then s else
    let v := freshFree s
    updMem (fun m => { m with errors := smSet m.errors (x.1.1 / 64) (n, v.1.toNat % 2 = 1) }) v.2) s

/-- What an HBM read of a request gives, under the policy of its issue (R216). -/
def readOut (r : ChanReq) (s : State) : Acc := readMode r.mode s (fun _ => true) r.pa r.len {}

/-- A read is served. -/
def serveRead (r : ChanReq) (s : State) : State :=
  let a := readOut r s
  reqDone r.id a.data a.first (noteReq r a s)

/-- A write is served: whole granules are written, parts merged; a merge that cannot read its granule is dropped (R208). -/
def serveWrite (r : ChanReq) (s : State) : State :=
  let x := if r.nibbles.isEmpty then writeMode r.mode (fun _ => true) r.pa r.bytes (s, ({} : Acc))
    else (r.nibbles.zip r.bytes).foldl (fun x v =>
      nibbleMode r.mode (fun _ => true) (r.pa + v.1 / 2) (v.1 % 2 = 1) v.2.toNat x) (s, ({} : Acc))
  reqDone r.id [] x.2.first (noteReq r x.2 x.1)

/-- The granules of a scrub read by what its decoder finds: corrected ones, and uncorrectable ones (R216, R219). -/
def scrubFinds (r : ChanReq) (s : State) : List Nat × List Nat :=
  let gs := (pieces r.pa r.len).map fun p => p.1 / 64
  (gs.filter fun g => eccAt s.mem r.mode g == .corrected || eccAt s.mem r.mode g == .stray,
   gs.filter fun g => eccAt s.mem r.mode g == .bad)

/-- The write-back of a corrected granule joins its channel's queue in the background class (R224). -/
def writeBack (r : ChanReq) (g : Nat) (s : State) : State :=
  let w : ChanReq := { r with
    id := s.mem.nextId
    write := true
    pa := 64 * g
    len := 64
    arrived := now s }
  updChan (chanOf s (64 * g)) (fun c => { c with queue := c.queue ++ [w] }) (updMem (fun m => { m with nextId := m.nextId + 1 }) s)

/-- A patrol scrub read is served (R218, R219, R224): corrected granules are counted and written back, uncorrectable ones
become poisoned. -/
def serveScrub (c : Nat) (r : ChanReq) (s : State) : State :=
  let x := scrubFinds r s
  let s := x.1.foldl (fun s g => writeBack r g (noteCorrected (chanOf s (64 * g)) s)) s
  let s := updChan c (fun w => { w with
    passCe := w.passCe + x.1.length
    passUe := w.passUe + x.2.length }) s
  let a := x.2.foldl (fun a g => accAdd a stMemUncorrectable (64 * g)) ({} : Acc)
  let s := updMem (fun m => { m with
    errors := smFilter m.errors fun g _ => !x.2.contains g
    poison := insertSort (fun a b => a < b) (m.poison.filter (fun g => !x.2.contains g) ++ x.2) }) s
  noteReq r a s

/-- A write-back is served: the granule is stored as it was decoded, unless it has been written since (R224). -/
def serveWriteBack (r : ChanReq) (s : State) : State :=
  let g := r.pa / 64
  match eccAt s.mem r.mode g with
  | .corrected => updMem (fun m => { m with errors := smDel m.errors g }) s
  | .stray => updMem (fun m => putGranule m (tagOf m g) g (strayBytes m (64 * g) 64)) s
  | _ => s

/-- Take a request off its channel's queue, with its time counted against the guards. -/
def takeReq (c : Nat) (r : ChanReq) (s : State) : State :=
  let ways := (stackWays s (c / 16) (stackOff r.pa / frameBytes)).length
  updChan c (fun w =>
    let t := chanTime w ways r
    { w with
      queue := w.queue.filter fun x => x.id != r.id
      beGuard := if isBe r.cls then w.beGuard - t else w.beGuard
      bgGuard := if r.cls == .background then w.bgGuard - t else w.bgGuard
      last := if r.teasel then w.last else some (r.who, r.stream, r.pa) }) s

/-- Other pending Teasel reads of the same granule are served by the same HBM read, with its outcome (06 R170, 08 R210). -/
def coalesce (c : Nat) (r : ChanReq) (s : State) : State :=
  if !r.teasel || r.write then s else
  let same := (getChan s c).queue.filter fun x => x.teasel && !x.write && x.pa / 64 = r.pa / 64
  same.foldl (fun s x =>
    let a := readOut { x with mode := r.mode } s
    let d := c / 64
    let s := updMem (fun m => { m with coalesced := smSet m.coalesced d (smGet m.coalesced 0 d + 1) }) s
    let s := updChan c (fun w => { w with queue := w.queue.filter fun y => y.id != x.id }) s
    reqDone x.id a.data a.first (noteReq x { a with
      ues := []
      ces := [] } s)) s

/-! ### Requests arrive (08 R206, R209, R212, R228, 09 R244) -/

/-- A frame whose staging slot holds its contents: its reads are served from the slot (R228). -/
def stagedFrame (s : State) (pa : Nat) : Bool :=
  s.mem.stage.any fun v => v.2.phase == .staged && stackFrame v.2.stack v.2.frame = frameOf pa

/-- A part of a request reaches its channel: discarded without a record when its context retires, refused, dead, served from a
staging slot, or queued (09 R244, R251, 08 R228). -/
def enqueueReq (r : ChanReq) (s : State) : State :=
  if r.context.any (retiringCtx s) then s else
  let r := { r with
    id := s.mem.nextId
    arrived := now s
    mode := s.mem.eccMode }
  let s := updMem (fun m => { m with nextId := m.nextId + 1 }) s
  let n := (pieces r.pa r.len).length
  let ok := match r.context with
    | none => true
    | some c => admits s c r.write (frameOf r.pa)
  if stackDead s (stackOf r.pa) then
    let s := match reqFlight s r with
      | some f => noteAcc f.num r.write (accAdd {} stMemChannelDead r.pa) s
      | none => s
    reqDone r.id [] stMemChannelDead s
  else if !ok then
    let a : Acc := { denied := some (r.pa, n), first := stAccessDenied }
    reqDone r.id (if r.write then [] else zeros r.len) stAccessDenied (noteReq r a s)
  else if !r.write && stagedFrame s r.pa then serveRead r s
  else updChan (chanOf s r.pa) (fun w => { w with queue := w.queue ++ [r] }) s

/-- The requests that waited for a tag are issued as tags come free, those of a partition and pool in their order (05 R141). -/
def issueTags (s : State) : State :=
  let x := s.mem.tagWaits.foldl (fun (x : State × List ChanReq) r =>
    let behind := x.2.any fun y => y.partition = r.partition && reqPool y == reqPool r
    let free := match reqPool r with
      | some p => tagFree x.1 r.partition 1 p
      | none => true
    if !behind && free then (enqueueReq r x.1, x.2) else (x.1, x.2 ++ [r])) (s, [])
  updMem (fun m => { m with tagWaits := x.2 }) x.1

/-- The requests that the map no longer sends to the channel they wait at go to their new one, in their order; reads of a
staged frame are served from its slot (R214, R228). -/
def reroute (k : Nat) (s : State) : State :=
  let moved := (List.range 16).flatMap fun i => (getChan s (k * 16 + i)).queue.filter fun r =>
    chanOf s r.pa != k * 16 + i || (!r.write && r.cls != .background && stagedFrame s r.pa)
  let ids := moved.map (·.id)
  let s := (List.range 16).foldl (fun s i => if moved.isEmpty then s else
    updChan (k * 16 + i) (fun w => { w with queue := w.queue.filter fun r => !ids.contains r.id }) s) s
  (insertSort (fun a b => a.id < b.id) moved).foldl (fun s r =>
    if !r.write && r.cls != .background && stagedFrame s r.pa then serveRead r s
    else updChan (chanOf s r.pa) (fun w => { w with queue := insertSort (fun a b => a.id < b.id) (w.queue ++ [r]) }) s) s

def execChannelServe (channel errorSymbols : Nat) (s : State) : Res := memRow s <|
  .next (match pickReq s channel with
    | none => s
    | some r =>
      if (getChan s channel).st != .active then s else
      let t := ceilDiv (chanTime (getChan s channel) (stackWays s (channel / 16) (stackOff r.pa / frameBytes)).length r) 3840
      let s := if r.teasel then { takeReq channel r s with freeCtr := s.freeCtr + 1 } else takeReq channel r s
      let s := if r.write || r.cls == .background then s else monSample 2 channel (now s + t - r.arrived) s
      let s := findErrors r.pa r.len errorSymbols s
      let s := if isScrub r then serveScrub channel r s
        else if isWriteBack r then serveWriteBack r s
        else if r.write then serveWrite r s
        else coalesce channel r (serveRead r s)
      killsDue (issueTags s))

/-- Who asks: 0 a command by its flight, 1 CXL.mem, 2 BAR4 of a function, 3 a window, 4 scrub, 5 movement, 16 + n stream n
of a command. -/
def requesterOf (s : State) (who : Nat × Nat) : Requester :=
  if who.1 = 0 || 16 ≤ who.1 then (match findFlight s who.2 with
    | some f => .command f.queue f.seq
    | none => .command 0 0)
  else if who.1 = 1 then .cxlMem
  else if who.1 = 2 then .bar4 who.2
  else if who.1 = 3 then .window who.2
  else if who.1 = 4 then .scrub
  else .moving

/-- The class of a requester (R212): a command's is its own, window traffic's is marked, CXL.mem and BAR4 are best-effort,
scrub and movement background. -/
def classOf (s : State) (who : Nat × Nat) (write marked : Bool) : TClass :=
  let lc : Bool := match requesterOf s who with
    | .command _ _ => (findFlight s who.2).any fun f => f.lc
    | .window _ => marked
    | _ => false
  if who.1 = 4 || (5 ≤ who.1 && who.1 < 16) then .background
  else if lc then (if write then .lcWrite else .lcRead)
  else if write then .beWrite else .beRead

/-- The chunks a request is split into: [pa, pa + n) by 2 KiB (R206). -/
def chunks (pa n : Nat) : List (Nat × Nat) :=
  if n = 0 then [] else
  (List.range ((pa + n - 1) / 2048 - pa / 2048 + 1)).map fun i =>
    let lo := max pa (2048 * (pa / 2048 + i))
    (lo, min (pa + n) (2048 * (pa / 2048 + i) + 2048) - lo)

/-- The part [lo, lo + n) of a request, with its bytes or its nibbles. -/
def reqPart (r : ChanReq) (c : Nat × Nat) : ChanReq :=
  let at_ (v : Nat) : Bool := c.1 ≤ r.pa + v / 2 && r.pa + v / 2 < c.1 + c.2
  if r.nibbles.isEmpty then { r with
    pa := c.1
    len := c.2
    bytes := slice r.bytes (c.1 - r.pa) c.2 }
  else
    let l := (r.nibbles.zip r.bytes).filter fun v => at_ v.1
    { r with
      pa := c.1
      len := c.2
      nibbles := l.map fun v => v.1 - 2 * (c.1 - r.pa)
      bytes := l.map (·.2) }

/-- A request comes in: Teasel takes it by granules, the long path by chunks (R206, R209), each part once it has its tag. -/
def execChannelRequest (context : Nat) (who : Nat × Nat) (write : Bool) (pa len : Nat) (data : List Byte)
    (nibbles : List Nat) (teasel lc background : Bool) (s : State) : Res := memRow s <|
  let part := (contextOwner s context).getD devPart
  let whole := match findPart s part with
    | some p => wholeDies p
    | none => false
  let who := if background && !(who.1 = 4 || who.1 = 5) then (5, who.2) else who
  let bg := classOf s who write lc == .background
  let r : ChanReq := {
    id := 0, context := if bg then none else some context, write, pa, bytes := data, nibbles, len
    cls := classOf s who write lc, teasel := teasel && whole && !bg, who := requesterOf s who
    partition := part, arrived := now s, stream := who.1 - 15, mode := s.mem.eccMode }
  let cs := if r.teasel then pieces pa len else chunks pa len
  .next (issueTags (updMem (fun m => { m with
    tagWaits := m.tagWaits ++ (cs.map (reqPart r)).filter fun x => nibbles.isEmpty || !x.nibbles.isEmpty }) s))

/-! ### Map-out (08 R226 to R228, R233) -/

/-- Map-out of a stack's candidate is held or starts (R226). -/
def execMapoutStart (stack : Nat) (s : State) : Res := memRow s <|
  .next (match candidateOf s stack with
    | some c => mapoutTry c false s
    | none => s)

/-- MEM.MAPOUT_CMD (R233): only when the channel is a candidate and the top frames are free. -/
def mapoutCmd (v : Nat) (s : State) : State :=
  let c := v % 256
  if bit v 8 && (getChan s c).candidate && (getStack s (c / 16)).out.isNone && !(getStack s (c / 16)).retired &&
      (ownedFrom s (c / 16) 38400).isEmpty then mapoutBegin c s else s

def execMapoutCmd (value : BitVec 32) (s : State) : Res := memRow s <| .next (mapoutCmd value.toNat s)

/-- What a staging slot holds for a stack in map-out, in a phase. -/
def slotOf (s : State) (stack slot : Nat) (p : SlotPhase) : Option StageSlot :=
  (smFind s.mem.stage slot).bind fun v =>
    if v.stack = stack && v.phase == p && (getStack s stack).phase == .moving then some v else none

/-- The slot's read under the 16-way map has ended: its write begins, and the next read where a slot is free. -/
def stageFrame (stack slot : Nat) (v : StageSlot) (s : State) : State :=
  reroute stack (fillSlots (updMem (fun m => { m with stage := smSet m.stage slot { v with phase := .staged } }) s))

def execMapoutFrameStaged (stack slot : Nat) (s : State) : Res := memRow s <|
  .next (match slotOf s stack slot .reading with
    | some v => stageFrame stack slot v s
    | none => s)

/-- Frames are written in their order: no higher frame of the stack waits in the other slot. -/
def writesNext (s : State) (v : StageSlot) : Bool :=
  !(s.mem.stage.any fun x => x.2.stack = v.stack && x.2.phase != .written && v.frame < x.2.frame)

/-- With frame 0 written the stack runs 15-way (R227 step 4). -/
def mapoutDone (stack : Nat) (s : State) : State :=
  let c := stack * 16 + (getStack s stack).channel
  let s := updStack stack (fun x => { x with
    phase := .idle
    reduced := true
    next := none }) s
  let s := updChan c (fun w => { w with
    st := .mappedOut
    candidate := false }) s
  emit (srcChan c) evMapoutDone devPart [(20, 1, stack)] (dropSlots stack s)

/-- The slot's write under the 15-way map has ended: requests of the frame go to its new channels. -/
def writeFrame (stack slot : Nat) (v : StageSlot) (s : State) : State :=
  let s := updMem (fun m => { m with stage := smSet m.stage slot { v with phase := .written } }) s
  let s := if v.frame = 0 then mapoutDone stack s else fillSlots s
  reroute stack s

def execMapoutFrameWritten (stack slot : Nat) (s : State) : Res := memRow s <|
  .next (match slotOf s stack slot .staged with
    | some v => if writesNext s v then writeFrame stack slot v s else s
    | none => s)

/-! ### Guards, refresh, retraining, scrub (R213, R222 to R224) -/

/-- A new 10 µs window of a channel. -/
def execGuardWindowStart (channel : Nat) (s : State) : Res := memRow s <|
  let cur := now s / 10000 * 10000
  let w := if (getChan s channel).window < cur then cur else cur + 10000
  .next (killsDue (updChan channel (fun c => { c with
    window := w
    beGuard := 1920000
    bgGuard := 768000 }) (advance w s)))

def execRefresh (channel : Nat) (s : State) : Res := memRow s <|
  doWhen ((getChan s channel).st == .active)
    (updChan channel (fun c => { c with refreshes := c.refreshes + 1 }) s) s

/-- The channel of a retraining slot (R223). -/
def slotChannel (n : Nat) : Nat := n % 256 % 16 * 16 + n % 256 / 16

def startRetrain (c : Nat) (s : State) : State :=
  if (getChan s c).st == .active then updChan c (fun w => { w with
    st := .retraining
    retry := none }) s else s

/-- The retries due in slot n: in an unused slot the oldest, and every one two slots after its failure (log 30). -/
def retriesDue (s : State) (n : Nat) : List Nat :=
  let waiting := (s.mem.channels.filter fun c => c.2.retry.isSome && c.2.st == .active).map fun c => (c.1, c.2.retry.getD 0)
  let unused := (getChan s (slotChannel n)).st != .active
  let old := waiting.filter fun x => x.2 + 2 ≤ n
  let first := if unused && old.isEmpty then waiting.take 1 else []
  (old ++ first).map (·.1)

/-- Slot n begins: its channel retrains. -/
def takeSlot (n : Nat) (s : State) : State :=
  let l := retriesDue s n
  let s := updMem (fun m => { m with trainSlot := n }) s
  l.foldl (fun s c => startRetrain c s) (startRetrain (slotChannel n) s)

/-- The next retraining slot begins; within a beat head it waits for the head's end. -/
def execRetrainSlot (s : State) : Res := memRow s <|
  let cur := 2 * now s / 390625
  let n := if s.mem.trainSlot < cur then cur else s.mem.trainSlot + 1
  let s' := advance (ceilDiv (n * 390625) 2) s
  .next (if s.beat.inHead then s else takeSlot n s')

/-- A retraining ends (R223, R230, R232). -/
def execRetrainDone (channel : Nat) (ok : Bool) (s : State) : Res := memRow s <|
  doWhen ((getChan s channel).st == .retraining)
    (if ok then updChan channel (fun w => { w with
       st := .active
       failRun := 0 }) s
     else
       let k := (getChan s channel).failRun + 1
       let s := updChan channel (fun w => { w with
         st := .active
         failRun := k
         retrainFail := satAdd 8 w.retrainFail 1
         retry := some s.mem.trainSlot }) s
       let s := emit (srcChan channel) evRetrainFail devPart [(20, 1, k)] s
       if k < 2 then s else killChannel channel 0 s) s

/-- The physical address that a channel address holds under the map of its frame (R205, R228): none where the channel holds
no frame there, as a mapped-out or dead channel of a 15-way stack. -/
def chanPa (s : State) (c a : Nat) : Option Nat :=
  let k := c / 16
  let off (ways : List Nat) : Nat := (a / 2048 * ways.length + ways.findIdx (· = c % 16)) * 2048 + a % 2048
  let here (ways : List Nat) : Option Nat :=
    let f := off ways / frameBytes
    if ways.contains (c % 16) && f < 40960 && stackWays s k f == ways then some (stackPa k (off ways)) else none
  let fifteen := match (getStack s k).out with
    | some x => (List.range 16).filter (· != x)
    | none => List.range 16
  match here fifteen with
  | some pa => some pa
  | none => here (List.range 16)

/-- The scrub position moves on once the last channel has been issued its read; at the end of a pass every channel
writes SCRUB_PASS (17 R461). -/
def scrubStep (s : State) : State :=
  if s.tele.scrubPos + 1 < 2621440 then updTele (fun t => { t with scrubPos := t.scrubPos + 1 }) s
  else
    let s := updTele (fun t => { t with
      scrubPos := 0
      scrubPasses := (t.scrubPasses + 1) % 2 ^ 32 }) s
    (List.range 256).foldl (fun s c =>
      if (getChan s c).st == .mappedOut then s else
      let w := getChan s c
      let s := emit (srcChan c) evScrubPass devPart [(20, 4, w.passCe), (24, 4, w.passUe)] s
      updChan c (fun w => { w with passCe := 0, passUe := 0 }) s) s

/-- Wrong symbols that a scrub read finds stored: one in each granule of `few`, eight in each of `many` (log 32). -/
def scrubErrors (pa : Nat) (few many : List Nat) (s : State) : State :=
  let here (g : Nat) : Bool := pa / 64 ≤ g && g < pa / 64 + 32
  updMem (fun m => { m with
    errors := (many.filter here).foldl (fun e g => smSet e g (8, false)) ((few.filter here).foldl (fun e g => smSet e g (1, false)) m.errors) }) s

/-- The patrol scrub read of a channel is issued: 2 KiB at the scrub position (R224). `corrected` names granules in which one
symbol is wrong and `uncorrectable` those in which eight are. -/
def execScrubRead (channel : Nat) (corrected uncorrectable : List Nat) (s : State) : Res := memRow s <|
  let pass (s : State) : State := if channel = 255 then scrubStep s else s
  .next (pass (match chanPa s channel (2048 * s.tele.scrubPos) with
    | some pa =>
      if stackDead s (channel / 16) || (getChan s channel).st == .mappedOut then s else
      let r : ChanReq := {
        id := s.mem.nextId, context := none, write := false, pa, bytes := [], nibbles := [], len := 2048, cls := .background
        teasel := false, who := .scrub, partition := (stackPart s (channel / 16)).getD devPart, arrived := now s
        stream := 0, mode := s.mem.eccMode }
      let s := scrubErrors pa corrected uncorrectable s
      updChan channel (fun w => { w with queue := w.queue ++ [r] }) (updMem (fun m => { m with nextId := m.nextId + 1 }) s)
    | none => s))

/-- A scrub read has waited 1 ms: from then on it is served ahead of every other class. -/
def execScrubPriorityTimeout (channel : Nat) (s : State) : Res := memRow s <|
  .next (match (getChan s channel).queue.find? isScrub with
    | some r => advance (r.arrived + 1000001) s
    | none => s)

/-- A new hour of the TSC: CE_HOUR restarts on every channel. -/
def execCeHourRollover (s : State) : Res :=
  let h := 3600 * secNs
  .next (updMem (fun m => { m with channels := smMap m.channels fun _ c => { c with ceHour := 0 } })
    (advance ((now s / h + 1) * h) s))

end Sys2Proof.Machine
end

