-- ==== Sys2Proof/Machine/HostLink.lean ====
section
/-! DEFINITION. The host link (13_host_link): BAR4, CXL.mem and its snoop filter, host-memory requests, interrupts, IDE
and TDISP, link loss and re-attachment, function-level reset (18 R474). -/

namespace Sys2Proof.Machine

/-- A wake source acts (18 R466, R468): S1 ends at once, a wake from S2 starts. -/
def wake (code : Nat) (s : State) : State :=
  match s.power.state with
  | .s1 => updPower (fun p => { p with
      state := .s0
      target := .s0
      lastWake := code }) s
  | .s2 => if s.power.waking then s else updPower (fun p => { p with
      waking := true
      target := .s0
      lastWake := code }) s
  | _ => s

/-- The host reaches the functions' BARs: link trained, boot finished, supplies on, not in S3 (18 R470). -/
def hostReach (s : State) : Bool :=
  s.link.up && s.power.ready && s.power.rails == .on && s.power.state != .s3

/-- A host access: in S2 it wakes the module and waits, to be issued again (18 R468); else it acts. -/
def hostAccess (act : State → State) (s : State) : State :=
  if !hostReach s then s
  else if s.power.state == .s2 then wake 1 s
  else act s

/-- TDI state ERROR: the function's BARs read zero (R360). -/
def barDead (s : State) (f : Nat) : Bool := (getFunc s f).tdi == .error

/-- A virtual function that holds no queue: its BAR reads return zero and its BAR writes are ignored (R342). -/
def barUnbound (s : State) (f : Nat) : Bool := f != 0 && (funcPart s f).isNone

/-! ### BAR4 (R348) -/

/-- Context and virtual address of a BAR4 offset. -/
def barAddr (s : State) (f off : Nat) : Nat × Nat :=
  let a := (getFunc s f).aperture.toNat
  (a / 2 ^ 48, a % 2 ^ 48 / 2 ^ 36 * 2 ^ 36 + off % 2 ^ 36)

/-- The fault record of a BAR4 access: ATYPE context virtual, QUEUE_V 0. -/
def barRecord (s : State) (f st c addr n : Nat) (write : Bool) : State :=
  faultPut (funcPart s f)
    { stamp := now s, source := srcHost, context := c, status := st, atype := 0, write, address := addr, detail := n } s

/-- What a BAR4 access met at the memory (R244, R494). -/
def barNote (f c : Nat) (write : Bool) (a : Acc) (s : State) : State :=
  let p := (funcPart s f).getD devPart
  let s := countErrors a s
  let s := match a.denied with
    | some (pa, n) =>
      let s := emit (srcChan (chanOf s pa)) evAccessDenied p [(20, 2, c), (22, 1, b2n write), (24, 8, frameOf pa)] s
      barRecord s f stAccessDenied c (vaOfPa s.mem.extents c pa) n write
    | none => s
  match a.uncorr with
  | some (pa, n) =>
    let s := emit (srcChan (chanOf s pa)) evMemUncorrectable p [(24, 8, frameOf pa)] s
    barRecord s f stMemUncorrectable c (vaOfPa s.mem.extents c pa) n write
  | none => s

def barReply (f : Nat) (poison : Bool) (data : List Byte) (s : State) : State :=
  updOut (fun o => { o with bar4 := o.bar4 ++ [(f, poison, data)] }) s

def barRead (f off len : Nat) (s : State) : State :=
  let (c, va) := barAddr s f off
  match funcPart s f with
  | none => barReply f false (zeros len) s
  | some p =>
    if barDead s f || retiringCtx s c then barReply f false (zeros len) s else
    match checkRange s c va len true false with
    | some (st, a) => barReply f false (zeros len) (barRecord s f st c a 0 false)
    | none => afterSnoops false (segments s c va len) (fun s =>
        let a := readVa s c va len
        let s := barNote f c false a (meterHost p len s)
        if a.denied.isSome then barReply f false (zeros len) s
        else barReply f (a.uncorr.isSome || a.dead.isSome) a.data s) s

/-- A BAR4 read. -/
def execBar4Read (func off len : Nat) (s : State) : Res := .next (hostAccess (barRead func off len) s)

def barWrite (f off : Nat) (data : List Byte) (s : State) : State :=
  let (c, va) := barAddr s f off
  match funcPart s f with
  | none => s
  | some p =>
    if barDead s f || retiringCtx s c then s else
    match checkRange s c va data.length false true with
    | some (st, a) => barRecord s f st c a 0 true
    | none => afterSnoops true (segments s c va data.length) (fun s =>
        let x := writeVa c va data s
        barNote f c true x.2 (meterHost p data.length x.1)) s

/-- A BAR4 write. -/
def execBar4Write (func off : Nat) (data : List Byte) (s : State) : Res := .next (hostAccess (barWrite func off data) s)

/-! ### CXL.mem and the snoop filter (R351 to R355) -/

/-- Physical address of a device address of the HDM decoder (R351). -/
def dpaPa (d : Nat) : Nat := d / (320 * 2 ^ 30) * 2 ^ 42 + d % (320 * 2 ^ 30)

/-- The line lies in a populated frame whose HDM bit is 1 (09 R246). -/
def hdmOk (s : State) (pa : Nat) : Bool :=
  populated s (frameOf pa) && match smFind s.mem.owners (frameOf pa) with
    | some o => o.hdm
    | none => false

def cxlReply (addr : Nat) (poison : Bool) (data : List Byte) (s : State) : State :=
  updOut (fun o => { o with cxl := o.cxl ++ [(addr, poison, data)] }) s

/-- A way holds a line. -/
def wayIs (line : Nat) (e : Option (Nat × Bool)) : Bool := e.any fun x => x.1 == line

/-- An entry goes into the lowest free way of its set (log 79). -/
def fillWay (e : Nat × Bool) : List (Option (Nat × Bool)) → List (Option (Nat × Bool))
  | [] => [some e]
  | none :: l => some e :: l
  | some x :: l => some x :: fillWay e l

/-- Set a line's entry of the filter. -/
def filterPut (line : Nat) (ex : Bool) (s : State) : State :=
  updLink (fun k =>
    let w := smGet k.snoop [] (snoopSet line)
    let w := if w.any (wayIs line) then w.map fun e => if wayIs line e then some (line, ex) else e
      else fillWay (line, ex) w
    { k with snoop := smSet k.snoop (snoopSet line) w }) s

/-- Free the way of a line. -/
def filterDel (line : Nat) (s : State) : State :=
  updLink (fun k => { k with
    snoop := smSet k.snoop (snoopSet line)
      ((smGet k.snoop [] (snoopSet line)).map fun e => if wayIs line e then none else e) }) s

/-- A host write reaches the memory: the whole line. -/
def cxlStore (line : Nat) (data : List Byte) (s : State) : State :=
  let x := writePhys (fun _ => true) (64 * line) (slice data 0 64) (s, {})
  countErrors x.2 x.1

/-- Metering of a CXL.mem line: the host bucket of the frame's partition (12 R334). -/
def meterCxl (line : Nat) (s : State) : State := match smFind s.mem.owners (frameOf (64 * line)) with
  | some o => meterHost o.partition 64 s
  | none => s

/-- A host request is served and its line recorded: read data, or a write's data stored. -/
def cxlServe (line : Nat) (ex : Bool) (data : Option (List Byte)) (s : State) : State :=
  let s := meterCxl line s
  match data with
  | some d => cxlStore line d (match snoopFind s line with
      | some _ => s
      | none => filterPut line false s)
  | none =>
    let a := readPhys s (fun _ => true) (64 * line) 64 {}
    let s := countErrors a s
    let s := match a.uncorr with
      | some (pa, _) => emit (srcChan (chanOf s pa)) evMemUncorrectable devPart [(24, 8, frameOf pa)] s
      | none => s
    let bad := a.uncorr.isSome || a.dead.isSome
    let keep := (snoopFind s line).getD false
    cxlReply (64 * line) bad a.data (if bad then s else filterPut line (ex || keep) s)

/-- A host request that adds a line to a full set evicts the way the set's pointer names, and is held (R354). -/
def cxlRequest (line : Nat) (ex : Bool) (data : Option (List Byte)) (s : State) : State :=
  if (snoopFind s line).isSome || (snoopWays s line).length < 16 then cxlServe line ex data s
  else
    let k := snoopSet line
    let i := smGet s.link.snoopPtr 0 k
    match (snoopWays s line)[i]? with
    | none => s
    | some v =>
      if s.link.biWaits.any fun b => b.line == v.1 then s else
      let s := updOut (fun o => { o with snoops := o.snoops ++ [(v.1, true)] }) s
      updLink (fun n => { n with
        snoopPtr := smSet n.snoopPtr k ((i + 1) % 16)
        biWaits := n.biWaits ++ [{ line := v.1, inv := true, since := now s, host := some (line, ex, data) }] }) s

/-- The event of a blocked CXL.mem access (09 R494). -/
def cxlDenied (write : Bool) (pa : Nat) (s : State) : State :=
  emit (srcChan (chanOf s pa)) evAccessDenied devPart [(22, 1, b2n write), (24, 8, frameOf pa)] s

/-- A blocked CXL.mem write: dropped, with its event and a record in the operator's fault queue (09 R494; log 35). -/
def cxlBlocked (pa : Nat) (s : State) : State :=
  let c := chanOf s pa
  let s := cxlDenied true pa s
  faultPut none { stamp := now s, source := srcChan c, status := stAccessDenied, atype := 1, write := true,
                  address := frameOf pa * frameBytes, detail := 1 } s

def cxlReach (s : State) : Bool := s.link.cxl

/-- A CXL.mem read of a line (R351). -/
def execCxlMemRead (dpa : Nat) (exclusive : Bool) (s : State) : Res :=
  let pa := dpaPa (dpa / 64 * 64)
  .next (hostAccess (fun s =>
    if !cxlReach s then s
    else if dpa < 1280 * 2 ^ 30 && hdmOk s pa then cxlRequest (pa / 64) exclusive none s
    -- it returns poison and places no record (09 R246, R494)
    else cxlReply pa true (zeros 64) (cxlDenied false pa s)) s)

/-- A CXL.mem write of a line (R351); it waits while map-out holds its frame (08 R228). -/
def execCxlMemWrite (dpa : Nat) (data : List Byte) (s : State) : Res :=
  let pa := dpaPa (dpa / 64 * 64)
  .next (hostAccess (fun s =>
    if !cxlReach s then s
    else if writeHeld s [{ off := 0, pa, len := 64 }] then s
    else if dpa < 1280 * 2 ^ 30 && hdmOk s pa then cxlRequest (pa / 64) false (some data) s
    else cxlBlocked pa s) s)

/-- A back-invalidate is answered: modified data is written back, the entry goes or becomes SHARED, and the request that
waited proceeds (R352; a device's request is issued again, log 11). -/
def execBirsp (line : Nat) (data : Option (List Byte)) (s : State) : Res :=
  .next (match s.link.biWaits.find? fun b => b.line = line with
    | none => s
    | some b =>
      if data.isSome && writeHeld s [{ off := 0, pa := 64 * line, len := 64 }] then s else
      let s := updLink (fun k => { k with biWaits := k.biWaits.filter fun x => x.line != line }) s
      let s := match data with
        | some d => cxlStore line d s
        | none => s
      let s := if b.inv then filterDel line s else filterPut line false s
      match b.host with
      | some (l, ex, d) => cxlRequest l ex d s
      | none => s)

/-! ### Host memory (R253, R356) -/

/-- Data for a host read returns: it is written at its destination; with the last one the command's work ends. -/
def hostData (q : HostReq) (data : List Byte) (s : State) : State :=
  let s := updLink (fun k => { k with hostReqs := k.hostReqs.filter fun x => x.id != q.id }) s
  match findFlight s q.flight, q.dest with
  | some f, some pa =>
    let x := writePhys (admits s f.context true) pa (slice data 0 q.len) (s, {})
    let s := updFlight f.num (fun f => { f with hosts := f.hosts - 1 }) (noteAcc f.num true x.2 x.1)
    if f.hosts ≤ 1 && f.done.isNone && f.work == .host then finishFlight f.num 0 s else s
  | _, _ => s

/-- The request on the link that a completion names. -/
def findReq (s : State) (id : Nat) : Option HostReq := s.link.hostReqs.find? fun q => q.id = id && q.issued

def execHostReadCompletion (id : Nat) (data : List Byte) (s : State) : Res :=
  .next (match findReq s id with
    | some q => if q.write || !s.link.up then s else
        (match q.dest with
        | some pa => afterSnoops true [{ off := 0, pa, len := q.len }] (fun s => issueHosts (hostData q data s)) s
        | none => issueHosts (hostData q data s))
    | none => s)

/-- A host write is globally observed (10 R280). -/
def execHostWriteGo (id : Nat) (s : State) : Res :=
  .next (match findReq s id with
    | some q =>
      if !q.write || q.posted || !s.link.up then s else
      let s := updLink (fun k => { k with hostReqs := k.hostReqs.filter fun x => x.id != id }) s
      issueHosts (trySignal q.flight (touchDone q.flight (updFlight q.flight (fun f => { f with hosts := f.hosts - 1 }) s)))
    | none => s)

def execHostAccessReject (id : Nat) (s : State) : Res :=
  .next (match findReq s id with
    | some q => issueHosts (rejectReq q s)
    | none => s)

/-- Every host snoop is answered RspIHitI at once. -/
def execHostSnoop (line : Nat) (s : State) : Res :=
  doWhen (s.link.up && s.link.cxl) (updOut (fun o => { o with snoopRsp := o.snoopRsp ++ [line] }) s) s

/-! ### Link loss and re-attachment (R361 to R363) -/

/-- A queue that a link loss freezes. -/
def freezes (w : Queue) : Bool := w.life != .disabled && (!w.netFed || w.sqHost || w.cqHost)

/-- The MSI-X tables reset: every entry clear and masked, pending bits kept (R350). -/
def clearMsix (keep : Bool) (f : Func) : Func :=
  { f with
    msixEnable := false
    msix := smMap f.msix fun _ v => { addr := 0, data := 0, masked := true, pending := keep && v.pending } }

/-- A link loss: cause 0 link-down, 1 hot reset, 2 PERST#, 3 the time-out of R355. -/
def linkLost (cause : Nat) (s : State) : State :=
  let n := (s.queues.filter fun q => freezes q.2).length
  let lines := s.link.snoop.foldl (fun k w => k + ((w.2.filterMap id).filter (·.2)).length) 0
  let s := { s with queues := smMap s.queues fun _ w => if freezes w then { w with frozen := true } else w }
  let s := s.link.hostReqs.foldl (fun s q => rejectReq q s) s
  let s := updLink (fun k => { k with
    up := false, width := 0, speed := 0, cxl := false, flit := false, vfEnable := false
    funcs := smMap k.funcs fun _ f => clearMsix true f
    snoop := [], snoopPtr := [], biWaits := []
    attach :=
      let next := k.attach.next ||| (if cause = 3 then 3 else 1)
      { k.attach with
        downTsc := now s
        frozen := n
        stalled := 0
        lines
        next
        flags := next } }) s
  emit srcHost evLinkLoss devPart [(20, 1, cause), (24, 4, n)] s

def execLinkLoss (cause : Nat) (s : State) : Res := doWhen (s.link.up && cause < 2) (linkLost cause s) s

/-- A back-invalidate has had no response for BI_TIMEOUT_MS: the link is lost, and what waited goes on (R355). -/
def execBiTimeout (line : Nat) (s : State) : Res :=
  .next (match s.link.biWaits.find? fun b => b.line = line with
    | some b => linkLost 3 (advance (b.since + s.link.biTimeoutMs * 1000000) s)
    | none => s)

/-- Frozen queues whose dispatch stopped on a full shadow ring (R363). -/
def stalledQueues (s : State) : Nat :=
  (s.queues.filter fun q => q.2.frozen && match q.2.fetched with
    | c :: _ => 256 < owed s q.1 + recordsOf c.bytes + q.2.shadowRing.length
    | [] => false).length

/-- The link trains (R363): the epoch counts and the record shows what came before. Host-memory requests issued while it
was down are rejected (R361). -/
def linkTrained (width speed : Nat) (cxl : Bool) (s : State) : State :=
  let s := s.link.hostReqs.foldl (fun s q => rejectReq q s) s
  let st := stalledQueues s
  updLink (fun k => { k with
    up := true, width, speed, cxl := cxl && 4 ≤ speed && !s.sec.recovery, flit := 5 ≤ speed
    attach := { k.attach with
      epoch := (k.attach.epoch + 1) % 2 ^ 32
      flags := k.attach.next
      next := 0
      stalled := st
      upTsc := now s } }) (updPower (fun p => { p with wakePin := false }) s)

/-- LINK_UP: a link trains at a supported width and rate, CXL at 32 GT/s and above only (R339), and not in recovery
(16 R436). -/
def execLinkUp (width speed : Nat) (cxl : Bool) (s : State) : Res :=
  doWhen (!s.link.up && s.power.rails == .on && s.power.state != .s3 && (width == 4 || width == 8 || width == 16) && speed < 7)
    (linkTrained width speed cxl s) s

/-! ### Functions (R350, R359, R360, 18 R474) -/

/-- Queues that a function holds. -/
def funcQueues (s : State) (f : Nat) : List Nat :=
  (s.queues.filter fun q => q.2.life != .disabled && queueFunc s q.1 == f).map (·.1)

/-- A TDI goes to ERROR: its queues are reset (R360). -/
def tdiError (f : Nat) (s : State) : State :=
  let s := updFunc f (fun x => { x with tdi := .error }) s
  (funcQueues s f).foldl (fun s q => queueResetNow q s) s

/-- Functions whose TDI is locked or running. -/
def lockedFuncs (s : State) : List Nat :=
  (s.link.funcs.filter fun f => f.1 != 0 && (f.2.tdi == .locked || f.2.tdi == .run)).map (·.1)

/-- A TLP or flit fails its integrity check: its stream leaves the secure state and its TDIs go to ERROR (R359). -/
def execIdeIntegrityFail (func : Option Nat) (s : State) : Res :=
  .next (match func with
    | none =>
      if !s.link.linkIde then s else
      let s := updLink (fun k => { k with linkIde := false }) s
      (lockedFuncs s).foldl (fun s f => tdiError f s) s
    | some f =>
      if !(getFunc s f).ideSecure then s else
      let s := updFunc f (fun x => { x with ideSecure := false }) s
      if (lockedFuncs s).contains f then tdiError f s else s)

/-- An SPDM session is established on some transport (16 R444). -/
def sessionUp (s : State) : Bool := s.sec.spdmSessions.any fun t => t.2.any fun x => x.2.1

def answer (code : Nat) (data : List Byte) (s : State) : State :=
  updOut (fun o => { o with answers := o.answers ++ [{ code, data }] }) s

/-- The error answer of a management or security protocol. -/
abbrev ansError : Nat := 0xFF

/-- IDE_KM sets or refreshes a stream's key over an SPDM session; a refresh loses no traffic (R359). -/
def execIdeKm (func : Option Nat) (s : State) : Res :=
  .next (if !sessionUp s then answer ansError [] s else
    answer 0x40 [] (match func with
      | none => updLink (fun k => { k with linkIde := true }) s
      | some f => updFunc f (fun x => { x with
          ideSecure := true
          ideKeySet := x.ideKeySet + 1 }) s))

def tdiCode : Tdi → Nat
  | .unlocked => 0
  | .locked => 1
  | .run => 2
  | .error => 3

/-- The HDM bits of a partition's frames are held at 0 (R360, 09 R246; log 34). -/
def clearHdm (p : Nat) (s : State) : State :=
  updMem (fun m => { m with owners := smMap m.owners fun _ o => if o.partition = p then { o with hdm := false } else o }) s

/-- TDISP requests (R360), numbered as TDISP numbers them (log 36): 0x83 lock, 0x86 start, 0x87 stop, 0x85 state. -/
def execTdispRequest (func req : Nat) (s : State) : Res :=
  let t := (getFunc s func).tdi
  let go (x : Tdi) (s : State) : State := updFunc func (fun f => { f with tdi := x }) s
  .next (if func = 0 || 255 < func then answer ansError [] s
    else if req = 0x83 then
      (if t == .unlocked then
        let s := go .locked s
        answer 0x83 [] (match funcPart s func with
          | some p => clearHdm p s
          | none => s)
      else answer ansError [] s)
    else if req = 0x86 then (if t == .locked then answer 0x86 [] (go .run s) else answer ansError [] s)
    else if req = 0x87 then answer 0x87 [] (go .unlocked s)
    else if req = 0x85 then answer 0x85 [BitVec.ofNat 8 (tdiCode t)] s
    else answer ansError [] s)

/-- A vector is unmasked; MSI-X of the function counts as enabled from then on (R350; log 33). -/
def msixUnmask (func vector : Nat) (s : State) : State :=
  if vecCount func ≤ vector || barUnbound s func then s else
  let v := smGet (getFunc s func).msix {} vector
  let s := updFunc func (fun f => { f with
    msixEnable := true
    msix := smSet f.msix vector { v with
      masked := false
      pending := false } }) s
  if v.pending then msix func vector s else s

def execMsixUnmask (func vector : Nat) (s : State) : Res := .next (hostAccess (msixUnmask func vector) s)

/-- A function's own reset: queues, MSI-X table, aperture, TDI (18 R474). -/
def resetFunc (f : Nat) (s : State) : State :=
  let s := (funcQueues s f).foldl (fun s q => queueResetNow q s) s
  updFunc f (fun x => { clearMsix false x with
    aperture := 0
    tdi := .unlocked }) s

/-- A function-level reset; the physical function's clears VF Enable and resets every virtual function (18 R474). -/
def execFunctionLevelReset (func : Nat) (s : State) : Res :=
  .next (hostAccess (fun s =>
    if 255 < func then s
    else if func != 0 then resetFunc func s
    else
      let s := updLink (fun k => { k with vfEnable := false }) s
      (List.range 256).foldl (fun s f => resetFunc f s) s) s)

end Sys2Proof.Machine
end

