-- ==== Sys2Proof/Machine/Report.lean ====
section
/-! DEFINITION. Records the block gives out: the partition record (12 R318), the extent and window entries (09 R238,
R247), the re-attach record (13 R363), the identity record and reports (16 R433, R445) and the configuration digests
(16 R446). What the manual keeps in the security block is a free value (Config.secretByte, log 10). -/

namespace Sys2Proof.Machine

/-! ### Secrets (16 R430 to R433; log 10) -/

/-- The device public key, 65 bytes, and its hash. -/
def devicePub : List Byte := (List.range 65).map fun i => Config.secretByte 0 0 i
def deviceKeyHash : List Byte := sha256 devicePub
/-- The alias public key follows from the firmware measurement. -/
def aliasPub (s : State) : List Byte := (List.range 65).map fun i => Config.secretByte 1 (unle s.sec.fwDigest) i
def deviceSerial : List Byte := (List.range 8).map fun i => Config.secretByte 2 0 i
/-- An alias-key signature over a body: r ‖ s. -/
def aliasSign (s : State) (body : List Byte) : List Byte :=
  (List.range 64).map fun i => Config.secretByte 3 (unle (sha256 body) + 2 ^ 256 * unle s.sec.fwDigest) i
def ascii (t : String) : List Byte := t.toList.map fun c => BitVec.ofNat 8 c.toNat
def orderingNumber : List Byte := ascii "KY8-1280-LQ"
def stepping : List Byte := ascii "A1"
/-- What a certificate holds between the fields that R432 names: DER, with the issuer's names and signature. Length and bytes
are free values. -/
def certFill (s : State) (k : Nat) : List Byte :=
  (List.range ((Config.unstated64 40 (BitVec.ofNat 64 k) 0).toNat % 4096)).map fun i =>
    Config.secretByte 4 (k + 16 * unle s.sec.fwDigest) i
/-- The DeviceID certificate: device serial as its subject, device key, ordering number and stepping. -/
def deviceCert (s : State) : List Byte :=
  certFill s 2 ++ deviceSerial ++ certFill s 3 ++ devicePub ++ certFill s 4 ++ orderingNumber ++ certFill s 5 ++ stepping ++ certFill s 6
/-- The Alias certificate: alias key, firmware measurement and SVN. -/
def aliasCert (s : State) : List Byte :=
  certFill s 7 ++ aliasPub s ++ certFill s 8 ++ slice s.sec.fwDigest 0 32 ++ certFill s 9 ++ le 4 s.sec.svn ++ certFill s 10
/-- The chain of R432: root, manufacturing CA, DeviceID, Alias. -/
def certChain (s : State) : List Byte := certFill s 0 ++ certFill s 1 ++ deviceCert s ++ aliasCert s
/-- Certificate bytes of the chain. -/
def certBytes (s : State) (off n : Nat) : List Byte := slice (certChain s) off n
def chainDigest (s : State) : List Byte := sha256 (certChain s)
/-- SHA-256 of the mask ROM revision (6) and of the BOARD record (7). -/
def romDigest : List Byte := (List.range 32).map fun i => Config.secretByte 6 0 i
def boardDigest : List Byte := (List.range 32).map fun i => Config.secretByte 7 0 i

/-- The identity record, 128 bytes (16 R433). -/
def identityBytes (s : State) : List Byte :=
  let b := patch (zeros 128) 0 orderingNumber
  let b := patch b 16 (stepping ++
    le 2 (b2n s.sec.replace + 2 * b2n s.sec.recovery + 4 * b2n s.sec.testPort) ++ le 4 s.sec.svn ++ deviceSerial)
  patch (patch (patch b 32 deviceKeyHash) 64 (slice s.sec.fwDigest 0 32)) 96 (le 4 s.sec.minSvn)

/-! ### Table entries -/

/-- An extent-table entry, 32 bytes (09 R238). -/
def extentBytes (e : Option Extent) : List Byte := match e with
  | none => zeros 32
  | some e => rec_ 32 [(0, 2, e.context),
      (2, 1, 1 + 2 * b2n e.read + 4 * b2n e.write + 8 * b2n e.shared + 16 * b2n e.hostVis),
      (4, 4, e.vaFrame), (8, 4, e.lenFrames), (12, 4, e.paFrame), (16, 2, e.keyDomain), (18, 2, e.owner), (20, 8, e.mapBeat)]

/-- A window-table entry, 64 bytes (09 R247). -/
def windowBytes (n : Nat) (w : Option Window) : List Byte := match w with
  | none => rec_ 64 [(0, 2, n)]
  | some w =>
    patch (rec_ 64 [(0, 2, n), (2, 1, w.kind), (3, 1, b2n w.read + 2 * b2n w.write + 4 * b2n w.atomic + 128),
      (4, 2, w.context), (6, 1, w.peerMode), (7, 1, if w.peerMode = 2 then w.peers.length else 0), (8, 8, w.base),
      (16, 8, w.length), (24, 2, w.table), (48, 4, w.epoch)]) 32 (w.peers.flatMap fun p => le 2 p)

/-- The re-attach record, 64 bytes (13 R363). -/
def attachBytes (a : Attach) : List Byte :=
  rec_ 64 [(0, 4, a.epoch), (4, 1, a.flags), (8, 8, a.downTsc), (16, 8, a.upTsc), (24, 4, a.frozen), (28, 4, a.stalled),
    (32, 8, a.lines)]

/-! ### Partitions (12 R318) -/

def thermalOf (s : State) (d : Nat) : Nat := smGet s.sched.thermal 16 d

/-- SHARE as applied: 0 means 256 per sixteenth (12 R323). -/
def appliedShare (w : Part) : Nat := if w.share = 0 then 256 * w.sixteenths else w.share

/-- The partition record, 128 bytes. -/
def partBytes (s : State) (p : Nat) (w : Part) : List Byte :=
  let dies := (partDies w).zipIdx
  let th := dies.foldl (fun n d => n + thermalOf s d.1 * 2 ^ (5 * d.2)) 0
  let ck := dies.foldl (fun n d => n + clockStep s d.1 * 2 ^ (3 * d.2)) 0
  let t := w.total
  let b := w.beat
  rec_ 128 [(0, 1, p), (1, 1, w.first), (2, 1, w.sixteenths), (3, 1, b2n w.expert + 2 * b2n w.carry + 4 * b2n w.resizing),
    (4, 2, appliedShare w), (6, 1, w.lcPercent), (8, 8, beatNo s), (16, 4, w.budget), (20, 4, w.avail.toNat),
    (24, 4, w.reserve - w.lcUsed), (28, 4, w.debt), (32, 4, th), (36, 4, ck),
    (40, 8, t.energy + b.energy), (48, 8, t.tileNs + b.tileNs), (56, 8, t.hbm + b.hbm), (64, 8, t.d2d + b.d2d),
    (72, 8, t.host + b.host), (80, 8, t.net + b.net), (88, 8, t.keys + b.keys),
    (96, 4, w.lcHeld), (100, 4, w.estLow), (104, 4, w.durOver)]

/-! ### Configuration digests (16 R446) -/

def schedCtrl (s : State) : Nat := s.sched.beMaxUs + 65536 * b2n s.sched.spareEn

/-- Functions bound to a partition, ascending. -/
def partFuncs (w : Part) : List Nat := (List.range 256).filter fun f => w.qmap.contains f

/-- A partition's configuration digest: zero bytes for a partition that does not exist; field widths of log 37. -/
def partDigest (s : State) (p : Nat) : List Byte := match findPart s p with
  | none => zeros 32
  | some w =>
    let head := (partBytes s p { w with
      carry := false
      resizing := false }).take 7
    sha256 (head ++ w.qmap.flatMap (le 2) ++
      ((List.range 4).flatMap fun r => le 4 (bucketOf w r).rate ++ le 4 (bucketOf w r).burst) ++
      le 1 w.sampling ++ le 1 (b2n (s.dbgEn.toNat.testBit p)) ++ le 4 (schedCtrl s) ++ le 1 s.mem.eccMode ++
      le 4 s.beat.periodUs ++ le 4 s.beat.headUs ++
      (partFuncs w).flatMap fun f => le 2 f ++ le 1 (tdiCode (getFunc s f).tdi))

/-- The device's configuration digest over the partitions' ones. -/
def deviceDigest (s : State) (parts : List (List Byte)) : List Byte :=
  sha256 (parts.flatten ++ le 4 s.sched.limitW ++ le 1 s.sched.clockMax ++ le 1 s.sched.clockMin ++
    le 1 (bits s.clock.ctrl.toNat 1 0) ++ le 4 s.net.group.epoch ++ le 4 s.net.group.digest)

/-- Both digests are computed again at step 5 of a beat head. -/
def redigest (s : State) : State :=
  let ps := (List.range 16).map (partDigest s)
  updSec (fun c => { c with digests := (ps ++ [deviceDigest s ps]).zipIdx.map fun d => (d.2, d.1) }) s

/-- A digest as the reports give it: of partition 0 to 15, or of the device at 16. -/
def digestOf (s : State) (i : Nat) : List Byte := smGet s.sec.digests (zeros 32) i

/-! ### Reports (16 R445) -/

/-- Key domains created in a block of numbers. -/
def domainsIn (s : State) (lo hi : Nat) : Nat := (s.sec.keyDomains.filter fun k => k.2 != 0 && lo ≤ k.1 && k.1 < hi).length

/-- The body of a report; `p` the partition of SCOPE 0, none for SCOPE 1. -/
def reportBody (s : State) (p : Option Nat) (func : Nat) (nonce : List Byte) : List Byte :=
  let w := p.bind (findPart s)
  let flags := lockCode s.clock.lock +
    4 * b2n (match p with | some p => s.dbgEn.toNat.testBit p | none => s.dbgEn != 0) +
    8 * b2n (match w with | some w => w.expert | none => false) + 16 * b2n s.sec.testPort +
    32 * tdiCode (getFunc s func).tdi + 128 * b2n s.sched.spareEn
  let (lo, hi) := match w with
    | some w => (64 * w.first, 64 * (w.first + w.sixteenths))
    | none => (0, 1024)
  let head := rec_ 56 [(0, 4, 0x5441594B), (4, 1, b2n p.isNone), (5, 1, p.getD 0xFF), (6, 1, flags), (8, 8, now s), (16, 8, beatNo s)]
  patch head 24 (slice nonce 0 32) ++ slice s.sec.fwDigest 0 32 ++
    digestOf s (p.getD 16) ++
    deviceKeyHash ++ sha256 (aliasPub s) ++ le 4 s.sec.svn ++ le 2 (domainsIn s lo hi) ++ le 2 func ++
    (if p.isNone then (List.range 16).flatMap (digestOf s) else [])

/-- A report with its signature: 256 bytes for a partition, 768 for the device. -/
def report (s : State) (p : Option Nat) (func : Nat) (nonce : List Byte) : List Byte :=
  let b := reportBody s p func nonce
  b ++ aliasSign s b

end Sys2Proof.Machine
end

