-- ==== Sys2Proof/Machine/Telemetry.lean ====
section
/-! DEFINITION. Telemetry (17): the event recorder, the boot recorder, level sensors and the monitor commands. -/

namespace Sys2Proof.Machine

/-! ### Harebell and the boot recorder (R454 to R460) -/

/-- The 64-byte record of an event (R456). -/
def eventBytes (e : Event) (rseq valid : Nat) : List Byte :=
  patch (rec_ 64 [(0, 8, e.stamp), (8, 2, e.device), (10, 2, e.source), (12, 1, e.sseq), (13, 1, b2n e.degraded),
    (14, 2, e.code), (16, 1, e.part), (56, 4, rseq), (63, 1, valid)]) 20 (e.data.take 36)

/-- The boot recorder takes an event: the first 128 for good, then a ring of 128 (R460). -/
def bootPut (b : List Byte) (s : State) : State :=
  updTele (fun t =>
    if t.bootFirst.length < 128 then { t with bootFirst := t.bootFirst ++ [b] }
    else { t with bootRing := (t.bootRing ++ [b]).drop (t.bootRing.length + 1 - 128) }) s

def countOf (l : List (Nat × Nat × Nat)) (src code : Nat) : Nat :=
  match l.find? fun x => x.1 = src && x.2.1 = code with
  | some x => x.2.2
  | none => 0

def countUp (l : List (Nat × Nat × Nat)) (src code : Nat) : List (Nat × Nat × Nat) :=
  if l.any fun x => x.1 = src && x.2.1 = code
  then l.map fun x => if x.1 = src && x.2.1 = code then (x.1, x.2.1, x.2.2 + 1) else x
  else l ++ [(src, code, 1)]

/-- Write a record to the recorder's region. -/
def recWrite (e : Event) (s : State) : State :=
  match s.tele.region with
  | none => s
  | some (c, va) =>
    let t := s.tele
    let s := putVa c (va + 64 * t.count) (eventBytes e t.rseq t.gen) s
    updTele (fun t => { t with
      count := t.count + 1
      rseq := (t.rseq + 1) % 2 ^ 32
      rate := countUp t.rate e.source e.code }) s

/-- The recorder takes an event: masked, over capacity, over the rate limit, or written (R455, R458). `waiting` counts
the events behind it. -/
def recordEvent (e : Event) (waiting : Nat) (s : State) : State :=
  let t := s.tele
  if !t.armed || !t.mask.testBit (e.code / 256) then s
  else if t.capacity ≤ t.count then
    updTele (fun t => { t with
      full := true
      overflow := t.overflow + 1 }) s
  else if 4096 ≤ waiting then updTele (fun t => { t with overflow := t.overflow + 1 }) s
  else if 16 ≤ countOf t.rate e.source e.code && !neverSuppressed e.code then
    updTele (fun t => { t with
      suppressed := t.suppressed + 1
      supp := countUp t.supp e.source e.code }) s
  else
    let s := recWrite e s
    if s.tele.capacity ≤ s.tele.count then updTele (fun t => { t with full := true }) s else s

/-- EVENT_ARRIVAL: the oldest event reaches the telemetry block. -/
def execEventArrival (s : State) : Res :=
  .next (match s.tele.events with
    | [] => s
    | e :: l =>
      let s := updTele (fun t => { t with events := l }) s
      let s := if bootEvent e.code then bootPut (eventBytes e 0 0xB0) s else s
      recordEvent e l.length s)

/-- Step 3 of a beat head: EVENTS_SUPPRESSED for each source and code concerned, and the counts start again (R458). -/
def suppressedBeat (s : State) : State :=
  let l := s.tele.supp
  let s := updTele (fun t => { t with
    rate := []
    supp := [] }) s
  l.foldl (fun s x => emit x.1 evEventsSuppressed devPart [(20, 2, x.2.1), (24, 4, x.2.2)] s) s

/-! ### Level sensors (R449, R463, 19 R490) -/

def sensorDefined (i : Nat) : Bool := i ≤ 0x104 || (0x108 ≤ i && i ≤ 0x110)

/-- Default thresholds in the sensors' units: lower critical, upper warning, upper critical (19 R490). -/
def defaultThresholds (s : State) (i : Nat) : Option Int × Option Int × Option Int :=
  if i ≤ 0x100 then (none, some 90000, some 105000)
  else if i = 0x101 then (none, some 70000, some 80000)
  else if i = 0x102 then (some 46000, some 55000, some 57000)
  else if i = 0x104 then (none, some (s.sched.limitW * 1000 : Nat), some 2100000)
  else (none, none, none)

def thresholdsOf (s : State) (i : Nat) : Option Int × Option Int × Option Int :=
  smGet s.tele.thresholds (defaultThresholds s i) i

/-- Threshold state of a value: 0 normal, 1 upper warning, 2 upper critical, 3 lower critical. -/
def threshOf (th : Option Int × Option Int × Option Int) (v : Int) : Nat :=
  let above (t : Option Int) : Bool := match t with
    | some x => decide (x ≤ v)
    | none => false
  let under : Bool := match th.1 with
    | some x => decide (v ≤ x)
    | none => false
  if above th.2.2 then 2 else if under then 3 else if above th.2.1 then 1 else 0

/-- A sensor's sample is kept and counted by its monitors; a threshold crossing is sent to the event receiver. -/
def takeSample (x : Nat × Int) (s : State) : State :=
  if !sensorDefined x.1 then s else
  let s := updTele (fun t => { t with
    sensors := smSet t.sensors x.1 x.2
    hot := if x.1 < 256 then smSet t.hot (x.1 / 64) (max x.2 (smGet t.hot x.2 (x.1 / 64))) else t.hot }) s
  let s := if x.1 = 0x102 then updPower (fun p => { p with input := min 255 (x.2.toNat / 250) }) s else s
  let s := monSample 3 x.1 x.2.toNat s
  let st := threshOf (thresholdsOf s x.1) x.2
  if st = smGet s.tele.threshState 0 x.1 then s else
  let s := updTele (fun t => { t with threshState := smSet t.threshState x.1 st }) s
  match s.tele.receiver with
  | some r => answer 0x0A (le 2 r ++ le 2 (0x1000 + x.1) ++ le 1 st ++ le 4 (unsignedOf 32 x.2)) s
  | none => s

/-- A sensor reads: in S3 only the three that Clover keeps (R463). -/
def sensorReads (s : State) (i : Nat) : Bool :=
  sensorDefined i && (s.power.state != .s3 || (0x100 ≤ i && i ≤ 0x102))

/-- SENSOR_SAMPLE: every 10 µs each level sensor that reads is sampled. -/
def execSensorSample (values : List (Nat × Int)) (s : State) : Res :=
  .next ((values.filter fun x => sensorReads s x.1).foldl (fun s x => takeSample x s) s)

/-! ### Aging (R461) -/

/-- Hours of weighted array time of a tile. -/
def stressHours (s : State) (t : Nat) : Nat := (getTile s t).stress / (3600 * secNs)

/-- Stress of a die's working tiles: least and greatest. -/
def dieStress (s : State) (d : Nat) : Nat × Nat :=
  let l := ((List.range 32).filter fun t => !(getTile s (32 * d + t)).retired).map fun t => stressHours s (32 * d + t)
  match l with
  | [] => (0, 0)
  | x :: r => (r.foldl min x, r.foldl max x)

/-- AGING_SUMMARY: every 24 h of the TSC, one event per die. -/
def execAgingSummary (s : State) : Res :=
  let s := advance ((now s / dayNs + 1) * dayNs) s
  .next ((List.range 4).foldl (fun s d =>
    let x := dieStress s d
    let s := updTele (fun t => { t with aging := smSet t.aging d x }) s
    emit srcPower evAgingSummary devPart [(20, 1, d), (24, 4, x.1), (28, 4, x.2)] s) s)

/-! ### MONITOR_ARM, MONITOR_READ (R448 to R453) -/

def monKind (r : Req) : Nat := min 3 (num r.slot 64 1)
def monIndex (r : Req) : Nat := num r.slot 66 2
def monBuffer (r : Req) : Nat := pAddr r.slot 72 / 64 * 64
def monOwner (r : Req) : Option Nat := if r.operator then none else r.part

/-- Who may arm a source (R448, R449). -/
def monAllowed (s : State) (r : Req) : Verdict :=
  let i := monIndex r
  let own (o : Option Nat) : Verdict := need (r.operator || o == r.part) stTargetNotOwned
  match monKind r with
  | 0 => own (queueOwner s i)
  | 1 => firstBad [need (i < 16) stTargetNotOwned, own (some i)]
  | 2 => firstBad [need (i < 256) stTargetNotOwned, own (stackPart s (i / 16))]
  | _ =>
    if !sensorDefined i then .bad stTargetNotOwned
    else
      let die := i < 0x100 && (List.range 4).all fun k => sixteenthOwner s (i / 64 * 4 + k) == r.part && r.part.isSome
      need (r.operator || die) stNotOperator

def sameMon (r : Req) (m : Monitor) : Bool := m.kind == monKind r && m.index == monIndex r && m.owner == monOwner r

/-- Accumulators an issuer may hold (R450). -/
def monQuota (s : State) (o : Option Nat) : Nat := match o.bind (findPart s) with
  | some w => 256 * w.sixteenths
  | none => 256

def ownMonArm (s : State) (r : Req) : Verdict :=
  let held := (s.tele.monitors.filter fun m => m.owner == monOwner r).length
  firstBad [monAllowed s r,
    if monBuffer r = 0 then .ok else rangeOk s r.ctx (monBuffer r) 384 false true (hWaitMap r.slot),
    need (monBuffer r = 0 || s.tele.monitors.any (sameMon r) || held < monQuota s (monOwner r)) stMonitorNotArmed]

def armMonitor (r : Req) (s : State) : State :=
  let beats := clampN 1 65535 (num r.slot 80 2)
  updTele (fun t =>
    if monBuffer r = 0 then { t with monitors := t.monitors.map fun m => if sameMon r m then { m with disarm := true } else m }
    else if t.monitors.any (sameMon r) then { t with
      monitors := t.monitors.map fun m => if sameMon r m then { m with
        context := r.ctx
        buffer := monBuffer r
        beats
        disarm := false } else m }
    else { t with monitors := t.monitors ++ [{
      kind := monKind r, index := monIndex r, owner := monOwner r, context := r.ctx, buffer := monBuffer r, beats
      active := false, w := 0, startBeat := 0, partialW := true, degraded := false, sat := false, count := 0, sum := 0
      min := 0, max := 0, bins := [], closed := none, disarm := false }] }) s

def execMonitorArm (queue : Nat) (s : State) : Res :=
  .next (dispatch queue (isOp 0x700) oneUj ownMonArm (startNow armMonitor noEcho) s)

/-- Write a result record to DST of a command and end it. -/
def resultTo (dst : Nat) (b : List Byte) (r : Req) (n : Nat) (s : State) : State :=
  let a := writeVa r.ctx dst b s
  finishFlight n 0 (noteAcc n true a.2 a.1)

/-- The range a command writes its result to. -/
def resultOk (s : State) (r : Req) (dst n : Nat) : Verdict :=
  firstBad [rangeOk s r.ctx dst n false true (hWaitMap r.slot), snoopOk s true (segments s r.ctx dst n)]

def findMon (s : State) (r : Req) : Option Monitor := s.tele.monitors.find? (sameMon r)

def ownMonRead (s : State) (r : Req) : Verdict :=
  firstBad [need (findMon s r).isSome stMonitorNotArmed, resultOk s r (pAddr r.slot 72) 192]

def monReadBytes (s : State) (r : Req) : List Byte := match findMon s r with
  | some m => m.closed.getD (monRecord m m.partialW true m.w 0)
  | none => zeros 192

def execMonitorRead (queue : Nat) (s : State) : Res :=
  .next (dispatch queue (isOp 0x701) oneUj ownMonRead (fun r n s => resultTo (pAddr r.slot 72) (monReadBytes s r) r n s) s)

/-! ### RECORDER_ARM, RECORDER_STOP (R454) -/

def recBytes (r : Req) : Nat := max 4096 (roundUp (num r.slot 80 8) 64)
def recRegion (r : Req) : Nat := pAddr r.slot 72 / 64 * 64

def ownRecArm (s : State) (r : Req) : Verdict :=
  firstBad [need (!s.tele.armed) stRecorderArmed,
    rangeOk s r.ctx (recRegion r) (recBytes r) false true (hWaitMap r.slot)]

def armRecorder (r : Req) (s : State) : State :=
  updTele (fun t => { t with
    armed := true
    full := false
    gen := t.gen % 255 + 1
    baseSeq := t.rseq
    count := 0
    overflow := 0
    suppressed := 0
    capacity := recBytes r / 64
    region := some (r.ctx, recRegion r)
    mask := num r.slot 88 8 % 2 ^ 13
    rate := []
    supp := [] }) s

def execRecorderArm (queue : Nat) (s : State) : Res :=
  .next (dispatch queue (isOp 0x702) oneUj ownRecArm (startNow armRecorder fun _ r => recBytes r / 64) s)

/-- The events already accepted are written first (R454): those that have arrived. -/
def execRecorderStop (queue : Nat) (s : State) : Res :=
  .next (dispatch queue (isOp 0x703) oneUj noCheck (startNow (fun _ s => Machine.recorderStop s) noEcho) s)

end Sys2Proof.Machine
end

