-- ==== Sys2Proof/Machine/Sideband.lean ====
section
/-! DEFINITION. SPDM, MCTP control and PLDM (16 R436, R444, 17 R463, 19 R489). Answers carry the code of the response and
the fields that spec/ names; the message formats are those of the protocols (log 38). -/

namespace Sys2Proof.Machine

/-! ### SPDM (16 R444) -/

/-- The module hears the sideband: its supply lies ahead of the hot-swap switch, so in every power state (19 R479, R489). -/
def sideOn (s : State) : Bool := s.power.rails != .none_

/-- A request on a transport (0 PCIe, 1 sideband, 2 DOE of the physical function) arrives: over the host link only while it is
up. -/
def spdmHeard (s : State) (t : Nat) : Bool := if t = 1 then sideOn s else t < 3 && s.link.up && s.power.rails == .on

/-- SPDM is refused in recovery (16 R431, R436), in S3 (19 R489), and while no firmware runs. -/
def spdmRefused (s : State) : Bool := s.sec.recovery || s.power.state == .s3 || s.sec.fwStart.isNone

def spdmStage (s : State) (t : Nat) : Nat := smGet s.sec.spdmStage 0 t
def setStage (t n : Nat) (s : State) : State := updSec (fun c => { c with spdmStage := smSet c.spdmStage t n }) s
def sessionsOf (s : State) (t : Nat) : List (Nat × Bool × Nat) := smGet s.sec.spdmSessions [] t
def setSessions (t : Nat) (l : List (Nat × Bool × Nat)) (s : State) : State :=
  updSec (fun c => { c with spdmSessions := smSet c.spdmSessions t l }) s

/-- A request is answered when its transport answers and the connection has reached a stage; else with an error. -/
def spdm (t stage : Nat) (act : State → State) (s : State) : Res :=
  .next (if !spdmHeard s t then s else if spdmRefused s then answer ansError [] s else if stage ≤ spdmStage s t then act s else answer ansError [] s)

def execGetVersion (transport : Nat) (s : State) : Res :=
  spdm transport 0 (fun s => answer 0x04 [0x13] (setStage transport 1 s)) s

def execGetCapabilities (transport : Nat) (s : State) : Res :=
  spdm transport 1 (fun s => answer 0x61 [] (setStage transport (max 2 (spdmStage s transport)) s)) s

/-- The requester offers the supported algorithms, or nothing that the KY8 supports. -/
def execNegotiateAlgorithms (transport : Nat) (supported : Bool) (s : State) : Res :=
  spdm transport 2 (fun s => if supported then answer 0x63 [] (setStage transport 3 s) else answer ansError [] s) s

def execGetDigests (transport : Nat) (s : State) : Res :=
  spdm transport 3 (fun s => answer 0x01 (chainDigest s) s) s

def execGetCertificate (transport slot off len : Nat) (s : State) : Res :=
  spdm transport 3 (fun s => if slot = 0 then answer 0x02 (certBytes s off len) s else answer ansError [] s) s

/-- 32 fresh bytes of the DRBG (16 R440). -/
def fresh32 (s : State) : List Byte × State :=
  (List.range 4).foldl (fun (x : List Byte × State) _ =>
    let d := freshDraw x.2
    (x.1 ++ le 8 d.1.toNat, d.2)) ([], s)

def execChallenge (transport : Nat) (nonce : List Byte) (s : State) : Res :=
  spdm transport 3 (fun s =>
    let x := fresh32 s
    let body := chainDigest s ++ x.1 ++ nonce
    answer 0x03 (chainDigest s ++ x.1 ++ aliasSign s body) x.2) s

/-- A measurement block by index (16 R444). -/
def measurement (s : State) (i : Nat) : Option (List Byte) :=
  if i = 1 then some romDigest
  else if i = 2 then some (slice s.sec.fwDigest 0 32)
  else if 3 ≤ i && i ≤ 18 then (s.sec.components[i - 3]?).map fun c => slice c 0 32
  else if i = 0x20 then some boardDigest
  else if i = 0x21 then some (sha256 (le 1 (b2n s.sec.testPort) ++ le 4 s.dbgEn.toNat))
  else if i = 0x22 then some (digestOf s 16)
  else none

def measurementList : List Nat := [1, 2] ++ ((List.range 16).map (· + 3)) ++ [0x20, 0x21, 0x22]

/-- Index 0 asks for the number of blocks, 0xFF for all. -/
def execGetMeasurements (transport index : Nat) (nonce : List Byte) (s : State) : Res :=
  spdm transport 3 (fun s =>
    let all := measurementList.filterMap fun i => (measurement s i).map fun b => (i, b)
    let sign (b : List Byte) : List Byte := b ++ aliasSign s (b ++ nonce)
    if index = 0 then answer 0x60 (sign (le 1 all.length)) s
    else if index = 0xFF then answer 0x60 (sign (all.flatMap fun x => le 1 x.1 ++ x.2)) s
    else match measurement s index with
      | some b => answer 0x60 (sign (le 1 index ++ b)) s
      | none => answer ansError [] s) s

/-- The lowest session number not in use. -/
def freeSession (l : List (Nat × Bool × Nat)) : Option Nat := (List.range 8).find? fun i => !l.any fun x => x.1 == i

/-- KEY_EXCHANGE opens a session, at most 8 on a transport; the ephemeral key is fresh DRBG output. -/
def execKeyExchange (transport : Nat) (peerKey : List Byte) (s : State) : Res :=
  spdm transport 3 (fun s => match freeSession (sessionsOf s transport) with
    | none => answer ansError [] s
    | some i =>
      let x := fresh32 s
      let s := setSessions transport (sessionsOf s transport ++ [(i, false, 0)]) x.2
      answer 0x64 (le 2 i ++ x.1 ++ aliasSign s (peerKey ++ x.1)) s) s

def hasSession (s : State) (t i : Nat) (finished : Bool) : Bool := (sessionsOf s t).any fun x => x.1 == i && x.2.1 == finished

/-- FINISH with the right verify data establishes the session; with wrong data it ends it. -/
def execFinish (transport session : Nat) (ok : Bool) (s : State) : Res :=
  spdm transport 3 (fun s =>
    if !hasSession s transport session false then answer ansError [] s
    else if ok then answer 0x65 []
      (setSessions transport ((sessionsOf s transport).map fun x => if x.1 = session then (x.1, true, x.2.2) else x) s)
    else answer ansError [] (setSessions transport ((sessionsOf s transport).filter fun x => x.1 != session) s)) s

def execHeartbeat (transport session : Nat) (s : State) : Res :=
  spdm transport 3 (fun s => if hasSession s transport session true then answer 0x68 [] s else answer ansError [] s) s

def execKeyUpdate (transport session : Nat) (s : State) : Res :=
  spdm transport 3 (fun s =>
    if !hasSession s transport session true then answer ansError [] s
    else answer 0x69 []
      (setSessions transport ((sessionsOf s transport).map fun x => if x.1 = session then (x.1, x.2.1, x.2.2 + 1) else x) s)) s

def execEndSession (transport session : Nat) (s : State) : Res :=
  spdm transport 3 (fun s =>
    if !hasSession s transport session true then answer ansError [] s
    else answer 0x6C [] (setSessions transport ((sessionsOf s transport).filter fun x => x.1 != session) s)) s

/-- The Terlys request 0x01: the partition report of the TDI's partition (16 R444, R445). -/
def execVendorDefinedRequest (transport code func : Nat) (nonce : List Byte) (s : State) : Res :=
  spdm transport 3 (fun s => match funcPart s func with
    | some p => if code = 1 then answer 0x7E (report s (some p) func nonce) s else answer ansError [] s
    | none => answer ansError [] s) s

/-! ### MCTP control (19 R489) -/

/-- Set Endpoint ID (1), Get Endpoint ID (2), Get Message Type Support (5): control, PLDM and SPDM (log 38). -/
def execMctpControl (code eid : Nat) (s : State) : Res :=
  .next (if !sideOn s then s
    else if code = 1 then answer 1 (le 1 (eid % 256)) (updSec (fun c => { c with mctpEid := eid % 256 }) s)
    else if code = 2 then answer 2 (le 1 s.sec.mctpEid) s
    else if code = 5 then answer 5 [3, 0, 1, 5] s
    else answer ansError [] s)

/-! ### PLDM monitoring (17 R463) -/

/-- The level sensors in ascending index: the numeric sensor PDRs. -/
def sensorList : List Nat := List.range 0x105 ++ (List.range 9).map (· + 0x108)

/-- PLDM answers on the sideband except in recovery, where only firmware update does (16 R436). -/
def pldm (act : State → State) (s : State) : Res :=
  .next (if !sideOn s then s else if s.sec.recovery then answer ansError [] s else act s)

/-- The unit of a sensor: 0 °C, 1 V, 2 A, 3 W, with modifier −3. -/
def sensorUnit (i : Nat) : Nat :=
  if i ≤ 0x101 then 0 else if i = 0x102 || (0x108 ≤ i && i ≤ 0x10B) then 1 else if i = 0x103 then 2 else 3

/-- PDR of a record handle from 1 on: the sensor ID, the unit, the unit modifier. -/
def execGetPdr (handle : Nat) (s : State) : Res :=
  pldm (fun s => match (if handle = 0 then none else sensorList[handle - 1]?) with
    | some i => answer 0x51 (le 4 handle ++ le 2 (0x1000 + i) ++ le 1 (sensorUnit i) ++ le 1 (unsignedOf 8 (-3))) s
    | none => answer ansError [] s) s

def execGetPdrRepositoryInfo (s : State) : Res :=
  pldm (fun s => answer 0x50 (le 4 sensorList.length) s) s

/-- A reading, or "unavailable" in S3 (R463). -/
def execGetSensorReading (sensor : Nat) (s : State) : Res :=
  pldm (fun s =>
    let i := sensor - 0x1000
    if sensor < 0x1000 || !sensorDefined i then answer ansError [] s
    else if !sensorReads s i then answer 0x11 [0x01] s
    else answer 0x11 (0x00 :: (le 1 (smGet s.tele.threshState 0 i) ++ le 4 (unsignedOf 32 (smGet s.tele.sensors 0 i)))) s) s

def optBytes (o : Option Int) : List Byte := match o with
  | some v => 1 :: le 4 (unsignedOf 32 v)
  | none => 0 :: zeros 4

def execGetSensorThresholds (sensor : Nat) (s : State) : Res :=
  pldm (fun s =>
    let i := sensor - 0x1000
    if sensor < 0x1000 || !sensorDefined i then answer ansError [] s
    else
      let t := thresholdsOf s i
      answer 0x13 (optBytes t.1 ++ optBytes t.2.1 ++ optBytes t.2.2) s) s

def execSetSensorThresholds (sensor : Nat) (lowCrit upWarn upCrit : Option Int) (s : State) : Res :=
  pldm (fun s =>
    let i := sensor - 0x1000
    if sensor < 0x1000 || !sensorDefined i then answer ansError [] s
    else answer 0x12 [] (updTele (fun t => { t with thresholds := smSet t.thresholds i (lowCrit, upWarn, upCrit) }) s)) s

def execSetEventReceiver (receiver : Nat) (s : State) : Res :=
  pldm (fun s => answer 0x04 [] (updTele (fun t => { t with receiver := some receiver }) s)) s

/-- PLDM firmware update: in recovery the image goes into the slot that failed last (16 R436), else into the slot that is
not running (log 39); refused in S3. -/
def execPldmFirmwareUpdate (image : List Byte) (s : State) : Res :=
  .next (if !sideOn s then s else if s.power.state == .s3 then answer ansError [] s else
    let slot := if s.sec.recovery then s.sec.failedSlot.getD 1 else 1 - s.sec.slot
    answer 0x05 [] (updSec (fun c => { c with images := smSet c.images slot image }) s))

end Sys2Proof.Machine
end

