-- ==== Sys2Proof/Machine/MemCmd.lean ====
section
/-! DEFINITION. Memory commands (11 R312): extents (09 R237 to R242), retiring a context (R251), receive windows
(R247, R248, R250). -/

namespace Sys2Proof.Machine

/-! ### EXTENT_MAP (09 R239 to R241) -/

structure MapForm where
  ctx    : Nat
  va     : Nat          -- frame
  len    : Nat          -- frames
  form   : Nat          -- 0 basic, 1 expert PA, 2 share
  die    : Nat
  read   : Bool
  write  : Bool
  host   : Bool
  zero   : Bool
  key    : Nat
  oCtx   : Nat
  oVa    : Nat
  pa     : Nat
  deriving DecidableEq, Repr

/-- Length in frames: rounded up, at least one, at most 163,840 (R239). -/
def lenFrames (bytes : Nat) : Nat := clampN 1 163840 (ceilDiv bytes frameBytes)

def mapForm (r : Req) : MapForm :=
  let b := r.slot
  let f := min 2 (num b 88 1)
  let perm := num b 90 1
  { ctx := r.ctx, va := pAddr b 72 / frameBytes, len := lenFrames (num b 80 8)
    form := if f = 1 && !r.level then 0 else f
    die := num b 89 1, read := bit perm 0, write := bit perm 1, host := bit perm 2, zero := bit perm 3
    key := num b 92 2 % 1024, oCtx := num b 96 2, oVa := pAddr b 104 / frameBytes
    pa := xField r.expert 0 4 % 2 ^ 23 }

/-- Extents that the contexts of a partition hold (its quota, 09 R234). -/
def partExtents (s : State) (p : Option Nat) : Nat := (s.mem.extents.filter fun e => contextOwner s e.2.context == p).length

def overlaps (s : State) (c va len : Nat) : Bool :=
  s.mem.extents.any fun e => e.2.context == c && e.2.vaFrame < va + len && va < e.2.vaFrame + e.2.lenFrames

/-- A frame belongs to the partition's stacks and is populated. -/
def frameOfPart (s : State) (p : Option Nat) (f : Nat) : Bool :=
  populated s f && p.isSome && sixteenthOwner s (stackOf (f * frameBytes)) == p

/-- Ranges of a die that hold no free frame: owned frames, unpopulated tops, stacks of others; ascending. -/
def blockedOn (s : State) (p : Option Nat) (die : Nat) : List (Nat × Nat) :=
  let lo := stackFrame (die * 4) 0
  let hi := lo + 163840
  let own := (s.mem.owners.filter fun o => lo ≤ o.1 && o.1 < hi).map fun o => (o.1, o.1 + 1)
  let tops := (List.range 4).filterMap fun k =>
    let i := die * 4 + k
    let from_ := if sixteenthOwner s i == p && p.isSome then stackFrames s i else 0
    if from_ = 40960 then none else some (stackFrame i from_, stackFrame i 40960)
  insertSort (fun a b => a.1 < b.1) (own ++ tops)

/-- The lowest run of `len` frames in [cur, hi) that meets no blocked range. -/
def firstFit (cur len hi : Nat) : List (Nat × Nat) → Option Nat
  | [] => if cur + len ≤ hi then some cur else none
  | (a, b) :: l => if cur + len ≤ a then some cur else firstFit (max cur b) len hi l

/-- The frames EXTENT_MAP takes in its basic form (R239). -/
def basicRun (s : State) (p : Option Nat) (f : MapForm) : Option Nat :=
  let dies := reqDies s p
  match dies[min f.die (dies.length - 1)]? with
  | none => none
  | some d =>
    let lo := stackFrame (d * 4) 0
    firstFit lo f.len (lo + 163840) (blockedOn s p d)

/-- The owner's extent a share is taken from, with the first frame of the shared range (R241). -/
def shareSource (s : State) (f : MapForm) : Option (Extent × Nat) :=
  match s.mem.extents.find? fun e => e.2.context = f.oCtx && !e.2.shared && e.2.vaFrame ≤ f.oVa &&
      f.oVa + f.len ≤ e.2.vaFrame + e.2.lenFrames with
  | some e => some (e.2, e.2.paFrame + (f.oVa - e.2.vaFrame))
  | none => none

def frameRange (f n : Nat) : List Nat := (List.range n).map (f + ·)

def shareFull (s : State) (pa len : Nat) : Bool :=
  s.mem.owners.any fun o => pa ≤ o.1 && o.1 < pa + len && 4 ≤ o.2.shares.length

/-- The checks of R240 and R241 in their order, after the context's; the key domain's ownership is checked in that order too. -/
def ownMap (s : State) (r : Req) : Verdict :=
  let f := mapForm r
  let quota := match r.part.bind (findPart s) with
    | some w => 4096 * w.sixteenths
    | none => 0
  firstBad ([need ((ctxExtents s f.ctx).length < 4096 && partExtents s r.part < quota) stExtentLimit,
    need (!overlaps s f.ctx f.va f.len) stExtentOverlap] ++
    (if f.form = 2 then
      [need (contextOwner s f.oCtx == r.part) stExtentNotOwned, need (shareSource s f).isSome stShareSourceInvalid,
       match shareSource s f with
       | some x => need (!shareFull s x.2 f.len) stShareListFull
       | none => .ok]
    else
      [need (keyDomainOwner s f.key == r.part) stKeyDomainNotOwned, need (smGet s.sec.keyDomains 0 f.key != 0) stKeyDomainInvalid] ++
      (if f.form = 1 then
        [need ((frameRange f.pa f.len).all (frameOfPart s r.part)) stExtentNotOwned,
         need (!s.mem.owners.any fun o => f.pa ≤ o.1 && o.1 < f.pa + f.len) stFrameInUse]
      else [need (basicRun s r.part f).isSome stExtentNoSpace])))

/-- The lowest free entry of the extent table. -/
def freeEntry (i : Nat) : SMap Extent → Nat
  | [] => i
  | x :: l => if x.1 = i then freeEntry (i + 1) l else i

/-- The lowest free share slot of an owner entry. -/
def addShare (c : Nat) (w : Bool) (o : Owner) : Owner :=
  match (List.range 4).find? fun i => (smFind o.shares i).isNone with
  | some i => { o with shares := smSet o.shares i (c, w) }
  | none => o

def mapExtent (r : Req) (s : State) : State :=
  let f := mapForm r
  let p := r.part.getD devPart
  if f.form = 2 then
    match shareSource s f with
    | none => s
    | some (e, pa) =>
      let w := f.write && e.write
      let x : Extent := { context := f.ctx, read := f.read && e.read, write := w, shared := true, hostVis := e.hostVis,
                          vaFrame := f.va, lenFrames := f.len, paFrame := pa, keyDomain := e.keyDomain, owner := f.oCtx,
                          mapBeat := beatNo s }
      updMem (fun m => { m with
        extents := smSet m.extents (freeEntry 0 m.extents) x
        owners := smMap m.owners fun n o => if pa ≤ n && n < pa + f.len then addShare f.ctx w o else o }) s
  else
    let pa := if f.form = 1 then f.pa else (basicRun s r.part f).getD 0
    let x : Extent := { context := f.ctx, read := f.read, write := f.write, shared := false, hostVis := f.host,
                        vaFrame := f.va, lenFrames := f.len, paFrame := pa, keyDomain := f.key, owner := f.ctx,
                        mapBeat := beatNo s }
    let o : Owner := { owner := f.ctx, keyDomain := f.key, partition := p, ownerW := f.write, shares := [],
                       hdm := f.host && !tdiLocked s p }
    let s := updMem (fun m => { m with
      extents := smSet m.extents (freeEntry 0 m.extents) x
      owners := smPutRange m.owners pa (List.replicate f.len o) }) s
    if f.zero then meterHbm p (f.len * frameBytes)
      ((frameRange pa f.len).foldl (fun s n => updMem (fun m => zeroFrame m (keyPair s n) n) s) s) else s

def execExtentMap (queue : Nat) (s : State) : Res :=
  .next (dispatch queue (isOp 0x400) oneUj ownMap (startNow (fun r s => recheckMapouts (mapExtent r s)) fun _ r => (mapForm r).len) s)

/-! ### EXTENT_UNMAP (09 R242, 05 R138) -/

def unmapRange (r : Req) : Nat × Nat := (pAddr r.slot 72 / frameBytes, lenFrames (num r.slot 80 8))

/-- The extents of the context that lie wholly in the range. -/
def unmapSet (s : State) (r : Req) : List Nat :=
  let x := unmapRange r
  (s.mem.extents.filter fun e => e.2.context = r.ctx && x.1 ≤ e.2.vaFrame && e.2.vaFrame + e.2.lenFrames ≤ x.1 + x.2).map (·.1)

/-- The extents with their sharers. -/
def withSharers (s : State) (is : List Nat) : List Extent :=
  let es := is.filterMap fun i => smFind s.mem.extents i
  es ++ es.flatMap fun e => if e.shared then [] else (sharersOf s e).filterMap fun j => smFind s.mem.extents j

/-- A region is pinned in one of the extents: a window, a fault queue or billing region, a queue's ring, a monitor's
buffer, the recorder's region (09 R242, 10 R262, 17 R450). -/
def pinned (s : State) (es : List Extent) : Bool :=
  let hit (c va n : Nat) : Bool := es.any fun e => touches e c va n
  let ring (r : Ring) : Bool := r.valid && hit (ringCtx r) (ringVa r) (4096 * 64)
  s.mem.windows.any (fun w => hit w.2.context w.2.base w.2.length) ||
  s.mem.faultqs.any (fun q => ring q.2) || ring s.mem.opFaultq || ring s.mem.bill ||
  s.queues.any (fun q => q.2.life != .disabled && (queueRings q.2).any fun x => hit x.1 x.2.1 x.2.2) ||
  s.tele.monitors.any (fun m => hit m.context m.buffer 384) ||
  match recorderRegion s with
  | some (c, va, n) => hit c va n
  | none => false

def ownUnmap (s : State) (r : Req) : Verdict :=
  let x := unmapRange r
  let split := s.mem.extents.any fun e => e.2.context = r.ctx && e.2.vaFrame < x.1 + x.2 &&
    x.1 < e.2.vaFrame + e.2.lenFrames && !(x.1 ≤ e.2.vaFrame && e.2.vaFrame + e.2.lenFrames ≤ x.1 + x.2)
  firstBad [need (!split) stExtentSplit, need (!pinned s (withSharers s (unmapSet s r))) stExtentInUse]

/-- Remove the extents once no running kernel has a segment in them. -/
def finishUnmap (n : Nat) (is : List Nat) (s : State) : State :=
  let es := withSharers s is
  if (flightsIn s es).isEmpty then finishFlight n 0 (dropExtents is (loseSegs es s)) else s

def startUnmap (r : Req) (n : Nat) (s : State) : State :=
  let is := unmapSet s r
  finishUnmap n is (updFlight n (fun f => { f with
    work := .unmap is
    echo := is.length }) s)

def execExtentUnmap (queue : Nat) (s : State) : Res :=
  .next (dispatch queue (isOp 0x401) oneUj ownUnmap startUnmap s)

/-- Commands that wait to unmap are looked at again. -/
def settleUnmaps (s : State) : State :=
  s.flights.foldl (fun s f => match f.work with
    | .unmap is => if f.done.isNone then finishUnmap f.num is s else s
    | _ => s) s

/-! ### RETIRE_CONTEXT (09 R251) -/

def startRetireCtx (r : Req) (n : Nat) (s : State) : State :=
  retireStart r.ctx (some n) (updFlight n (fun f => { f with work := .retire }) s)

def execRetireContext (queue : Nat) (s : State) : Res :=
  .next (dispatch queue (isOp 0x402) oneUj noCheck startRetireCtx s)

/-- The context's work in flight has drained. -/
def execRetireContextDrained (context : Nat) (s : State) : Res :=
  let waiting := (s.mem.retiring.filter fun r => r.context = context).filterMap (·.flight)
  doWhen (retiringCtx s context && drained s context waiting.head?) (retireEnd context s) s

/-! ### Windows (09 R247, R248, R250) -/

def winNo (r : Req) : Nat := num r.slot 64 2 % 4096

/-- The 64-byte entry of WINDOW_OPEN, clamped (R247). -/
def parseWindow (s : State) (r : Req) : Window :=
  let b := r.slot.drop 64
  let kind := num b 2 1
  let perm := num b 3 1
  let mode := min 2 (num b 6 1)
  let count := if mode = 2 then clampN 1 8 (num b 7 1) else if mode = 1 then 2 else 0
  { kind := if kind ≤ 2 then kind else 0, read := bit perm 0, write := bit perm 1, atomic := bit perm 2
    context := num b 4 2, peerMode := mode, peers := (List.range count).map fun i => num b (32 + 2 * i) 2
    base := pAddr b 8 / 64 * 64, length := roundUp (num b 16 8) 64, table := num b 24 2 % 4096, epoch := s.net.group.epoch }

def ownWindow (s : State) (r : Req) : Verdict :=
  let w := parseWindow s r
  firstBad [need (!retiringCtx s w.context) stContextRetired, need (smFind s.mem.windows (winNo r)).isNone stWindowInUse,
    rangeOk s w.context w.base w.length w.read (w.write || w.atomic) (hWaitMap r.slot)]

def openWindow (r : Req) (s : State) : State :=
  updMem (fun m => { m with windows := smSet m.windows (winNo r) (parseWindow s r) }) s

def execWindowOpen (queue : Nat) (s : State) : Res :=
  .next (dispatch queue (isOp 0x403) oneUj ownWindow (startNow openWindow noEcho) s)

/-- Messages that passed the window's checks and are not whole yet (R250). -/
def windowBusy (s : State) (w : Nat) : Bool :=
  s.net.flows.any fun f => f.2.rxMsgs.any fun m =>
    !m.refused && !m.effects && (m.type == tyWrite || m.type == tyAtomic) && num m.header 50 2 % 4096 == w

def startClose (r : Req) (n : Nat) (s : State) : State :=
  let w := winNo r
  let was := (smFind s.mem.windows w).isSome
  let s := updFlight n (fun f => { f with
    echo := b2n was
    work := .window w }) (closeWindow w s)
  if was && windowBusy s w then s else finishFlight n 0 s

def execWindowClose (queue : Nat) (s : State) : Res :=
  .next (dispatch queue (isOp 0x404) oneUj noCheck startClose s)

def settleWindows (s : State) : State :=
  s.flights.foldl (fun s f => match f.work with
    | .window w => if f.done.isNone && !windowBusy s w then finishFlight f.num 0 s else s
    | _ => s) s

end Sys2Proof.Machine
end

