-- ==== Sys2Proof/Machine/ConfigCmd.lean ====
section
/-! DEFINITION. Configuration commands and the sets they stage (11 R313, R314), and how an armed set applies at a beat
head (12 R337, R338, 02 R47). -/

namespace Sys2Proof.Machine

/-! ### Sets -/

/-- Number of the device set. -/
abbrev devSet : Nat := 16

def getSet (s : State) (i : Nat) : CfgSet := smGet s.sched.sets {} i
def updSet (i : Nat) (f : CfgSet → CfgSet) (s : State) : State :=
  updSched (fun c => { c with sets := smSet c.sets i (f (smGet c.sets {} i)) }) s

/-- The set byte 64 names: the acting partition's, or the device set. -/
def setOf (r : Req) : Nat := if setByte r.slot = 0 then r.part.getD devSet else devSet

/-- Two items write the same field: the later one stands (R313). -/
def sameField (a b : Item) : Bool := match a, b with
  | .partition p .., .partition q .. => p == q
  | .cls p _, .cls q _ => p == q
  | .regulator p x .., .regulator q y .. => p == q && x == y
  | .power .., .power .. => true
  | .beat .., .beat .. => true
  | .sampling p _, .sampling q _ => p == q
  | _, _ => false

def putItem (i : Item) (c : CfgSet) : CfgSet :=
  { c with
    opened := true
    items := if c.items.any (sameField i) then c.items.map fun x => if sameField i x then i else x else c.items ++ [i] }

/-- A write into a set that is armed and not applied fails (R313). -/
def setFree (s : State) (i : Nat) : Verdict := need (getSet s i).armed.isNone stConfigSetArmed

/-! ### CONFIG_STAGE, CONFIG_ARM -/

def stageDiscard (r : Req) : Bool := num r.slot 65 1 != 0

/-- A discard of an armed set is in time before beat N + 25 ns. -/
def inTime (s : State) (b : Nat) : Bool := now s < b * beatNs s + 25

def ownStage (s : State) (r : Req) : Verdict :=
  match (getSet s (setOf r)).armed with
  | none => .ok
  | some (b, _) => need (stageDiscard r && inTime s b) stConfigSetArmed

def stageSet (r : Req) (s : State) : State :=
  let i := setOf r
  let s := match (getSet s i).armed with
    | some (_, n) => finishFlight n stConfigDiscarded s
    | none => s
  updSet i (fun c => { c with
    opened := !stageDiscard r
    items := []
    armed := none }) s

def execConfigStage (queue : Nat) (s : State) : Res :=
  .next (dispatch queue (isOp 0x500) oneUj ownStage (startNow stageSet noEcho) s)

/-- First and length in sixteenths, and QMAP, of the partitions once the items have applied. -/
def partsAfter (s : State) (items : List Item) : List (Nat × Nat × Nat × List Nat) :=
  items.foldl (fun l i => match i with
    | .partition p first n _ _ _ qmap =>
      let l := l.filter fun x => x.1 != p
      if n = 0 then l else l ++ [(p, first, n, qmap)]
    | _ => l) (s.sched.parts.map fun p => (p.1, p.2.first, p.2.sixteenths, p.2.qmap))

/-- Two partitions overlap, or a virtual function is bound to two (R313, 13 R342). -/
def clash (a b : Nat × Nat × Nat × List Nat) : Bool :=
  a.1 != b.1 && ((a.2.1 < b.2.1 + b.2.2.1 && b.2.1 < a.2.1 + a.2.2.1) ||
    a.2.2.2.any fun f => f != 0 && b.2.2.2.contains f)

/-- Sixteenths that are not free yet at a beat-edge count, by the removals in progress (R338). -/
def stillHeld (s : State) (edge : Nat) : List (Nat × Nat) :=
  s.sched.removals.flatMap fun r => if r.edge + 2 ≤ edge then [] else r.blocks.map fun b => (r.part, b)

def armBeat (s : State) (r : Req) : Nat := laterBeat s (num r.slot 72 8)

/-- Arming a device set that would make partitions overlap fails. -/
def overlapAt (s : State) (i b : Nat) : Bool :=
  let items := (getSet s i).items
  let l := partsAfter s items
  let held := stillHeld s (s.beat.edges + (b - beatNo s))
  let named := items.filterMap fun x => match x with
    | .partition p first n .. => some (p, first, n)
    | _ => none
  i == devSet && !named.isEmpty &&
  ((l.any fun a => l.any fun b => clash a b) ||
    named.any fun x => held.any fun h => h.1 != x.1 && x.2.1 ≤ h.2 && h.2 < x.2.1 + x.2.2)

def ownArm (s : State) (r : Req) : Verdict :=
  firstBad [setFree s (setOf r), need (!overlapAt s (setOf r) (armBeat s r)) stPartitionOverlap]

def startArm (r : Req) (n : Nat) (s : State) : State :=
  let b := armBeat s r
  updSet (setOf r) (fun c => { c with armed := some (b, n) })
    (updFlight n (fun f => { f with
      work := .beat
      echo := b % 2 ^ 24 }) s)

def execConfigArm (queue : Nat) (s : State) : Res :=
  .next (dispatch queue (isOp 0x501) oneUj ownArm startArm s)

/-! ### Staged commands -/

/-- A staged command: its item goes into its set. -/
def stage (set : Req → Nat) (item : State → Req → Item) (echo : State → Req → Nat) (check : State → Req → Verdict)
    (queue op : Nat) (s : State) : Res :=
  .next (dispatch queue (isOp op) oneUj (fun s r => firstBad [setFree s (set r), check s r])
    (startNow (fun r s => updSet (set r) (putItem (item s r)) s) echo) s)

def toDevice (_ : Req) : Nat := devSet

/-- The largest legal SIXTEENTHS at or below a value. -/
def legalSixteenths (v : Nat) : Nat := if 16 ≤ v then 16 else if 8 ≤ v then 8 else if 4 ≤ v then 4 else min v 2

def psSixteenths (r : Req) : Nat := legalSixteenths (num r.slot 68 1)
/-- FIRST rounded down and lowered to the highest legal start. -/
def psFirst (r : Req) : Nat :=
  let n := psSixteenths r
  if n = 0 then num r.slot 67 1 else min (num r.slot 67 1 / n * n) (16 - n)

/-- The QMAP of a PARTITION_SET. DESIGN CHOICE (log 96): a function number above 255, which R316 gives no clamp, is taken
modulo 256. -/
def psQmap (s : State) (r : Req) : Verdict × List Nat :=
  let a := pAddr r.slot 80
  let n := 16 * psSixteenths r
  if a = 0 || n = 0 then (.ok, List.replicate n 0)
  else
    let x := readChecked s r.ctx a (2 * n) (hWaitMap r.slot)
    (x.1, (List.range n).map fun i => num x.2 (2 * i) 2 % 256)

def psItem (s : State) (r : Req) : Item :=
  let b := r.slot
  .partition (num b 66 1 % 16) (psFirst r) (psSixteenths r) (bit (num b 69 1) 0) (num b 72 2) (min 100 (num b 74 1)) (psQmap s r).2

def execPartitionSet (queue : Nat) (s : State) : Res :=
  stage toDevice psItem (fun _ r => psSixteenths r + 256 * psFirst r) (fun s r => (psQmap s r).1) queue 0x502 s

/-- The queue of CLASS_SET: a local index of the issuing queue's function. -/
def csQueue (s : State) (r : Req) : Option Nat :=
  match localQueue s (queueFunc s r.queue) (num r.slot 66 2) with
  | some q => if queueOwner s q == r.part then some q else none
  | none => none

def execClassSet (queue : Nat) (s : State) : Res :=
  stage (fun r => r.part.getD devSet) (fun s r => .cls ((csQueue s r).getD 0) (num r.slot 68 1 != 0)) noEcho
    (fun s r => need (csQueue s r).isSome stQueueNotOwned) queue 0x503 s

def rsRes (r : Req) : Nat := min 3 (num r.slot 67 1)
def rsRate (r : Req) : Nat := clampN 1 (regPeak 16 (rsRes r)) (num r.slot 72 4)
/-- BURST in bytes; 0 selects 256 KiB (12 R334). -/
def rsBurst (r : Req) : Nat := let v := num r.slot 76 4; if v = 0 then 262144 else v * 1024

def execRegulatorSet (queue : Nat) (s : State) : Res :=
  stage toDevice (fun _ r => .regulator (num r.slot 66 1 % 16) (rsRes r) (rsRate r) (rsBurst r)) (fun _ r => rsRate r)
    noCheck queue 0x504 s

def pwLimit (r : Req) : Nat := clampN 900 2000 (num r.slot 72 2)
def pwMax (r : Req) : Nat := min 4 (num r.slot 74 1)

def execPowerSet (queue : Nat) (s : State) : Res :=
  stage toDevice (fun _ r => .power (pwLimit r) (pwMax r) (min (pwMax r) (num r.slot 75 1))) (fun _ r => pwLimit r)
    noCheck queue 0x505 s

def bsPeriod (r : Req) : Nat := clampN 25 10000 (num r.slot 72 4)
/-- Beat head clamped against a period (02 R45). -/
def clampHead (period head : Nat) : Nat := clampN 2 (min 50 (period / 2)) head
def bsHead (r : Req) : Nat := clampHead (bsPeriod r) (num r.slot 76 2)

def execBeatSet (queue : Nat) (s : State) : Res :=
  stage toDevice (fun _ r => .beat (bsPeriod r) (bsHead r)) (fun _ r => bsPeriod r + 2 ^ 14 * bsHead r) noCheck queue 0x506 s

def spFraction (r : Req) : Nat := min 3 (num r.slot 67 1)

def execSamplingSet (queue : Nat) (s : State) : Res :=
  stage setOf (fun _ r => .sampling (num r.slot 66 1 % 16) (spFraction r)) (fun _ r => spFraction r) noCheck queue 0x600 s

/-! ### Applying a set (12 R337, R338) -/

/-- Sets armed for the present beat, the device set first, then ascending (R337). -/
def dueSets (s : State) : List Nat :=
  ([devSet] ++ List.range 16).filter fun i => match (getSet s i).armed with
    | some (b, _) => b ≤ beatNo s
    | none => false

def dueItems (s : State) : List Item := (dueSets s).flatMap fun i => (getSet s i).items

/-- What step 4 reads from the armed sets: limit, shares, LC percent, clock bounds (R337). -/
def applyPower (i : Item) (s : State) : State := match i with
  | .power limit hi lo => updSched (fun c => { c with
      limitW := limit
      clockMax := hi
      clockMin := lo }) s
  | .partition p _ n _ share lc _ => if n = 0 then s else updPart p (fun w => { w with
      share
      lcPercent := lc }) s
  | _ => s

/-- BEAT_SET at step 5 of beat N (02 R47). `start` is the start of beat N. -/
def applyBeatSet (period head start : Nat) (s : State) : State :=
  let keep := match s.beat.switch with
    | some w => w.periodUs == period
    | none => false
  if keep then updBeat (fun b => { b with switch := b.switch.map fun w => { w with headUs := clampHead period head } }) s
  else
    let s := updBeat (fun b => { b with switch := none }) s
    if period = s.beat.periodUs then updBeat (fun b => { b with nextHeadUs := some (clampHead period head) }) s
    else
      let l := Nat.lcm (s.beat.periodUs * 1000) (period * 1000)
      updBeat (fun b => { b with switch := some {
        at_ := ceilDiv start l * l
        periodUs := period
        headUs := clampHead period head } }) s

/-- A new partition as PARTITION_SET makes it (R317, R318). -/
def newPart (first n : Nat) (grant : Bool) (share lc : Nat) (qmap : List Nat) : Part :=
  { first, sixteenths := n, expert := grant, share, lcPercent := lc, qmap, carry := false, resizing := false, budget := 0
    avail := 0, reserve := 0, lcUsed := 0, debt := 0, held := false, charged := 0, total := {}, beat := {}, lcHeld := 0
    estLow := 0, durOver := 0, regs := [], sampling := 1, skipped := 0 }

def blocksOf (first n : Nat) : List Nat := (List.range n).map (first + ·)

/-- The part of a QMAP that stays with the blocks kept while a removal runs. -/
def keptQmap (w : Part) (keep : List Nat) : List Nat :=
  ((List.range w.sixteenths).filter fun i => keep.contains (w.first + i)).flatMap fun i => (w.qmap.drop (16 * i)).take 16

/-- Sixteenths of a new partition that no other removal still holds. -/
def applyPartition (p first n : Nat) (grant : Bool) (share lc : Nat) (qmap : List Nat) (s : State) : State :=
  match findPart s p with
  | none => if n = 0 then s else
      updSched (fun c => { c with parts := smSet c.parts p (newPart first n grant share lc qmap) }) s
  | some w =>
    let old := blocksOf w.first w.sixteenths
    let new := blocksOf first n
    if first = w.first && w.sixteenths ≤ n then
      updPart p (fun w => { w with
        sixteenths := n
        expert := grant
        share
        lcPercent := lc
        qmap }) s
    else
      -- shrinking in place keeps the blocks that stay; any other change removes the old ones and adds the new ones after
      let inPlace := first = w.first && n != 0
      let gone := if inPlace then old.filter (fun b => !new.contains b) else old
      let s := updPart p (fun w => { w with
        resizing := true
        expert := grant
        share := if n = 0 then w.share else share
        lcPercent := if n = 0 then w.lcPercent else lc
        qmap := if inPlace then qmap ++ w.qmap.drop (16 * n) else w.qmap }) s
      let after := if n = 0 || inPlace then none else some (first, n)
      updSched (fun c => { c with removals := c.removals ++
        [{ part := p, blocks := gone, edge := s.beat.edges, stage := 0, add := after, qmap := qmap }] }) s

/-- A partition's sixteenths as the armed sets make them: what a removal in progress will leave (R337, R338). -/
def sixteenthsView (s : State) (p : Nat) (w : Part) : Nat × Nat := match s.sched.removals.find? fun r => r.part = p with
  | some r => match r.add with
    | some x => x
    | none => if r.blocks.length = w.sixteenths then (w.first, w.sixteenths) else (w.first, w.sixteenths - r.blocks.length)
  | none => (w.first, w.sixteenths)

/-- REGULATOR_SET at the size in force: RATE clamped again, tokens capped at the new BURST (R313, R338). -/
def applyRegulator (p res rate burst : Nat) (s : State) : State :=
  updPart p (fun w =>
    let b := bucketOf w res
    { w with regs := smSet w.regs res { b with
        rate := clampN 1 (regPeak (sixteenthsView s p w).2 res) rate
        burst
        tokens := min b.tokens (burst : Nat) } }) s

def itemRank : Item → Nat
  | .beat .. => 0
  | .partition .. => 1
  | .regulator .. => 2
  | .cls .. => 3
  | .sampling .. => 4
  | .power .. => 5

/-- A set changes a partition or a function's QMAP: its locked TDIs go to ERROR (13 R360). -/
def itemTdi (s : State) (set : Nat) (i : Item) : List Nat := match i with
  | .partition p _ _ _ _ _ qmap =>
    (lockedFuncs s).filter fun f => qmap.contains f || match findPart s p with
      | some w => w.qmap.contains f
      | none => false
  | .cls q _ => if queueOwner s q == some set then (lockedFuncs s).filter fun f => funcPart s f == some set else []
  | .sampling p _ => (lockedFuncs s).filter fun f => funcPart s f == some p
  | .regulator .. => []
  | _ => []

/-- One item of a set at step 5 of the beat head of beat N. A partition set's queue must still be the partition's (R338). -/
def applyItem (set start : Nat) (i : Item) (s : State) : State :=
  let tdis := itemTdi s set i
  let s := match i with
    | .beat period head => applyBeatSet period head start s
    | .partition p first n g share lc qmap => applyPartition p first n g share lc qmap s
    | .regulator p res rate burst => applyRegulator p res rate burst s
    | .cls q lc => if queueOwner s q == some set then updQueue q (fun w => { w with lc }) s else s
    | .sampling p code => updPart p (fun w => { w with sampling := code }) s
    | .power .. => s
  tdis.foldl (fun s f => tdiError f s) s

/-- A set that has applied is empty; its CONFIG_ARM completes now, or when the removals it began have ended. -/
def endSet (i : Nat) (s : State) : State :=
  match (getSet s i).armed with
  | none => s
  | some (b, n) =>
    let long := i == devSet && s.sched.removals.any fun r => r.edge == s.beat.edges
    let s := updSet i (fun c => { c with
      opened := false
      items := []
      armed := none
      ends := if long then some (s.beat.edges + 2, n) else none }) s
    let s := emit srcCmd evConfigApplied (if i = devSet then devPart else i) [(20, 1, if i = devSet then 0xFF else i), (24, 8, b)] s
    if long then s else finishFlight n 0 s

/-- Step 5 of a beat head: the armed sets apply in the order of R337. -/
def applySets (start : Nat) (s : State) : State :=
  let sets := dueSets s
  sets.foldl (fun s i =>
    let items := (getSet s i).items
    let s := (List.range 5).foldl (fun s k =>
      (items.filter fun x => itemRank x = k).foldl (fun s x => applyItem i start x s) s) s
    endSet i s) s

/-- Sets armed for beats whose start lies at or after the switch instant are cancelled (02 R47). -/
def cancelSets (at_ : Nat) (s : State) : State :=
  ([devSet] ++ List.range 16).foldl (fun s i => match (getSet s i).armed with
    | some (b, n) =>
      if at_ ≤ b * beatNs s then
        finishFlight n stBeatRenumbered (updSet i (fun c => { c with
          opened := false
          items := []
          armed := none }) s)
      else s
    | none => s) s

end Sys2Proof.Machine
end

