-- ==== Sys2Proof/Machine/OtherCmd.lean ====
section
/-! DEFINITION. Integrity, query and security commands (11 R314, R495): TEST_RUN, CHECK_STATUS, QUERY, ATTEST, key
domains. -/

namespace Sys2Proof.Machine

/-! ### Queue states and the queue register record (10 R261, R291, 13 R345) -/

/-- No command fetched, dispatched or owing a record, and nothing to fetch. -/
def queueIdle (s : State) (q : Nat) : Bool :=
  let w := getQueue s q
  w.fetched.isEmpty && (topFlights s q).isEmpty && w.prod == w.sqHead && w.shadowRing.isEmpty

/-- The room test fails for the head, or for the record of a command that failed (R277). -/
def cqFull (s : State) (q : Nat) : Bool :=
  (topFlights s q).any (fun f => !f.reserved && !roomFor s q (recordsOf f.slot)) ||
  match (getQueue s q).fetched with
  | c :: _ => !roomFor s q (recordsOf c.bytes)
  | [] => false

/-- The wait of a head is unmet. -/
def headUnmet (s : State) (q : Nat) : Bool := match (getQueue s q).fetched with
  | c :: _ => !waitMet s (actPart s q (hOpcode c.bytes) c.bytes) c.bytes
  | [] => false

/-- WAIT_FENCE: the head's wait was found unmet and is still unmet (R287, R291). -/
def inWaitFence (s : State) (q : Nat) : Bool := (getQueue s q).waitFence.isSome && headUnmet s q

/-- QCTX.CTRL.STATE: the highest condition of the table of R291. -/
def queueState (s : State) (q : Nat) : Nat :=
  let w := getQueue s q
  if w.life == .resetting then 9
  else if w.life == .disabled then 0
  else if w.frozen then 8
  else if w.halted then 6
  else if w.blocked then 7
  else if w.waitMap.isSome then 5
  else if inWaitFence s q then 4
  else if cqFull s q then 10
  else if w.parked then 3
  else if queueIdle s q then 1
  else 2

def cfgWord (w : Queue) : Nat :=
  w.sqSize + 16 * w.cqSize + 256 * b2n w.sqHost + 512 * b2n w.cqHost + 1024 * b2n w.netFed + 2048 * b2n w.onFail +
    4096 * w.depth + 2 ^ 21 * w.vector

def ctrlWord (s : State) (q : Nat) : Nat :=
  let w := getQueue s q
  b2n (w.life != .disabled) + 4 * b2n w.lc + 8 * b2n w.cfgErr + 256 * queueState s q + 65536 * w.gen

/-- A queue's register set, 128 bytes. -/
def queueBytes (s : State) (q : Nat) : List Byte :=
  let w := getQueue s q
  rec_ 128 [(0x00, 8, w.sq.toNat), (0x08, 8, w.cq.toNat), (0x10, 8, w.shadow.toNat), (0x18, 4, cfgWord w),
    (0x1C, 4, ctrlWord s q), (0x20, 4, w.prod), (0x24, 4, w.sqHead), (0x28, 4, w.cqTail), (0x2C, 4, w.cqHead),
    (0x30, 4, w.shadowRing.length), (0x38, 8, w.staleGen + 2 ^ 16 * w.clamped + 2 ^ 32 * w.parks + 2 ^ 48 * w.resumes),
    (0x40, 8, w.haltSeq + 2 ^ 32 * w.haltStatus)]

/-! ### QUERY (R495) -/

def qItem (r : Req) : Nat := num r.slot 64 1
def qIndex (r : Req) : Nat := num r.slot 66 2
def qDst (r : Req) : Nat := pAddr r.slot 72

/-- A record of the operator's fault queue by its number (log 42). -/
def operatorRecord (s : State) (i : Nat) : List Byte :=
  if s.mem.opFaultq.valid then slice (getVa s (ringCtx s.mem.opFaultq) (ringVa s.mem.opFaultq + 64 * (i % 4096)) 64) 0 64
  else zeros 64

/-- The record an item selects, or the status of a request outside the limits. -/
def queryRecord (s : State) (r : Req) : Verdict × List Byte :=
  let i := qIndex r
  let own (c : Bool) (st : Nat) : Verdict := need (r.operator || c) st
  match qItem r with
  | 0 => (.ok, identityBytes s)
  | 1 => (firstBad [own (tableOwner s i == r.part) stTableNotOwned, need (findTable s i).isSome stTableInvalid],
      match findTable s i with
      | some t => tableBytes i t
      | none => [])
  | 2 => (own false stNotOperator, extentBytes (smFind s.mem.extents i))
  | 3 => (firstBad [own (windowOwner s i == r.part) stWindowNotOwned], windowBytes i (smFind s.mem.windows i))
  | 4 => (own (queueOwner s i == r.part) stQueueNotOwned, queueBytes s i)
  | 5 => (firstBad [own (some i == r.part) stTargetNotOwned, need (findPart s i).isSome stTargetNotOwned],
      match findPart s i with
      | some w => partBytes s i w
      | none => [])
  | 6 => (.ok, attachBytes s.link.attach)
  | 7 => (own false stNotOperator, operatorRecord s i)
  | _ => (.bad stItemInvalid, [])

/-- What is written: at most DST_BYTES of the record. -/
def queryBytes (s : State) (r : Req) : List Byte := (queryRecord s r).2.take (num r.slot 80 4)

def ownQuery (s : State) (r : Req) : Verdict :=
  firstBad [(queryRecord s r).1, resultOk s r (qDst r) (queryBytes s r).length]

def startQuery (r : Req) (n : Nat) (s : State) : State :=
  let b := queryBytes s r
  resultTo (qDst r) b r n (updFlight n (fun f => { f with echo := b.length }) s)

def execQuery (queue : Nat) (s : State) : Res := .next (dispatch queue (isOp 0x704) oneUj ownQuery startQuery s)

/-! ### ATTEST (16 R445) -/

def atDevice (r : Req) : Bool := num r.slot 108 1 != 0

/-- The report, or nothing when DST_BYTES is below its size. -/
def attestBytes (s : State) (r : Req) : List Byte :=
  let size := if atDevice r then 768 else 256
  if num r.slot 104 4 < size then []
  else report s (if atDevice r then none else some (r.part.getD devPart)) (queueFunc s r.queue) (slice (r.slot.drop 64) 0 32)

def ownAttest (s : State) (r : Req) : Verdict :=
  let size := if atDevice r then 768 else 256
  if num r.slot 104 4 < size then .ok else resultOk s r (pAddr r.slot 96) size

def startAttest (r : Req) (n : Nat) (s : State) : State :=
  let b := attestBytes s r
  resultTo (pAddr r.slot 96) b r n (updFlight n (fun f => { f with echo := b.length }) s)

def execAttest (queue : Nat) (s : State) : Res := .next (dispatch queue (isOp 0x900) oneUj ownAttest startAttest s)

/-! ### Key domains (16 R441, R443) -/

def kdOf (r : Req) : Nat := num r.slot 64 2 % 1024

/-- A fresh pair from the DRBG. -/
def createDomain (k : Nat) (s : State) : State :=
  updSec (fun c => { c with
    keyDraws := c.keyDraws + 1
    keyDomains := smSet c.keyDomains k (c.keyDraws + 1) }) s

/-- Erasing a domain makes every granule written under its pair unrecoverable. -/
def eraseDomain (k : Nat) (s : State) : State := updSec (fun c => { c with keyDomains := smDel c.keyDomains k }) s

def execKeyDomainCreate (queue : Nat) (s : State) : Res :=
  .next (dispatch queue (isOp 0x901) oneUj
    (fun s r => need (smGet s.sec.keyDomains 0 (kdOf r) = 0) stKeyDomainExists)
    (startNow (fun r s => createDomain (kdOf r) s) noEcho) s)

def execKeyDomainErase (queue : Nat) (s : State) : Res :=
  .next (dispatch queue (isOp 0x902) oneUj
    (fun s r => firstBad [need (smGet s.sec.keyDomains 0 (kdOf r) != 0) stKeyDomainInvalid,
      need (!s.mem.extents.any fun e => e.2.keyDomain == kdOf r) stKeyDomainInUse])
    (startNow (fun r s => eraseDomain (kdOf r) s) noEcho) s)

/-! ### CHECK_STATUS (15 R422) -/

def csSeq (r : Req) : Nat := num r.slot 72 8

/-- The check as the partition may see it: its state, or its place in the retraction log. -/
def ownCheckStatus (s : State) (r : Req) : Verdict :=
  let c := csSeq r
  let owner : Option Nat := match smFind s.integ.checks c with
    | some k => some k.part
    | none => match s.integ.retracted.find? fun x => x.1 = c with
      | some x => some x.2
      | none => if c < s.integ.nextSeq && 1 ≤ c then r.part else none
  firstBad [need (owner.isSome && (r.operator || owner == r.part)) stTargetNotOwned, resultOk s r (pAddr r.slot 80) 32]

def cstateCode : CState → Nat
  | .pending => 0
  | .passed => 1
  | .corrected => 2
  | .failed => 3

/-- The 32-byte record and ECHO. -/
def checkRecord (s : State) (c : Nat) : List Byte × Nat :=
  match smFind s.integ.checks c with
  | some k =>
    (rec_ 32 [(0, 8, c), (8, 1, cstateCode k.st), (9, 1, k.reason), (10, 2, srcTile k.primary),
      (12, 2, match k.dup with | some t => srcTile t | none => 0xFFFF),
      (14, 2, match k.third with | some t => srcTile t | none => 0xFFFF), (16, 8, k.start),
      (24, 8, if k.st == .pending then 0 else k.resolved)],
     match k.st with
     | .pending => 0
     | .failed => 2
     | _ => 1)
  | none => (rec_ 32 [(0, 8, c), (8, 1, 4), (14, 2, 0xFFFF)], if s.integ.retracted.any fun x => x.1 = c then 2 else 1)

def startCheckStatus (r : Req) (n : Nat) (s : State) : State :=
  let x := checkRecord s (csSeq r)
  resultTo (pAddr r.slot 80) x.1 r n (updFlight n (fun f => { f with echo := x.2 }) s)

def execCheckStatus (queue : Nat) (s : State) : Res :=
  .next (dispatch queue (isOp 0x602) oneUj ownCheckStatus startCheckStatus s)

/-! ### TEST_RUN (15 R426, R427) -/

def trScope (r : Req) : Nat := min 4 (num r.slot 64 1)
def trExclusive (r : Req) : Bool := num r.slot 65 1 != 0
def trTarget (r : Req) : Nat := num r.slot 66 2

/-- The gang a TEST_RUN names by a bottom tile. A tile of row 3 is a bottom tile of a 4×4 and of a 2×2 gang: the 4×4 gang
is meant where the issuer owns it whole and no 2×2 kernel runs there (DESIGN CHOICE, log 43). -/
def testGang (s : State) (r : Req) : Nat :=
  let t := trTarget r
  let g4 := gangOf 2 t
  let two := (runAt s t).any fun u => (runTiles s u).length = 4
  if !g4.isEmpty && !two && g4.all (fun u => tileOwner s u == r.part) then 0x300 + t else 0x400 + t

/-- The units of a scope: tiles, channels from 0x100, ports from 0x200, gang slots from 0x300 (4×4) and 0x400 (2×2). -/
def testUnits (s : State) (r : Req) : List Nat :=
  let t := trTarget r
  match trScope r with
  | 0 => [t]
  | 1 => gangTiles (testGang s r) ++ [testGang s r]
  | 2 => [0x100 + t]
  | 3 => [0x200 + t]
  | _ => List.range 128 ++ (List.range 256).map (0x100 + ·) ++
      (if trExclusive r then (List.range 4).map (0x200 + ·) ++
        ((List.range 8).map fun i => 0x300 + i / 2 * 32 + 24 + i % 2 * 4) ++
        ((List.range 32).map fun i => 0x400 + i / 8 * 32 + 8 + i / 4 % 2 * 16 + i % 4 * 2) else [])

def ownTest (s : State) (r : Req) : Verdict :=
  let t := trTarget r
  let own (o : Option Nat) : Bool := o == r.part && r.part.isSome
  firstBad [
    match trScope r with
    | 0 => need (t < 128 && own (tileOwner s t)) stTargetNotOwned
    | 1 => need (t < 128 && !(gangTiles (testGang s r)).isEmpty && (gangTiles (testGang s r)).all fun u => own (tileOwner s u))
        stTargetNotOwned
    | 2 => need (t < 256 && own (stackPart s (t / 16))) stTargetNotOwned
    | 3 => firstBad [need (t < 4) stTargetNotOwned, need (!trExclusive r || r.operator) stNotOperator]
    | _ => .ok,
    resultOk s r (pAddr r.slot 72) 64]

/-- Local loopback takes a port's sub-ports down (R426). -/
def loopDown (p : Nat) (s : State) : State :=
  (List.range 4).foldl (fun s k => setLinkState (4 * p + k) false (getSub s (4 * p + k)).pcs s) s

def startTest (r : Req) (n : Nat) (s : State) : State :=
  let us := testUnits s r
  let s := if trExclusive r then
      (us.filter fun u => 0x200 ≤ u && u < 0x300).foldl (fun s u => loopDown (u - 0x200) s) s
    else s
  updFlight n (fun f => { f with
    echo := us.length
    work := .test us [] 0 0 }) s

def execTestRun (queue : Nat) (s : State) : Res := .next (dispatch queue (isOp 0x601) oneUj ownTest startTest s)

end Sys2Proof.Machine
end

