-- ==== Sys2Proof/Machine/Queues.lean ====
section
/-! DEFINITION. Queues (10_queues_and_fences): enable and reset, doorbells, slot fetches, fence timeouts and cycles,
deadlines (11 R297). Completion records are in Complete.lean. -/

namespace Sys2Proof.Machine

/-! ### Enabling, disabling and resetting (R262, R291, R293) -/

def sqSlots (w : Queue) : Nat := 2 ^ ringLog w.sqSize
def ringBase (v : U64) : Nat := v.toNat % 2 ^ 48 / 4096 * 4096
def shadowBase (w : Queue) : Nat := w.shadow.toNat % 2 ^ 48 / 8192 * 8192
def regCtx (v : U64) : Nat := v.toNat / 2 ^ 48

/-- The ring checks of R262; a queue of a sixteenth in no partition needs no shadow ring (log 17). -/
def ringsOk (s : State) (q : Nat) : Bool :=
  let w := getQueue s q
  let mapped (c va n : Nat) (rd wr : Bool) : Bool := (checkRange s c va n rd wr).isNone
  (w.sqHost || mapped (regCtx w.sq) (ringBase w.sq) (256 * sqSlots w) true false) &&
  (w.cqHost || mapped (regCtx w.cq) (ringBase w.cq) (32 * cqSlots w) false true) &&
  (if shadowBase w = 0 then !w.cqHost || (queueOwner s q).isNone
   else mapped (regCtx w.shadow) (shadowBase w) 8192 false true)

/-- ENABLE written 1: ignored unless DISABLED. -/
def enableQueue (q : Nat) (s : State) : State :=
  if (getQueue s q).life != .disabled then s
  else if ringsOk s q then updQueue q (fun w => { w with
      life := .enabled
      cfgErr := false
      prod := 0
      sqHead := 0
      cqTail := 0
      cqHead := 0
      shadowRing := [] }) s
  else updQueue q (fun w => { w with cfgErr := true }) s

/-- ENABLE written 0: ignored unless IDLE. -/
def disableQueue (q : Nat) (s : State) : State :=
  if queueState s q = 1 then updQueue q (fun w => { w with life := .disabled }) s else s

/-- RESET written. -/
def startQueueReset (q : Nat) (s : State) : State :=
  if (getQueue s q).life == .resetting then s else queueResetStart q s

/-- A host access to the queue at a function's local index. -/
def onQueue (func q : Nat) (act : Nat → State → State) (s : State) : State :=
  hostAccess (fun s => if barDead s func then s else match localQueue s func q with
    | some n => act n s
    | none => s) s

def execQueueEnable (func q : Nat) (s : State) : Res := .next (onQueue func q enableQueue s)
def execQueueDisable (func q : Nat) (s : State) : Res := .next (onQueue func q disableQueue s)
def execQueueReset (func q : Nat) (s : State) : Res := .next (onQueue func q startQueueReset s)

/-- A request that a channel accepted from a command of the queue. -/
def ofQueue (q : Nat) (r : ChanReq) : Bool := match r.who with
  | .command n _ => n == q
  | _ => false

/-- The drain of R293 step 3 has ended: no memory request, host request or message of the queue's commands is outstanding. -/
def queueDrained (s : State) (q : Nat) : Bool :=
  !(s.flights.any fun f => f.queue == q && (f.hosts != 0 || f.msgs != 0)) &&
  !s.mem.channels.any fun w => w.2.queue.any (ofQueue q)

def execQueueResetDone (queue : Nat) (s : State) : Res :=
  doWhen ((getQueue s queue).life == .resetting && queueDrained s queue) (queueResetEnd queue s) s

/-! ### Doorbells (R265 to R267, R274) -/

/-- A doorbell: ignored and counted with a wrong GEN or while DISABLED or RESETTING; an accepted one ends S1 (18 R466). -/
def doorbell (func q gen : Nat) (act : Nat → State → State) (s : State) : State :=
  onQueue func q (fun n s =>
    let w := getQueue s n
    if w.gen != gen || w.life != .enabled then updQueue n (fun w => { w with staleGen := satAdd 16 w.staleGen 1 }) s
    else act n (if s.power.state == .s1 then wake 1 s else s)) s

/-- PROD after a producer count, and whether the value was clamped. -/
def newProd (w : Queue) (v : Nat) : Nat × Bool :=
  let d := ahead v w.prod
  if d = 0 then (w.prod, false)
  else if d < 2 ^ 31 then
    let room := sqSlots w - ahead w.prod w.sqHead
    ((w.prod + min d room) % 2 ^ 32, room < d)
  else (w.prod, true)

/-- PROD rises to `p`: the slots it newly covers are covered from now on. -/
def raiseProd (p : Nat) (w : Queue) (t : Nat) : Queue :=
  if p = w.prod then w else { w with
    prod := p
    coveredAt := w.coveredAt ++ [(p, t)] }

def producer (v n : Nat) (s : State) : State :=
  if (getQueue s n).netFed then s
  else updQueue n (fun w =>
    let x := newProd w v
    { raiseProd x.1 w (now s) with
      clamped := if x.2 then satAdd 16 w.clamped 1 else w.clamped
      parked := false
      rereads := if w.parked then none else w.rereads }) s

def execSqDb (func q : Nat) (value : BitVec 64) (s : State) : Res :=
  .next (doorbell func q (bits value.toNat 47 32) (producer (value.toNat % 2 ^ 32)) s)

/-- CQ_HEAD takes the value, clamped to lie from CQ_HEAD to CQ_TAIL (as counts from the present CQ_HEAD). -/
def consumer (v n : Nat) (s : State) : State :=
  updQueue n (fun w =>
    let d := ahead v w.cqHead
    let most := ahead w.cqTail w.cqHead
    { w with cqHead := if d < 2 ^ 31 then (w.cqHead + min d most) % 2 ^ 32 else w.cqHead }) s

def execCqDb (func q : Nat) (value : BitVec 64) (s : State) : Res :=
  .next (doorbell func q (bits value.toNat 47 32) (consumer (value.toNat % 2 ^ 32)) s)

/-- REISSUE: the head in WAIT_MAP starts again from a fresh translation. -/
def execReissue (func q gen : Nat) (s : State) : Res :=
  .next (doorbell func q gen (updQueue · fun w => { w with reissue := w.waitMap.isSome }) s)

def execClearHalt (func q gen : Nat) (s : State) : Res :=
  .next (doorbell func q gen (updQueue · fun w => { w with halted := false }) s)

/-! ### Fetching (R269 to R271) -/

/-- The command processor works: booted and powered (18 R464, R470). -/
def cpOn (s : State) : Bool := s.power.ready && s.power.rails == .on && (s.power.state == .s0 || s.power.state == .s1)

/-- It fetches: not while S2 or S3 is being entered (18 R467). -/
def fetchOn (s : State) : Bool := cpOn s && !s.power.entering

/-- Fetching continues in ACTIVE, WAIT_FENCE and CQ_FULL, and in PARKED for the sweep (R292). -/
def fetchState (w : Queue) : Bool :=
  w.life == .enabled && !w.frozen && !w.halted && !w.blocked && w.waitMap.isNone

def mayFetch (s : State) (q : Nat) : Bool :=
  let w := getQueue s q
  fetchOn s && fetchState w && w.prod != w.sqHead && w.fetched.length < w.depth

/-- Slot SQ_HEAD of a device-memory ring, as its context reads it. -/
def slotAcc (s : State) (q : Nat) : Acc :=
  let w := getQueue s q
  readVa s (regCtx w.sq) (ringBase w.sq + 256 * (w.sqHead % sqSlots w)) 256

def slotSegs (s : State) (q : Nat) : List Seg :=
  let w := getQueue s q
  segments s (regCtx w.sq) (ringBase w.sq + 256 * (w.sqHead % sqSlots w)) 256

/-- Read the next slot, from host memory (`host` is what it answers) or from device memory coherently with host caches. -/
def readSlot (q : Nat) (host : List Byte) (act : List Byte → State → State) (s : State) : State :=
  let w := getQueue s q
  if w.sqHost then
    act (slice host 0 256) (updOut (fun o => { o with
      hostReads := o.hostReads ++ [(queueFunc s q, ringBase w.sq + 256 * (w.sqHead % sqSlots w), 256)] }) s)
  else afterSnoops false (slotSegs s q) (fun s =>
    let a := slotAcc s q
    act a.data (countErrors a s)) s

def slotValid (w : Queue) (b : List Byte) : Bool := hReady b = (w.sqHead + 1) % 2 ^ 32

/-- TSC at which PROD first covered slot SQ_HEAD. -/
def coveredTsc (w : Queue) (t : Nat) : Nat :=
  match w.coveredAt.find? fun x => 0 < ahead x.1 w.sqHead && ahead x.1 w.sqHead ≤ 65536 with
  | some x => x.2
  | none => t

/-- A valid slot is copied and SQ_HEAD counts. -/
def takeSlotCmd (b : List Byte) (t : Nat) (w : Queue) : Queue :=
  let n := (w.sqHead + 1) % 2 ^ 32
  { w with
    fetched := w.fetched ++ [{
      seq := hReady b, bytes := b, fetched := t, covered := coveredTsc w t, origin := smFind w.origins w.sqHead }]
    origins := smDel w.origins w.sqHead
    coveredAt := w.coveredAt.filter fun x => x.1 != n
    sqHead := n
    parked := false
    rereads := none }

def execSlotFetch (queue : Nat) (hostData : List Byte) (s : State) : Res :=
  let w := getQueue s queue
  doWhen (mayFetch s queue && !w.parked && w.rereads.isNone)
    (readSlot queue hostData (fun b s =>
      updQueue queue (fun w => if slotValid w b then takeSlotCmd b (now s) w else { w with rereads := some (0, now s) }) s) s) s

/-- A re-read, 250 ns after the last read; the eighth stale one parks the queue. -/
def execSlotReread (queue : Nat) (hostData : List Byte) (s : State) : Res :=
  .next (match (getQueue s queue).rereads with
    | none => s
    | some (k, t) =>
      if !mayFetch s queue then s
      else readSlot queue hostData (fun b s => updQueue queue (fun w =>
        if slotValid w b then takeSlotCmd b (now s) w
        else if k + 1 < 8 then { w with rereads := some (k + 1, now s) }
        else { w with
          rereads := none
          parked := true
          parks := satAdd 16 w.parks 1 }) s) (advance (t + 250) s))

/-- Next multiple of a period at or after now. -/
def nextMultiple (p : Nat) (s : State) : Nat := roundUp (now s) p

/-- The sweep reads the next slot of a PARKED queue; one that finds work ends S1 as the doorbell would have (log 44). -/
def sweepQueue (host : List (Nat × List Byte)) (q : Nat) (s : State) : State :=
  if !mayFetch s q || !(getQueue s q).parked then s
  else readSlot q ((host.find? fun x => x.1 = q).map (·.2) |>.getD []) (fun b s =>
    if slotValid (getQueue s q) b then
      updQueue q (fun w => { takeSlotCmd b (now s) w with resumes := satAdd 16 w.resumes 1 })
        (if s.power.state == .s1 then wake 1 s else s)
    else s) s

def execDoorbellSweep (hostData : List (Nat × List Byte)) (s : State) : Res :=
  .next (if !fetchOn s then s else
    let s := advance (nextMultiple 100000 s) s
    (smKeys s.queues).foldl (fun s q => sweepQueue hostData q s) s)

/-! ### Timeouts (R289, R290, 11 R297) -/

abbrev msNs : Nat := 1000000

/-- First millisecond check at or after an instant. -/
def checkAt (t : Nat) : Nat := roundUp t msNs

/-- The head fails with a status; its record waits for room (R277). -/
def failHeadNow (q st : Nat) (s : State) : State :=
  match (getQueue s q).fetched with
  | [] => s
  | c :: _ => failHead (headReq s q c) c false (.bad st) s

/-- A head in WAIT_MAP completes with UNMAPPED: its record was placed when the wait began, and the queue halts. -/
def failUnmapped (q : Nat) (s : State) : State :=
  match (getQueue s q).fetched with
  | [] => s
  | c :: _ =>
    let f := newFlight s (headReq s q c) c 0 (getQueue s q).lc false
    haltQueue q (hReady c.bytes) stUnmapped (addFlight { f with
      status := stUnmapped
      done := some (now s)
      deps := []
      prov := [] } (popHead q s))

/-- A dispatched command, or the node of a graph, fails while it runs. -/
def failWork (n st : Nat) (s : State) : State :=
  match findFlight s n with
  | none => s
  | some f => if f.node.isNone then abortFlight n st s else finishFlight n st (stopFlight n s)

/-- When the header wait of a queue's head runs out. -/
def headExpiry (w : Queue) : Option Nat := match w.waitFence, w.fetched with
  | some t, c :: _ => some (t + hTimeoutNs c.bytes)
  | _, _ => none

def mapExpiry (w : Queue) : Option Nat := match w.waitMap, w.fetched with
  | some t, c :: _ => some (t + hTimeoutNs c.bytes)
  | _, _ => none

/-- When a FENCE_WAIT command, or the FWAIT of a kernel, runs out. -/
def flightExpiry (s : State) (f : Flight) : Option Nat :=
  if f.done.isSome then none else
  match f.work with
  | .fences _ since => some (since + hTimeoutNs f.slot)
  | .kernel _ => s.tiles.foldl (fun m t => match t.2.run, t.2.stall with
      | some r, .fwait _ _ since =>
        if r.flight = f.num then (let x := since + hTimeoutNs f.slot
          match m with
          | some y => some (min x y)
          | none => some x) else m
      | _, _ => m) none
  | _ => none

def dueBy (t : Nat) (o : Option Nat) : Bool := match o with
  | some x => x ≤ t
  | none => false

/-- FWAITs and FENCE_WAITs whose fences have come to be met do not time out. -/
def fwaitMetAll (s : State) (f : Flight) : Bool := match f.work with
  | .fences l _ => fencesMet s l
  | .kernel _ => s.tiles.all fun t => match t.2.run, t.2.stall with
    | some r, .fwait fn v since => r.flight != f.num || v ≤ fenceVal s fn || now s < since + hTimeoutNs f.slot
    | _, _ => true
  | _ => true

/-- Timeouts that are due at the present check. -/
def timeoutHead (q : Nat) (s : State) : State :=
  let w := getQueue s q
  if dueBy (now s) (mapExpiry w) then failUnmapped q s
  else if dueBy (now s) (headExpiry w) && headUnmet s q then failHeadNow q stFenceTimeout s
  else s

def timeoutFlight (n : Nat) (s : State) : State := match findFlight s n with
  | some f => if dueBy (now s) (flightExpiry s f) && !fwaitMetAll s f then failWork n stFenceTimeout s else s
  | none => s

def timeouts (s : State) : State :=
  let s := (smKeys s.queues).foldl (fun s q => timeoutHead q s) s
  (s.flights.map (·.num)).foldl (fun s n => timeoutFlight n s) s

/-- FENCE_TIMEOUT of one command: the first check at or after its timeout. -/
def execFenceTimeout (queue seq : Nat) (s : State) : Res :=
  let w := getQueue s queue
  let head := match w.fetched with
    | c :: _ => hReady c.bytes = seq
    | [] => false
  .next (match (if head && headUnmet s queue then headExpiry w else none) with
    | some t => timeoutHead queue (advance (checkAt t) s)
    | none =>
      match s.flights.find? fun f => f.queue == queue && hReady f.slot == seq && (flightExpiry s f).isSome with
      | some f => match flightExpiry s f with
        | some t => timeoutFlight f.num (advance (checkAt t) s)
        | none => s
      | none => s)

def execWaitMapTimeout (queue : Nat) (s : State) : Res :=
  .next (match mapExpiry (getQueue s queue) with
    | some t => failUnmapped queue (advance (checkAt t) s)
    | none => s)

/-- The head's DEADLINE passes before its dispatch: DEADLINE_EXPIRED, without a fault record (11 R297). While time is
UNLOCKED 02 R44 governs it. -/
def execDeadlineExpiry (queue : Nat) (s : State) : Res :=
  let w := getQueue s queue
  .next (match w.fetched with
    | [] => s
    | c :: _ =>
      let adm := match w.ready with
        | some y => y.admitted
        | none => false
      if w.life != .enabled || hDeadline c.bytes = 0 || s.clock.lock == .unlocked || adm then s
      else failHeadNow queue stDeadlineExpired (advance (hDeadline c.bytes + 1) s))

/-! ### Fence cycles (R288) -/

/-- The command signals fence f with a value that can meet a wait for v; the entries of FENCE_SIGNAL count (log 40). -/
def signalsFor (f v : Nat) (b : List Byte) : Bool :=
  (hSignalEn b && hSignalFence b == f && (hSignalAdd b || v ≤ hSignalValue b)) ||
  (hOpcode b == 2 && (fenceEntries b).any fun e => e.1 == f && (e.2.2 || v ≤ e.2.1))

structure WaitNode where
  queue : Nat
  fence : Nat
  value : Nat
  since : Nat
  deriving DecidableEq, Repr

/-- Heads whose queues are in WAIT_FENCE. -/
def waitNodes (s : State) : List WaitNode :=
  s.queues.filterMap fun q => match q.2.waitFence, q.2.fetched with
    | some t, c :: _ => if headUnmet s q.1 then
        some { queue := q.1, fence := hWaitFence c.bytes, value := hWaitValue c.bytes, since := t } else none
    | _, _ => none

/-- A signal able to meet the wait from a dispatched command, or from a fetched one of a queue that is in none of
WAIT_FENCE, HALTED, RESETTING and DISABLED. -/
def liveSignal (s : State) (n : WaitNode) : Bool :=
  (s.flights.any fun f => f.done.isNone && f.status == 0 && signalsFor n.fence n.value f.slot) ||
  s.queues.any fun q => q.2.life == .enabled && !q.2.halted && !inWaitFence s q.1 &&
    q.2.fetched.any fun c => signalsFor n.fence n.value c.bytes

def waitEdge (s : State) (a b : WaitNode) : Bool :=
  (getQueue s b.queue).fetched.any fun c => signalsFor a.fence a.value c.bytes

/-- Nodes reached from a set in at most `fuel` further edges. -/
def reachNodes (s : State) (all : List WaitNode) : Nat → List WaitNode → List WaitNode
  | 0, l => l
  | fuel + 1, l => reachNodes s all fuel (all.filter fun b => l.contains b || l.any fun a => waitEdge s a b)

/-- The nodes on deadlocked cycles: cycles all of whose nodes have no live signal. -/
def deadlocked (s : State) : List WaitNode :=
  let ns := (waitNodes s).filter fun n => !liveSignal s n
  ns.filter fun n => (reachNodes s ns ns.length (ns.filter fun b => waitEdge s n b)).contains n

/-- The youngest waiter: greatest (TSC at which the wait began, queue number). -/
def youngest (l : List WaitNode) : Option WaitNode :=
  l.foldl (fun m n => match m with
    | none => some n
    | some x => if x.since < n.since || (x.since = n.since && x.queue < n.queue) then some n else some x) none

def breakCycles : Nat → State → State
  | 0, s => s
  | fuel + 1, s => match youngest (deadlocked s) with
    | none => s
    | some n => breakCycles fuel (failHeadNow n.queue stFenceCycle s)

def execFenceCheckTick (s : State) : Res :=
  .next (if !cpOn s then s else
    let s := timeouts (advance (nextMultiple msNs s) s)
    breakCycles (waitNodes s).length s)

end Sys2Proof.Machine
end

