-- ==== Sys2Proof/Machine/Complete.lean ====
section
/-! DEFINITION. Completion records (10 R275 to R284): COMMAND_COMPLETION and RESUME_COMPLETIONS. -/

namespace Sys2Proof.Machine

/-! ### What has come to hold -/

/-- FENCE_WAIT commands whose entries are met (11 R305). -/
def settleFences (s : State) : State :=
  ((s.flights.filter fun f => f.done.isNone && match f.work with
    | .fences l _ => fencesMet s l
    | _ => false).map (·.num)).foldl (fun s n => finishFlight n 0 s) s

/-- Commands that only waited for their messages. -/
def settleNet (s : State) : State :=
  ((s.flights.filter fun f => f.done.isNone && f.msgs == 0 && f.work == .net).map (·.num)).foldl
    (fun s n => finishFlight n 0 s) s

/-- Every wait of a dispatched command that may have ended is looked at. -/
def settle (s : State) : State :=
  settleNet (freeAllDrained (settleReplays (settleGathers (settleRearms (settleWindows (settleUnmaps (settleFences s)))))))

/-! ### The record (R275) -/

/-- A record but for SHADOW and PHASE. ENERGY_UJ is the measured energy (12 R326). -/
def cqRecord (s : State) (f : Flight) (check measured : Nat) (isFinal : Bool) : List Byte :=
  rec_ 32 [(0, 4, hReady f.slot), (4, 2, f.status),
    (6, 1, check + 4 * b2n (degraded s) + 16 * b2n isFinal + 32 * b2n f.echoBlock),
    (8, 8, f.start), (16, 8, f.done.getD 0), (24, 4, min measured 0xFFFFFFFF), (28, 3, f.echo)]

/-- PHASE of record number r (R276). -/
def phaseOf (w : Queue) : Nat := if w.cqTail / cqSlots w % 2 = 0 then 1 else 0

/-- A record as it stands in the completion ring. -/
def ringRecord (w : Queue) (shadow : Bool) (b : List Byte) : List Byte :=
  patch (patch b 6 [BitVec.ofNat 8 (num b 6 1 % 8 + 8 * b2n shadow + num b 6 1 / 16 * 16)]) 31 [BitVec.ofNat 8 (phaseOf w)]

def cqAddr (w : Queue) : Nat := ringBase w.cq + 32 * (w.cqTail % cqSlots w)

/-- Write a record to slot CQ_TAIL of the ring; CQ_TAIL counts, and the interrupt due follows. -/
def putRing (q : Nat) (shadow irq : Bool) (b : List Byte) (s : State) : State :=
  let w := getQueue s q
  let r := ringRecord w shadow b
  let s := if w.cqHost then updOut (fun o => { o with hostWrites := o.hostWrites ++ [(queueFunc s q, cqAddr w, r)] }) s
    else putVa (regCtx w.cq) (cqAddr w) r s
  let s := updQueue q (fun w => { w with cqTail := (w.cqTail + 1) % 2 ^ 32 }) s
  if irq then msix (queueFunc s q) w.vector s else s

/-- The records a rejected completion write places (R282). -/
def blockedRecords (q : Nat) (b : List Byte) (opcode : Nat) (s : State) : State :=
  let w := getQueue s q
  let r : FaultRec := {
    stamp := now s, source := srcHost, queue := some q, status := stCompletionBlocked, seq := num b 0 4, opcode
    atype := 2, write := true, address := cqAddr w }
  let s := match queueOwner s q with
    | some p => faultPut (some p) r s
    | none => s
  msix 0 s.mem.opFaultq.vector (faultPut none r s)

def pushShadow (q : Nat) (irq : Bool) (b : List Byte) (s : State) : State :=
  updQueue q (fun w => { w with shadowRing := w.shadowRing ++ [(b, irq)] }) s

/-- Records go to the shadow ring while it holds one, while the queue is frozen or blocked (R283, R285). -/
def toShadow (w : Queue) : Bool := w.frozen || w.blocked || !w.shadowRing.isEmpty

/-- Write a record; the host IOMMU may reject a host write (R282). -/
def writeRecord (q opcode : Nat) (rejected irq : Bool) (b : List Byte) (s : State) : State :=
  let w := getQueue s q
  if toShadow w then pushShadow q irq b s
  else if w.cqHost && rejected then
    updQueue q (fun w => { w with blocked := true }) (blockedRecords q b opcode (pushShadow q irq b s))
  else putRing q false irq b s

/-! ### COMMAND_COMPLETION (R278 to R280) -/

/-- The conditions of R280 hold. -/
def visMet (f : Flight) : Bool := match hVis f.slot with
  | 0 => f.hosts == 0 && f.msgs == 0
  | 1 => f.hosts == 0
  | 2 => true
  | _ => f.msgs == 0

/-- Every check and provisional message the results depend on has resolved (R278). -/
def checksDone (s : State) (f : Flight) : Bool :=
  f.retracted ||
  ((f.deps.all fun c => match smFind s.integ.checks c with
    | some k => k.st != .pending
    | none => true) &&
  !(s.integ.prov.any fun x => x.part == f.part && f.prov.contains (x.sender, x.tag)) &&
  !(s.integ.replays.any fun x => x.2.2.contains f.num))

/-- The SIGNAL fence is raised no later than the record write (R279). -/
def signalNow (f : Flight) (s : State) : State :=
  if f.status == 0 && !f.signalled then
    let s := updFlight f.num (fun f => { f with signalled := true }) s
    if hSignalEn f.slot then fenceRaise (hSignalAdd f.slot) (hSignalFence f.slot) (hSignalValue f.slot) s else s
  else s

/-- DEBT and ESTIMATE_LOW of a command that has ended, and its energy (12 R324, R335). -/
def settleEnergy (f : Flight) (measured : Nat) (s : State) : State :=
  let low := f.charge * 5 < measured * 4
  let s := updPart f.part (fun w => { w with
    debt := w.debt + (measured - f.charge)
    estLow := if low then satAdd 32 w.estLow 1 else w.estLow
    beat := { w.beat with energy := w.beat.energy + measured } }) s
  if low then emit srcCmd evEstimateLow f.part
    [(20, 2, f.queue), (24, 4, hReady f.slot), (28, 4, f.charge), (32, 4, measured)] s
  else s

/-- The response to a network client: the 32-byte record as a SEND that addresses no queue (14 R382). -/
def respond (f : Flight) (b : List Byte) (s : State) : State := match f.origin with
  | some (peer, tag, true) => sendMsg peer {
      type := tySend
      lc := f.lc
      part := some f.part
      context := f.context
      window := 0xFFFF
      spec := [(56, 4, tag)]
      payload := b } s
  | _ => s

/-- The final record and the end of the command. -/
def finalRecord (f : Flight) (measured : Nat) (rejected : Bool) (s : State) : State :=
  let b := cqRecord s f (if f.retracted then 2 else 0) (if f.reserved then measured else 0) true
  let shown := ringRecord (getQueue s f.queue) false b
  let s := if f.retracted && haltsQueue s f f.status then haltQueue f.queue (hReady f.slot) f.status s else s
  let s := writeRecord f.queue f.opcode rejected (hIrq f.slot || f.status != 0) b s
  let s := if f.reserved then settleEnergy f measured s else s
  let s := monSample 0 f.queue (f.done.getD 0 - f.covered) s
  (flightFamily s f.num).foldl (fun s n => dropFlight n s) (respond f shown s)

/-- The first record of an EARLY command. -/
def firstRecord (f : Flight) (measured : Nat) (rejected : Bool) (s : State) : State :=
  updFlight f.num (fun x => { x with early := true })
    (writeRecord f.queue f.opcode rejected (hIrq f.slot || f.status != 0) (cqRecord s f 1 (if f.reserved then measured else 0) false) s)

/-- Room for the records of a command that never ran; those of a dispatched one are already counted (R277). -/
def hasRoom (s : State) (f : Flight) : Bool :=
  f.reserved || roomFor s f.queue (recordsOf f.slot - b2n f.early)

/-- The back-invalidates the write of the record needs (13 R352). -/
def recordSegs (s : State) (q : Nat) : List Seg :=
  let w := getQueue s q
  if w.cqHost || toShadow w then [] else segments s (regCtx w.cq) (cqAddr w) 32

def completeFlight (n measured : Nat) (rejected : Bool) (s : State) : State := match findFlight s n with
  | none => s
  | some f =>
    if f.node.isSome || f.done.isNone || (getQueue s f.queue).life != .enabled || !visMet f || storesHeld s n || !hasRoom s f then s
    else if hEarly f.slot && !f.early then
      afterSnoops true (recordSegs s f.queue) (fun s => firstRecord f measured rejected (signalNow f s)) s
    else if !checksDone s f then s
    else afterSnoops true (recordSegs s f.queue) (fun s => finalRecord f measured rejected (signalNow f s)) s

def execCommandCompletion (flight measuredUj : Nat) (rejected : Bool) (s : State) : Res :=
  .next (completeFlight flight measuredUj rejected (settle s))

/-! ### RESUME_COMPLETIONS (R284) -/

/-- Replay the shadow records oldest first, up to the write that is rejected. -/
def replayShadow (q : Nat) : List (List Byte × Bool) → Option Nat → State → State
  | [], _, s => updQueue q (fun w => { w with
      blocked := false
      frozen := false }) s
  | r :: rs, rej, s =>
    if rej = some 0 && (getQueue s q).cqHost then
      blockedRecords q r.1 0 (updQueue q (fun w => { w with blocked := true }) s)
    else
      replayShadow q rs (rej.map (· - 1))
        (updQueue q (fun w => { w with shadowRing := w.shadowRing.drop 1 }) (putRing q true r.2 r.1 s))

/-- The back-invalidates the writes of the shadow records to a device-memory ring need (13 R352). -/
def replaySegs (s : State) (q : Nat) : List Seg :=
  let w := getQueue s q
  if w.cqHost then [] else (List.range w.shadowRing.length).flatMap fun k =>
    segments s (regCtx w.cq) (ringBase w.cq + 32 * ((w.cqTail + k) % cqSlots w)) 32

def execResumeCompletions (func q gen : Nat) (rejectAt : Option Nat) (s : State) : Res :=
  .next (doorbell func q gen (fun n s =>
    afterSnoops true (replaySegs s n) (fun s => replayShadow n (getQueue s n).shadowRing rejectAt s) s) s)

end Sys2Proof.Machine
end

