-- ==== Sys2Proof/Machine/NetTx.lean ====
section
/-! DEFINITION. The sending side of the Flochasel transport and the ports (14_network): transmission, retransmission,
acknowledgement of what was sent, congestion control, ARP, neighbour discovery and PFC. -/

namespace Sys2Proof.Machine

/-! ### Ports and sub-ports (R366, R369, R370) -/

def subsOfMode (mode : Nat) : Nat := if mode = 0 then 1 else if mode = 1 then 2 else 4

/-- A sub-port that exists in its port's MODE and is enabled. -/
def subEnabled (s : State) (k : Nat) : Bool :=
  let p := getPort s (k / 4)
  k < 16 && k % 4 < subsOfMode p.mode && bit p.subEn (k % 4)

/-- The ports work: booted, powered, in S0 or S1 (18 R464). -/
def portsOn (s : State) : Bool := cpOn s

def subUp (s : State) (k : Nat) : Bool := portsOn s && subEnabled s k && (getSub s k).linkUp

/-- Line rate of a sub-port in 0.1 Gb/s. -/
def lineRate (s : State) (k : Nat) : Nat := let m := (getPort s (k / 4)).mode
  if m = 0 then 16000 else if m = 1 then 8000 else 4000

/-- Wire bytes of a packet with a payload of n bytes (R371, R372). -/
def wireBytes (s : State) (k n : Nat) : Nat :=
  n + 96 + (if subIpv4 s k then 20 else 40) + 38 + (if bits (getSub s k).mac.toNat 59 48 = 0 then 0 else 4)

/-- Transmission classes in service order: control, latency-critical, best-effort (R391). -/
def msgClass (m : TxMsg) : Nat := if ctlType m.type then 0 else if m.lc then 1 else 2

/-- PCP of a class, from the port's QOS register. -/
def classPcp (p : Port) (c : Nat) : Nat :=
  if c = 0 then bits p.qos.toNat 26 24 else if c = 1 then bits p.qos.toNat 20 18 else bits p.qos.toNat 23 21

/-- DSCP of a class, from the port's QOS register. -/
def classDscp (p : Port) (c : Nat) : Nat :=
  if c = 0 then bits p.qos.toNat 17 12 else if c = 1 then bits p.qos.toNat 5 0 else bits p.qos.toNat 11 6

/-! ### Rationals of the congestion control (R390) -/

def qNorm (x : Nat × Nat) : Nat × Nat := let g := max 1 (Nat.gcd x.1 x.2); (x.1 / g, x.2 / g)
def qMul (x y : Nat × Nat) : Nat × Nat := qNorm (x.1 * y.1, x.2 * y.2)
def qAdd (x y : Nat × Nat) : Nat × Nat := qNorm (x.1 * y.2 + y.1 * x.2, x.2 * y.2)
/-- 1 − x, for x at most 1. -/
def qCompl (x : Nat × Nat) : Nat × Nat := (x.2 - x.1, x.2)
def qHalf (x : Nat × Nat) : Nat × Nat := qNorm (x.1, 2 * x.2)
def qLe (x y : Nat × Nat) : Bool := x.1 * y.2 ≤ y.1 * x.2
def qMax (x y : Nat × Nat) : Nat × Nat := if qLe x y then y else x
def qMin (x y : Nat × Nat) : Nat × Nat := if qLe x y then x else y

def flowRate (s : State) (f : Flow) : Nat × Nat := f.rate.getD (lineRate s f.port, 1)

/-- Time in ns a packet of n wire bytes takes at a flow's rate. -/
def paceNs (s : State) (f : Flow) (n : Nat) : Nat := let r := flowRate s f; ceilDiv (80 * n * r.2) (max 1 r.1)

/-! ### Forming packets (R372, R373, R377) -/

/-- Offset and length of a segment of a message. -/
def segPart (m : TxMsg) (i : Nat) : Nat × Nat :=
  let n := m.payload.length
  let o := min n (i * m.size)
  (o, min m.size (n - o))

/-- The payload of a segment: it is never copied, but read again from its source at every transmission (R388). -/
def segData (s : State) (m : TxMsg) (i : Nat) : List Byte :=
  let x := segPart m i
  let kept := slice m.payload x.1 x.2
  match m.mem with
  | none => kept
  | some (c, va) => let a := readVa s c (va + x.1) x.2; if a.data.length = x.2 then a.data else kept

/-- IP address and UDP port a peer's packets go to: a member's address for the port in the configuration held, or in the
record this device joins with; a client's last authenticated source (R378). -/
def peerAddr (s : State) (sub peer : Nat) (f : Flow) : Nat × Nat :=
  if groupPeer peer then
    let c := match s.net.group.joining with
      | some (_, c, _) => c
      | none => s.net.group.config
    match cfgEntry c peer with
    | some e => (num e (16 + 16 * (sub / 4)) (if bit (num e 2 1) 0 then 4 else 16), s.net.udpPort)
    | none => (0, s.net.udpPort)
  else f.addr.getD (0, s.net.udpPort)

/-- UDP source port of a flow: 49,152 + (CRC-32C of the two peer numbers mod 16,384) (R371; log 80). -/
def udpSource (s : State) (peer : Nat) : Nat := 49152 + crc32c (le 2 (srcPeer s) ++ le 2 peer) % 16384

/-- A packet with its outer fields. -/
def outPacket (s : State) (sub peer : Nat) (f : Flow) (m : TxMsg) (h data : List Byte) : OutPacket :=
  let w := getSub s sub
  let p := getPort s (sub / 4)
  let a := peerAddr s sub peer f
  { sub, peer
    srcMac := w.mac.toNat % 2 ^ 48
    dstMac := w.gw.toNat % 2 ^ 48
    vlan := bits w.mac.toNat 59 48
    pcp := classPcp p (msgClass m)
    dscp := classDscp p (msgClass m)
    ecn := 2
    ipv4 := subIpv4 s sub
    df := subIpv4 s sub
    srcIp := if subIpv4 s sub then w.ip.toNat % 2 ^ 32 else w.ip.toNat
    dstIp := a.1
    srcUdp := udpSource s peer
    dstUdp := a.2
    nonce := (match f.tx with | some k => k.salt | none => []) ++ le 8 f.txCtr
    header := h
    payload := data }

/-- Put one packet of a message on the wire: its header, a fresh nonce counter. -/
def sendPkt (peer psn seg : Nat) (again syn : Bool) (m : TxMsg) (s : State) : State := match findFlow s peer with
  | none => s
  | some f =>
    let rel := reliable m.type
    let x := segPart m seg
    let sub := m.port.getD f.port
    let fl := num m.header 2 1 + 2 * b2n (degraded s) + 8 * b2n syn +
      16 * b2n (seg + 1 == m.segs) + 32 * b2n again
    let h := m.header
    let h := patch h 2 (le 1 fl ++ le 1 f.txPhase)
    let h := patch h 16 (le 8 m.formed ++ le 8 f.txCtr ++ le 4 (if rel then psn else 0))
    let h := patch h 52 (le 4 (num h 52 4 % 2 ^ 21 + 2 ^ 21 * seg))
    let s := updOut (fun o => { o with packets := o.packets ++ [outPacket s sub peer f m h (segData s m seg)] }) s
    let s := match m.part with
      | some p => meterNet p x.2 s
      | none => s
    updFlow peer (fun f => { f with
      txCtr := f.txCtr + 1
      active := true
      nextAt := max f.nextAt (now s) + paceNs s f (wireBytes s sub x.2)
      provTag := if groupPeer peer && bit (num m.header 40 8) 63 then
          some (max (f.provTag.getD 0) (num m.header 40 8 % 2 ^ 63)) else f.provTag }) s

def rtoNs (s : State) : Nat := s.net.rtoUs * 1000

/-- Send the next segment of a message: a reliable packet takes the flow's next PSN and a timer; the others leave the flow. -/
def sendNext (peer : Nat) (m : TxMsg) (s : State) : State := match findFlow s peer with
  | none => s
  | some f =>
    let psn := f.nextPsn
    let syn := f.syn && reliable m.type
    let s := sendPkt peer psn m.sent false syn m s
    if reliable m.type then
      updFlow peer (fun f => { f with
        nextPsn := (psn + 1) % 2 ^ 32
        syn := false
        pkts := f.pkts ++
          [{ psn, mseq := m.mseq, seg := m.sent, sent := now s, tries := 0, due := now s + rtoNs s, fast := false, syn }]
        txMsgs := f.txMsgs.map fun x => if x == m then { x with sent := x.sent + 1 } else x }) s
    else updFlow peer (fun f => { f with txMsgs := f.txMsgs.erase m }) s

/-! ### PACKET_TRANSMIT (R391) -/

/-- The next message of a class that a flow has for a sub-port. -/
def nextMsg (k cls : Nat) (f : Flow) : Option TxMsg :=
  f.txMsgs.find? fun m => msgClass m = cls && m.sent < m.segs && m.resendAt.isNone && m.port.getD f.port = k

/-- Outstanding-message entries of a port that a partition's messages hold (R388). -/
def entriesHeld (s : State) (part port : Nat) : Nat :=
  s.net.flows.foldl (fun n f => n + (f.2.txMsgs.filter fun m => m.part == some part && m.port.getD f.2.port / 4 == port &&
    reliable m.type && m.sent != 0 && (m.sent < m.segs || f.2.pkts.any fun q => q.mseq = m.mseq)).length) 0

/-- A message that begins finds a free entry: 4,096 of each port for each sixteenth, never lent (R388). -/
def entryFree (s : State) (k part : Nat) : Bool := match findPart s part with
  | some w => entriesHeld s part (k / 4) < 4096 * w.sixteenths
  | none => true

/-- Pacing, the partition's regulator, its message entries and PFC allow the packet. -/
def mayTransmit (s : State) (k cls peer : Nat) (f : Flow) (m : TxMsg) : Bool :=
  let p := getPort s (k / 4)
  reachable s peer && f.nextAt ≤ now s && !(p.pfcEn && p.paused.contains (classPcp p cls)) &&
  match m.part with
  | some q => regOpen s q 3 (segPart m m.sent).2 && (m.sent != 0 || !reliable m.type || entryFree s k q)
  | none => true

/-- The flow a class serves next: the first allowed one after the last peer served, round-robin. -/
def pickFlow (s : State) (k cls : Nat) : Option (Nat × TxMsg) :=
  let l := s.net.flows.filterMap fun x => match nextMsg k cls x.2 with
    | some m => if mayTransmit s k cls x.1 x.2 m then some (x.1, m) else none
    | none => none
  match smFind (getSub s k).rr cls with
  | none => l.head?
  | some last => match l.find? fun x => last < x.1 with
    | some x => some x
    | none => l.head?

def transmit (k cls : Nat) (x : Nat × TxMsg) (s : State) : State :=
  sendNext x.1 x.2 (updSub k (fun w => { w with rr := smSet w.rr cls x.1 }) s)

def execPacketTransmit (sub : Nat) (s : State) : Res :=
  .next (if !subUp s sub then s else
    match pickFlow s sub 0 with
    | some x => transmit sub 0 x s
    | none => match pickFlow s sub 1 with
      | some x => transmit sub 1 x s
      | none => match pickFlow s sub 2 with
        | some x => transmit sub 2 x s
        | none => s)

/-! ### What becomes of a message (R387, R389) -/

/-- A message of a command is over: the command goes on. -/
def msgOver (n : Nat) (s : State) : State :=
  let s := trySignal n (touchDone n (updFlight n (fun f => { f with msgs := f.msgs - 1 }) s))
  match findFlight s n with
  | none => s
  | some f =>
    if f.msgs = 0 && f.work == .net && f.done.isNone then finishFlight n f.status s
    else match f.work with
      | .gather _ => settleGather n s
      | _ => s

/-- A peer's answer to a BEAT_SYNC (R398). -/
def syncOver (peer mseq : Nat) (bad : Bool) (s : State) : State :=
  let ns := (s.net.group.syncs.filter fun x => x.2.1.contains (peer, mseq)).map (·.1)
  let s := updGroup (fun g => { g with
    syncs := g.syncs.map fun x =>
      if x.2.1.contains (peer, mseq) then (x.1, x.2.1.filter (· != (peer, mseq)), x.2.2 || bad) else x }) s
  ns.foldl (fun s n => match findFlight s n with
    | some f => if f.work == .net then settleSync n s else s
    | none => s) s

/-- The command of a GROUP_JOIN that waits for the owner ends with a status. -/
def joinFail (st : Nat) (s : State) : State := match s.net.group.joining with
  | some (n, _, _) => finishFlight n st (updGroup (fun g => { g with
      joining := none
      gstate := 0 }) s)
  | none => s

/-- A message that was acknowledged whole. A read request stays until its response. -/
def msgAcked (peer : Nat) (m : TxMsg) (s : State) : State :=
  if m.type = tyReadReq then s
  else
    let s := updFlow peer (fun f => { f with txMsgs := f.txMsgs.erase m }) s
    if m.type = tyBeatSync then syncOver peer m.mseq false s
    else match m.flight with
      | some n => msgOver n s
      | none => s

/-- A message that failed with a status: the reason of a NACK and what it names. -/
def msgFailed (peer : Nat) (m : TxMsg) (st reason detail : Nat) (s : State) : State :=
  let s := updFlow peer (fun f => { f with
    txMsgs := f.txMsgs.filter fun x => !(x.mseq = m.mseq && reliable x.type)
    pkts := f.pkts.filter fun q => q.mseq != m.mseq }) s
  if m.type = tyBeatSync then syncOver peer m.mseq true s
  else if m.type = tyGroup && num m.header 56 1 = 0 then joinFail st s
  else match m.flight with
    -- a peer that did not take a gather's message answers nothing (06 R174)
    | some n => msgOver n (updGather n (fun g => { g with awaits := g.awaits.filter fun a => a.1 != peer }) <| updFlight n (fun f => { f with
        status := if f.status = 0 then st else f.status
        netReason := if f.status = 0 then reason else f.netReason
        record := if f.status = 0 then some detail else f.record }) s)
    | none => s

/-- Give up a flow: every outstanding message fails, the next packet carries SYN and a PSN 2³⁰ further on. -/
def giveUp (peer psn : Nat) (s : State) : State := match findFlow s peer with
  | none => s
  | some f =>
    let s := emit (srcPort f.port) evFlowGiveUp (f.owner.getD devPart) [(20, 2, peer), (24, 4, psn)] s
    let ms := f.txMsgs.filter fun m => reliable m.type
    let s := updFlow peer (fun f => { f with
      pkts := []
      syn := true
      nextPsn := (f.nextPsn + 2 ^ 30) % 2 ^ 32 }) s
    ms.foldl (fun s m => msgFailed peer m stNetUnreachable 0 0 s) s

/-- Send an outstanding packet again; a time-out sets RETRANSMIT, a fast resend does not (R388; log 81). -/
def resend (again : Bool) (peer : Nat) (q : TxPkt) (s : State) : State := match findFlow s peer with
  | none => s
  | some f => match f.txMsgs.find? fun m => reliable m.type && m.mseq = q.mseq with
    | some m => sendPkt peer q.psn q.seg again q.syn m s
    | none => s

/-- RTO_EXPIRY: the packet goes again with its backoff, or the flow is given up (R388). -/
def execRtoExpiry (peer psn : Nat) (s : State) : Res :=
  .next (match findFlow s peer with
    | none => s
    | some f => match f.pkts.find? fun q => q.psn = psn with
      | none => s
      | some q =>
        let s := advance q.due s
        if s.net.retryMax ≤ q.tries then giveUp peer psn s
        else
          let t := q.tries + 1
          updFlow peer (fun f => { f with
            pkts := f.pkts.map fun x => if x.psn = psn then { x with
              tries := t
              due := now s + rtoNs s * min (2 ^ t) 8 } else x }) (resend true peer q s))

/-! ### Acknowledgements sent (R386) -/

/-- Bit i of SACK: PSN CUM_PSN + 1 + i has been written. -/
def sackOf (f : Flow) : Nat :=
  (List.range 64).foldl (fun m i => if f.got.contains ((f.cum + 1 + i) % 2 ^ 32) then m + 2 ^ i else m) 0

/-- Form an ACK of the flow. -/
def sendAck (peer : Nat) (s : State) : State := match findFlow s peer with
  | none => s
  | some f =>
    let s := sendMsg peer {
      type := tyAck
      ceEcho := f.ce
      spec := [(56, 4, f.cum), (60, 4, min (now s - f.newest) (2 ^ 32 - 1)), (64, 8, sackOf f)] } s
    updFlow peer (fun f => { f with
      ackDue := none
      ce := false }) s

def execAckTimer (peer : Nat) (s : State) : Res :=
  .next (match findFlow s peer with
    | some f => match f.ackDue with
      | some (_, due) => sendAck peer (advance due s)
      | none => s
    | none => s)

/-- NACK a message, with the detail of R387. -/
def sendNack (peer mseq reason detail : Nat) (s : State) : State :=
  sendMsg peer {
    type := tyNack
    spec := [(56, 4, mseq), (60, 1, reason), (64, 8, detail)] } s

/-! ### CC_TICK (R390) -/

/-- A flow's alpha, rate, target and stage at the end of a 10 µs period in which it has sent. -/
def ccTickFlow (s : State) (f : Flow) : Flow :=
  if !f.active then f else
  let line : Nat × Nat := (lineRate s f.port, 1)
  let low : Nat × Nat := (s.net.rateMin, 1)
  let g : Nat × Nat := (1, 2 ^ s.net.gshift)
  let rate := flowRate s f
  let high := s.net.tHighUs * 1000
  let decay := qMul f.alpha (qCompl g)
  let clear (f : Flow) : Flow := { f with
    active := false
    ceEcho := false
    minRtt := none }
  if f.ceEcho then
    let a := qAdd decay g
    let r := qMax low (qMul rate (qCompl (qHalf a)))
    clear { f with
      alpha := a
      rate := some r
      target := some r
      stage := 0 }
  else if high < f.minRtt.getD 0 then
    let x := f.minRtt.getD 1
    let r := qMax low (qMul rate (x + high, 2 * x))
    clear { f with
      rate := some r
      target := some r
      stage := 0 }
  else
    let t := if 5 ≤ f.stage then qAdd (f.target.getD line) (s.net.ai, 1) else f.target.getD line
    clear { f with
      alpha := decay
      rate := some (qMin line (qHalf (qAdd rate t)))
      target := some t
      stage := f.stage + 1 }

def execCcTick (s : State) : Res :=
  .next (if !portsOn s then s else
    let s := advance (nextMultiple 10000 s) s
    updNet (fun n => { n with flows := smMap n.flows fun _ f => ccTickFlow s f }) s)

/-! ### Acknowledgements received (R386, R387) -/

/-- A packet is acknowledged by CUM_PSN and SACK. -/
def ackedBy (cum sack psn : Nat) : Bool :=
  (0 < ahead cum psn && ahead cum psn < 2 ^ 31) || (psn != cum && ahead psn cum ≤ 64 && bit sack (ahead psn cum - 1))

/-- Take an ACK: retire packets and messages, sample the RTT, send again what three later packets passed. -/
def takeAck (peer : Nat) (h : List Byte) (s : State) : State := match findFlow s peer with
  | none => s
  | some f =>
    let cum := num h 56 4
    let sack := num h 64 8
    let acked := f.pkts.filter fun q => ackedBy cum sack q.psn
    let left := f.pkts.filter fun q => !ackedBy cum sack q.psn
    -- sequence order counted from the oldest PSN of the flow that is outstanding
    let base := f.nextPsn + 2 ^ 31
    let ord (psn : Nat) : Nat := ahead psn base
    let newest := acked.foldl (fun m q => match m with
      | none => some q
      | some (x : TxPkt) => if ord x.psn < ord q.psn then some q else some x) (none : Option TxPkt)
    let rtt := newest.map fun q => now s - q.sent - num h 60 4
    let high := newest.map fun q => ord q.psn
    let fast := left.filter fun q => !q.fast && match high with
      | some x => ord q.psn + 3 ≤ x
      | none => false
    let s := updFlow peer (fun f => { f with
      pkts := left.map fun q => if fast.contains q then { q with fast := true } else q
      ceEcho := f.ceEcho || bit (num h 2 1) 2
      minRtt := match rtt, f.minRtt with
        | some x, some y => some (min x y)
        | some x, none => some x
        | none, y => y }) s
    let s := fast.foldl (fun s q => resend false peer q s) s
    let ms := f.txMsgs.filter fun m => reliable m.type && m.sent = m.segs && (acked.any fun q => q.mseq = m.mseq) &&
      !(left.any fun q => q.mseq = m.mseq)
    ms.foldl (fun s m => msgAcked peer m s) s

/-- The status a NACK gives the sender's command (R387). -/
def nackStatus (s : State) (m : TxMsg) (reason : Nat) : Nat :=
  let gather := match m.flight.bind (findFlight s) with
    | some f => f.opcode == 0x305
    | none => false
  if reason = nkVersion then (if gather || m.type = tyBeatSync then stVersionUnavailable else stNetNack)
  else if reason = nkCollectFull then stUpdateCollectFull
  else if reason = nkUpdatesDisabled then stUpdatesDisabled
  else if reason = nkLate then stVersionUnavailable
  else stNetNack

/-- The entries of a refused message count in REJECTED of their table (R387). -/
def countRejected (m : TxMsg) (s : State) : State :=
  let base := match m.part.bind (findPart s) with
    | some p => 256 * p.first
    | none => 0
  if num m.payload 0 1 = gwEntries then addParam (base + num m.payload 69 2 % 4096) 104 1 s
  else if num m.payload 0 1 = gwGradients then addParam (base + num m.payload 32 2) 104 1 s
  else s

/-- Count a NACK CONFIG and report the peer to the owner (R397, R400). -/
def configNack (peer epoch digest : Nat) (s : State) : State :=
  let s := updGroup (fun g => { g with configNacks := (g.configNacks + 1) % 2 ^ 64 }) s
  if s.net.group.config.isEmpty then s else sendMismatch peer epoch digest s

/-- Take a NACK of one message. -/
def takeNack (peer : Nat) (h : List Byte) (s : State) : State := match findFlow s peer with
  | none => s
  | some f =>
    let reason := num h 60 1
    let s := if reason = nkConfig then configNack peer (num h 8 4) (num h 12 4) s else s
    match f.txMsgs.find? fun m => reliable m.type && m.mseq = num h 56 4 with
    | none => s
    | some m =>
      if reason = nkQueueFull then s
      else if reason = nkConfig then
        let first := m.nackCfg.getD s.beat.edges
        if first + 2 ≤ s.beat.edges && m.nackCfg.isSome then msgFailed peer m stNetConfigMismatch reason 0 s
        else updFlow peer (fun f => { f with
          pkts := f.pkts.filter fun q => q.mseq != m.mseq
          txMsgs := f.txMsgs.map fun x => if x == m then
            { x with
              sent := x.segs
              nackCfg := some first
              resendAt := some (now s + rtoNs s) } else x }) s
      else
        let s := if reason = nkCollectFull then countRejected m s else s
        msgFailed peer m (nackStatus s m reason) reason (num h 64 8) s

/-- CONFIG_NACK_RESEND: the message goes again as a new message of the flow, or fails after 2 beats (R387; log 47). -/
def execConfigNackResend (peer mseq : Nat) (s : State) : Res :=
  .next (match findFlow s peer with
    | none => s
    | some f => match f.txMsgs.find? fun m => m.mseq = mseq && m.resendAt.isSome with
      | none => s
      | some m =>
        let s := advance (m.resendAt.getD 0) s
        if m.nackCfg.getD s.beat.edges + 2 ≤ s.beat.edges then msgFailed peer m stNetConfigMismatch nkConfig 0 s
        else
          let q := f.nextMsg
          let g := s.net.group
          let h := patch (patch m.header 4 (le 2 (srcPeer s) ++ le 2 (dstPeer s peer) ++ le 4 g.epoch ++ le 4 g.digest)) 36 (le 4 q)
          let s := updGroup (fun g => { g with
            syncs := g.syncs.map fun x => (x.1, x.2.1.map (fun y => if y = (peer, mseq) then (peer, q) else y), x.2.2) }) s
          updFlow peer (fun f => { f with
            nextMsg := (q + 1) % 2 ^ 32
            txMsgs := f.txMsgs.filter (fun x => !(x == m)) ++ [{ m with
              mseq := q
              header := h
              sent := 0
              resendAt := none }] }) s)

/-! ### Frames other than Flochasel (R365, R369, R370) -/

def putFrame (sub kind : Nat) (data : List Byte) (s : State) : State :=
  updOut (fun o => { o with frames := o.frames ++ [(sub, kind, data)] }) s

/-- An ARP request for the sub-port's own IPv4 address is answered with its MAC. -/
def execArpRequest (sub target : Nat) (s : State) : Res :=
  let w := getSub s sub
  doWhen (subUp s sub && subIpv4 s sub && target == w.ip.toNat % 2 ^ 32)
    (putFrame sub 1 (le 6 (w.mac.toNat % 2 ^ 48) ++ le 4 target) s) s

/-- A neighbour solicitation for its own IPv6 address likewise. -/
def execNeighbourSolicitation (sub target : Nat) (s : State) : Res :=
  let w := getSub s sub
  doWhen (subUp s sub && !subIpv4 s sub && target == w.ip.toNat)
    (putFrame sub 2 (le 6 (w.mac.toNat % 2 ^ 48) ++ le 16 target) s) s

/-- Received PFC pauses the priorities of PFC_MASK that it names. -/
def execPfcFrame (port paused : Nat) (s : State) : Res :=
  doWhen (port < 4 && portsOn s && (getPort s port).pfcEn)
    (updPort port (fun p => { p with paused := (List.range 8).filter fun i => bit paused i && bit p.pfcMask i }) s) s

/-- An exclusive TEST_RUN keeps the port in local loopback, its sub-ports down (15 R426). -/
def loopback (s : State) (port : Nat) : Bool := s.flights.any fun f => f.done.isNone && num f.slot 65 1 != 0 &&
  match f.work with
  | .test left _ _ _ => left.contains (0x200 + port)
  | _ => false

/-- A sub-port's link or PCS lock changes. -/
def execPortLinkChange (sub : Nat) (up locked : Bool) (s : State) : Res :=
  doWhen (sub < 16 && portsOn s && !loopback s (sub / 4)) (setLinkState sub up locked s) s

/-- NET.PORTn.CTRL written: MODE changes only while no SUB_EN bit of the port is 1 (R366). -/
def portCtrl (v : Nat) (p : Port) : Port :=
  { p with
    mode := if p.subEn = 0 then min 2 (bits v 1 0) else p.mode
    subEn := bits v 5 2
    pfcEn := bit v 6
    pfcMask := bits v 14 7
    mtu := clampN 1280 9000 (bits v 29 16) }

def execPortModeWrite (port : Nat) (value : BitVec 32) (s : State) : Res :=
  .next (hostAccess (fun s => if port < 4 then updPort port (portCtrl value.toNat) s else s) s)

/-! ### Received frames (R367, R369) -/

abbrev rxBufferBytes : Nat := 4 * 2 ^ 20

def rxPart (p : Port) : Nat := rxBufferBytes / max 1 ((List.range 8).filter (bit p.pfcMask)).length

def rxHeld (p : Port) : Nat := p.rxBytes.foldl (fun n x => n + x.2) 0

/-- A frame passes the checks of R365 and R367. -/
def frameAccepted (s : State) (f : Frame) : Bool :=
  let w := getSub s f.sub
  let mac := w.mac.toNat
  subUp s f.sub && f.bytes ≤ 9022 && f.tags ≤ 1 && (f.dstMac == mac % 2 ^ 48 || f.group) && f.vlan == bits mac 59 48 &&
  (f.kind == 0 || f.kind == 1 ||
    (f.kind == 2 && f.ipOk && f.udpDst == s.net.udpPort &&
      f.ipDst == (if bit mac 60 then w.ip.toNat % 2 ^ 32 else w.ip.toNat)))

def countDrop (sub : Nat) (s : State) : State :=
  updSub sub (fun w => { w with rxDrop := (w.rxDrop + 1) % 2 ^ 64 }) s

/-- PFC is sent for a priority above 75 % of its part, and released below 50 %. -/
def pfcCheck (sub : Nat) (s : State) : State :=
  let k := sub / 4
  let p := getPort s k
  if !p.pfcEn then s else
  let want := (List.range 8).filter fun i => bit p.pfcMask i &&
    (if p.pfcSent.contains i then rxPart p ≤ 2 * smGet p.rxBytes 0 i else 3 * rxPart p < 4 * smGet p.rxBytes 0 i)
  if want == p.pfcSent then s
  else putFrame sub 3 (le 1 (want.foldl (fun m i => m + 2 ^ i) 0)) (updPort k (fun p => { p with pfcSent := want }) s)

/-- A frame arrives: dropped and counted, or held in the receive buffer (of a UDP frame, until its packet is processed). -/
def execFrameReceive (f : Frame) (s : State) : Res :=
  let k := f.sub / 4
  let p := getPort s k
  .next (if !portsOn s || 16 ≤ f.sub then s
    else if !frameAccepted s f then countDrop f.sub s
    else if f.kind != 2 then s
    else if !p.pfcEn && rxBufferBytes < rxHeld p + f.bytes then countDrop f.sub s
    else pfcCheck f.sub (updPort k (fun p => { p with
      rxBytes := smSet p.rxBytes (f.pcp % 8) (smGet p.rxBytes 0 (f.pcp % 8) + f.bytes) }) s))

/-- A packet leaves the receive buffer as it is processed (log 49). -/
def drainRx (sub cls payload : Nat) (s : State) : State :=
  let k := sub / 4
  let pcp := classPcp (getPort s k) cls
  pfcCheck sub (updPort k (fun p => { p with
    rxBytes := smSet p.rxBytes pcp (smGet p.rxBytes 0 pcp - wireBytes s sub payload) }) s)

end Sys2Proof.Machine
end

