-- ==== Sys2Proof/Machine/Group.lean ====
section
/-! DEFINITION. Groups (14 R392 to R400, 18 R475) and FLOW_KEY (14 R376): the commands, what the messages of GROUP_CTRL do,
and step 5 of the beat head for the group. -/

namespace Sys2Proof.Machine

/-! ### Configuration records (R392, R393) -/

def cfgBytes (c : List Byte) : Nat := 64 + 96 * num c 4 2 + 136 * num c 16 2

def allZero (b : List Byte) : Bool := b.all (· == 0)

/-- A configuration record is well formed. -/
def cfgOk (c : List Byte) : Bool :=
  let ms := cfgMembers c
  1 ≤ cfgEpoch c && 1 ≤ num c 4 2 && num c 4 2 ≤ 1024 && num c 16 2 ≤ 1024 && c.length == cfgBytes c &&
  ms.contains (cfgOwner c) && allZero (slice c 18 46) &&
  (ms.zip (ms.drop 1)).all (fun x => x.1 < x.2) && ms.all (· < 0x400) &&
  ((List.range (num c 4 2)).all fun i => allZero (slice c (64 + 96 * i + 3) 5) && allZero (slice c (64 + 96 * i + 80) 16)) &&
  (List.range (num c 16 2)).all fun g =>
    let o := 64 + 96 * num c 4 2 + 136 * g
    1 ≤ num c o 1 && num c o 1 ≤ 64 && allZero (slice c (o + 1) 7)

/-- IDENTITY of this device: the first 8 bytes of SHA-256 over its public key. -/
def ownIdentity : List Byte := slice deviceKeyHash 0 8

/-- The device number a record gives an identity. -/
def cfgDevice (c : List Byte) (identity : List Byte) : Option Nat :=
  (cfgMembers c).find? fun d => match cfgEntry c d with
    | some e => slice e 8 8 == identity
    | none => false

/-- A member's DIGEST of a record: its own beat values stand in bytes 8 to 13 (R393). -/
def cfgDigest (s : State) (c : List Byte) : Nat :=
  num (sha256 ((patch c 8 (le 4 s.beat.periodUs ++ le 2 s.beat.headUs)).drop 4)) 0 4

/-- Hold a configuration and be a member of it. -/
def adopt (c : List Byte) (device : Nat) (s : State) : State :=
  groupChange (updGroup (fun g => { g with
    epoch := cfgEpoch c
    digest := cfgDigest s c
    device := device
    config := c
    configBeat := beatNo s
    gstate := if g.gstate = 3 then 3 else 2
    present := cfgMembers c }) s)

/-- Tables of column groups are unserved until their versions have been checked again (02 R44, 18 R475). -/
def unserveTables (s : State) : State :=
  updTables (fun t => { t with tab := smMap t.tab fun _ x => { x with unserved := x.unserved || x.colgroup != 0xFFFF } }) s

/-! ### GROUP_JOIN (R394, R397) -/

def gjBytes (r : Req) : Nat := min (num r.slot 80 4) 237632
def gjDevice (r : Req) : Nat := num r.slot 84 2
def gjRecord (s : State) (r : Req) : List Byte := slice (readVa s r.ctx (pAddr r.slot 72) (gjBytes r)).data 0 (gjBytes r)

/-- The record names this device as its OWNER and has a higher EPOCH than the one held (R397). -/
def isPush (s : State) (c : List Byte) : Bool :=
  isMember s && cfgDevice c ownIdentity == some (cfgOwner c) && s.net.group.epoch < cfgEpoch c

def ownJoin (s : State) (r : Req) : Verdict :=
  let c := gjRecord s r
  let dev := cfgDevice c ownIdentity
  firstBad [rangeOk s r.ctx (pAddr r.slot 72) (gjBytes r) true false (hWaitMap r.slot),
    snoopOk s false (segments s r.ctx (pAddr r.slot 72) (gjBytes r)),
    need (s.clock.lock != .unlocked) stTimeUnlocked,
    need ((s.net.group.gstate = 0) || isPush s c) stAlreadyInGroup,
    need (cfgOk c && dev.isSome && (gjDevice r = 0xFFFF || dev == some (gjDevice r))) stGroupRefused]

def joinReqMsg (s : State) (c : List Byte) (device : Nat) : Msg :=
  { ctrlMsg 0 0 0 (slice (ownIdentity ++ le 2 device) 0 64) with epoch := some (cfgEpoch c, cfgDigest s c) }

def startJoin (r : Req) (n : Nat) (s : State) : State :=
  let c := gjRecord s r
  let d := (cfgDevice c ownIdentity).getD 0
  let s := updFlight n (fun f => { f with work := .beat }) s
  if isPush s c then
    let a := beatNo s + 4
    let ps := ((cfgMembers c ++ cfgMembers s.net.group.config).eraseDups).filter (· != deviceNo s)
    let s := sendAll ps (ctrlMsg 3 0 a c) s
    updGroup (fun g => { g with
      push := some (c, a)
      pushFlight := some n }) s
  else
    let s := updGroup (fun g => { g with
      joining := some (n, c, d)
      gstate := 1 }) s
    if d = cfgOwner c then updGroup (fun g => { g with joinAt := some (beatNo s + 2) }) s
    else if !reachable s (cfgOwner c) then joinFail stNetUnreachable s
    else sendMsg (cfgOwner c) (joinReqMsg s c d) s

def execGroupJoin (queue : Nat) (s : State) : Res := .next (dispatch queue (isOp 0x800) oneUj ownJoin startJoin s)

/-! ### GROUP_LEAVE, the leaving rule of R44, GROUP_STATE -/

def startLeave (n : Nat) (s : State) : State :=
  updGroup (fun g => { g with
    gstate := 3
    leave := some (some n) }) (updFlight n (fun f => { f with work := .beat }) s)

def execGroupLeave (queue : Nat) (s : State) : Res :=
  .next (dispatch queue (isOp 0x801) oneUj (fun s _ => need (isMember s) stNotInGroup) (fun _ n s => startLeave n s) s)

/-- 10 s in UNLOCKED: the device leaves at the next beat head (02 R44, R396). -/
def execUnlockedGroupTimeout (s : State) : Res :=
  .next (if s.clock.lock == .unlocked && isMember s && s.net.group.leave.isNone then
      updGroup (fun g => { g with
        gstate := 3
        leave := some none }) (advance (s.clock.unlockedSince + 10 * secNs) s)
    else s)

/-- The 192-byte record of GROUP_STATE (R400). -/
def groupBytes (s : State) : List Byte :=
  let g := s.net.group
  let inG := isMember s
  rec_ 192 [(0, 4, g.epoch), (4, 4, g.digest), (8, 2, g.device), (10, 2, if inG then cfgOwner g.config else 0),
    (12, 2, if inG then num g.config 4 2 else 0), (14, 2, if inG then g.present.length else 0), (16, 8, g.joinBeat),
    (24, 8, g.configBeat), (32, 1, g.gstate),
    (33, 1, b2n (inG && cfgOwner g.config == g.device) + 2 * b2n (degraded s) + 4 * b2n g.diverged),
    (40, 8, g.configNacks), (64, 128, if inG then g.present.foldl (fun m d => m ||| 2 ^ d) 0 else 0)]

def execGroupState (queue : Nat) (s : State) : Res :=
  .next (dispatch queue (isOp 0x802) oneUj (fun s r => resultOk s r (pAddr r.slot 72) 192)
    (fun r n s => resultTo (pAddr r.slot 72) (groupBytes s) r n
      (updFlight n (fun f => { f with echo := if isMember s then s.net.group.present.length else 0 }) s)) s)

/-! ### FLOW_KEY (R376, R377) -/

def fkPeer (r : Req) : Nat := num r.slot 64 2

/-- A partition owner keys only client numbers of its own partition. -/
def ownFlowKey (s : State) (r : Req) : Verdict :=
  need (r.operator || (clientPeer (fkPeer r) && (clientOwner s (fkPeer r)).isSome && clientOwner s (fkPeer r) == queueOwner s r.queue))
    stNotOperator

/-- Install a transmit key: used at once, with a fresh nonce counter; a receive key: the two newest are kept. -/
def installKey (tx : Bool) (key salt : List Byte) (f : Flow) : Flow :=
  if tx then
    let ph := (f.txPhase + 1) % 4
    { f with
      txPhase := ph
      txCtr := 0
      tx := some { phase := ph, key, salt, high := none, seen := [] } }
  else
    let ph := (f.rxPhase + 1) % 4
    { f with
      rxPhase := ph
      rx := ({ phase := ph, key, salt, high := none, seen := [] } :: f.rx).take 2 }

def setFlowKey (r : Req) (s : State) : State :=
  let p := fkPeer r
  let dir := min 2 (num r.slot 67 1)
  let key := slice r.slot 72 32
  let salt := slice r.slot 104 4
  let f := (findFlow s p).getD {}
  let f := { f with
    port := min 15 (num r.slot 66 1)
    owner := if groupPeer p then none else clientOwner s p }
  let f := if dir != 1 then installKey true key salt f else f
  let f := if dir != 0 then installKey false key salt f else f
  updNet (fun n => { n with flows := smSet n.flows p f }) s

def execFlowKey (queue : Nat) (s : State) : Res :=
  .next (dispatch queue (isOp 0x903) oneUj ownFlowKey (startNow setFlowKey noEcho) s)

/-! ### Tables on the wire (R385, R475) -/

/-- The partition whose block holds the window a message names. -/
def wirePart (s : State) (h : List Byte) : Option (Nat × Part) :=
  match windowOwner s (num h 50 2 % 4096) with
  | none => none
  | some p => (findPart s p).map fun w => (p, w)

/-- The table a relative ID names here; none beyond the block. -/
def wireTable (s : State) (h : List Byte) (rel : Nat) : Option Nat := match wirePart s h with
  | some (_, w) => if rel < 256 * w.sixteenths then some (256 * w.first + rel) else none
  | none => none

def currentOr (s : State) (id : Nat) : Nat := match findTable s id with
  | some t => if isEmptyV t.cur then 0xFFFF else t.cur.version
  | none => 0xFFFF

/-- The 4-byte entries of VERSION_QUERY and VERSION_REPLY. -/
def versionEntries (b : List Byte) : List (Nat × Nat) :=
  (List.range (b.length / 4)).map fun i => (num b (4 * i) 4 % 4096, num b (4 * i + 2) 2)

/-- VERSION_QUERY for every unserved table of a column group, at the join beat (R475). -/
def sendQueries (s : State) : State :=
  let ts := s.tables.tab.filter fun t => t.2.unserved
  let s := updGroup (fun g => { g with
    queries := ts.map fun t =>
      (t.1, (cfgColgroup g.config t.2.colgroup).filter (· != g.device), [], s.beat.edges) }) s
  ts.foldl (fun s t => sendAll ((cfgColgroup s.net.group.config t.2.colgroup).filter (· != deviceNo s))
    { ctrlMsg 7 0 0 (le 4 (relTable s t.1)) with window := wireWindow s t.2.partition } s) s

/-- What the replies for a table lead to, at step 5 of the beat after the last (R475). -/
def settleQuery (q : Nat × List Nat × List Nat × Nat) (s : State) : State := match findTable s q.1 with
  | none => s
  | some t =>
    let v := q.2.2.1.headD (currentOr s q.1)
    let serve (s : State) : State := updTable q.1 (fun t => { t with unserved := false }) s
    if !q.2.2.1.all (· == v) then updGroup (fun g => { g with diverged := true }) s
    else if v = currentOr s q.1 then serve s
    else if t.pend.st == .prepared && t.pend.version = v then
      updTables (fun x => { x with armed := x.armed ++ [{
        kind := 4, table := q.1, version := v, beat := beatNo s, flight := none, rfence := none, destroy := false }] }) s
    else s

/-- Queries whose every peer has answered are settled from the beat after the join on. -/
def settleQueries (s : State) : State :=
  let due := s.net.group.queries.filter fun q => q.2.1.isEmpty && q.2.2.2 < s.beat.edges
  let s := updGroup (fun g => { g with queries := g.queries.filter fun q => !due.contains q }) s
  due.foldl (fun s q => settleQuery q s) s

/-- No reply within 2 beats: the table stays unserved and VERSION_DIVERGED is set. -/
def execVersionReplyTimeout (table : Nat) (s : State) : Res :=
  .next (match s.net.group.queries.find? fun q => q.1 = table with
    | some q =>
      if q.2.1.isEmpty || s.beat.edges < q.2.2.2 + 2 then s
      else updGroup (fun g => { g with
        diverged := true
        queries := g.queries.filter fun x => x.1 != table }) s
    | none => s)

/-- The switch that is pending here and that the sender of a message had already made when it formed it (02 R48). -/
def aheadSwitch (s : State) (h : List Byte) : Option Switch := s.beat.switch.filter fun w => w.at_ ≤ num h 16 8

/-- Period in ns of the beats a message names, once they are taken by rxBeat. -/
def rxPeriod (s : State) (h : List Byte) : Nat := match aheadSwitch s h with
  | some w => w.periodUs * 1000
  | none => beatNs s

/-- A beat named by a message: one formed before the last period switch names old beats (02 R48). -/
def rxBeat (s : State) (h : List Byte) (b : Nat) : Nat := match s.beat.lastSwitch with
  | some (at_, old) => if num h 16 8 < at_ && at_ ≤ b * old then ceilDiv (b * old) (beatNs s) else b
  | none => b

/-! ### GROUP_CTRL messages received (R394 to R397) -/

/-- JOIN_REQ at the owner. -/
def onJoinReq (h b : List Byte) (s : State) : State :=
  let g := s.net.group
  let d := num b 8 2
  let peer := num h 4 2
  let ok := isMember s && cfgOwner g.config == g.device && num h 8 4 == g.epoch && num h 12 4 == g.digest &&
    cfgDevice g.config (slice b 0 8) == some d && s.clock.lock != .unlocked
  if ok then
    let j := beatNo s + 2
    updGroup (fun g => { g with accepted := g.accepted ++ [(d, j)] }) (sendMsg peer (ctrlMsg 1 0 j []) s)
  else sendMsg peer (ctrlMsg 2 0 0 []) s

/-- JOIN_ACCEPT and JOIN_REFUSE at the joining device. -/
def onJoinAccept (h : List Byte) (s : State) : State := match s.net.group.joining with
  | some (_, c, _) => if num h 4 2 = cfgOwner c then updGroup (fun g => { g with joinAt := some (rxBeat s h (num h 64 8)) }) s else s
  | none => s

def onJoinRefuse (h : List Byte) (s : State) : State := match s.net.group.joining with
  | some (_, c, _) => if num h 4 2 = cfgOwner c then joinFail stGroupRefused s else s
  | none => s

/-- CONFIG_PUSH from the owner the record names: held for its apply beat. -/
def onConfigPush (h b : List Byte) (s : State) : State :=
  if cfgOk b && num h 4 2 = cfgOwner b then updGroup (fun g => { g with push := some (b, rxBeat s h (num h 64 8)) }) s else s

def onMemberUp (b : List Byte) (s : State) : State :=
  let d := num b 0 2
  if (cfgMembers s.net.group.config).contains d && !s.net.group.present.contains d then
    updGroup (fun g => { g with present := insertSort (fun x y => decide (x < y)) (g.present ++ [d]) }) s else s

def onLeave (b : List Byte) (s : State) : State :=
  updGroup (fun g => { g with present := g.present.filter (· != num b 0 2) }) s

/-- A MISMATCH report: the owner answers with its record, to apply 2 beats on. -/
def onMismatch (h : List Byte) (s : State) : State :=
  let g := s.net.group
  if isMember s && cfgOwner g.config == g.device then sendMsg (num h 4 2) (ctrlMsg 3 0 (beatNo s + 2) g.config) s else s

def onVersionQuery (h b : List Byte) (s : State) : State := match wirePart s h with
  | none => s
  | some (p, _) =>
    let reply := (versionEntries b).flatMap fun e => match wireTable s h e.1 with
      | some id => le 2 e.1 ++ le 2 (currentOr s id)
      | none => []
    sendMsg (num h 4 2) { ctrlMsg 8 0 0 reply with window := wireWindow s p } s

def onVersionReply (h b : List Byte) (s : State) : State :=
  let peer := num h 4 2
  (versionEntries b).foldl (fun s e => match wireTable s h e.1 with
    | none => s
    | some id => updGroup (fun g => { g with
        queries := g.queries.map fun q => if q.1 = id && q.2.1.contains peer then (q.1, q.2.1.filter (· != peer), q.2.2.1 ++ [e.2], q.2.2.2) else q }) s) s

/-- What a GROUP_CTRL message does, by its OP. -/
def groupEffect (h b : List Byte) (s : State) : State := match num h 56 1 with
  | 0 => onJoinReq h b s
  | 1 => onJoinAccept h s
  | 2 => onJoinRefuse h s
  | 3 => onConfigPush h b s
  | 4 => onMemberUp b s
  | 5 => onLeave b s
  | 6 => onMismatch h s
  | 7 => onVersionQuery h b s
  | 8 => onVersionReply h b s
  | _ => s

/-! ### Step 5 of the beat head (R394, R396, R397) -/

def memberUpMsg (d j : Nat) : Msg := ctrlMsg 4 0 j (le 2 d)

/-- A join whose beat has come. -/
def stepJoin (s : State) : State := match s.net.group.joinAt, s.net.group.joining with
  | some j, some (n, c, d) =>
    if beatNo s < j then s else
    let s := adopt c d (updGroup (fun g => { g with
      joinAt := none
      joining := none
      joinBeat := j }) s)
    let s := if cfgOwner c = d then sendAll (otherMembers s) (memberUpMsg d j) s else s
    let s := finishFlight n 0 (updFlight n (fun f => { f with echo := d }) s)
    sendQueries s
  | _, _ => s

/-- A leave: LEAVE to every member; outstanding column-group tables are unserved from now on. -/
def stepLeave (s : State) : State := match s.net.group.leave with
  | none => s
  | some o =>
    let s := unserveTables (leaveNow s)
    let s := updGroup (fun g => { g with queries := [] }) s
    match o with
    | some n => finishFlight n 0 s
    | none => s

/-- A pushed configuration at its apply beat. -/
def stepPush (s : State) : State := match s.net.group.push with
  | none => s
  | some (c, a) =>
    if beatNo s < a then s else
    let g := s.net.group
    let fl := g.pushFlight
    let was := isMember s
    let s := updGroup (fun g => { g with
      push := none
      pushFlight := none }) s
    let s := if cfgEpoch c < g.epoch then s else match cfgDevice c ownIdentity with
      | some d =>
        if was then adopt c d s
        else sendQueries (adopt c d (updGroup (fun g => { g with joinBeat := a }) s))
      | none => if was then unserveTables (leaveNow s) else s
    match fl with
    | some n => finishFlight n 0 (updFlight n (fun f => { f with echo := deviceNo s }) s)
    | none => s

/-- The owner announces the joins it accepted for this beat. -/
def stepMembersUp (s : State) : State :=
  let due := s.net.group.accepted.filter fun x => x.2 ≤ beatNo s
  let s := updGroup (fun g => { g with accepted := g.accepted.filter fun x => !due.contains x }) s
  due.foldl (fun s x => onMemberUp (le 2 x.1) (sendAll (otherMembers s) (memberUpMsg x.1 x.2) s)) s

/-- A member's DIGEST follows its own beat values (R393). -/
def groupDigest (s : State) : State :=
  if isMember s then updGroup (fun g => { g with digest := cfgDigest s g.config }) s else s

def groupStep5 (s : State) : State :=
  let s := groupDigest s
  let s := updGroup (fun g => { g with mismatched := [] }) s
  stepMembersUp (stepPush (stepJoin (stepLeave (settleQueries s))))

end Sys2Proof.Machine
end

