-- ==== Sys2Proof/Machine/NetRx.lean ====
section
/-! DEFINITION. The receiving side of the Flochasel transport (14 R379 to R388): authentication, sequence, group checks, the
checks of a message, its segments, its completion effects in order, and what CHECK_CLEAR and RETRACT do (15 R418 to R421). -/

namespace Sys2Proof.Machine

/-! ### Header fields (R373) -/

def pType (p : Packet) : Nat := num p.header 1 1
def pFlags (p : Packet) : Nat := num p.header 2 1
def pPhase (p : Packet) : Nat := num p.header 3 1 % 4
def pSrc (p : Packet) : Nat := num p.header 4 2
def pNonce (p : Packet) : Nat := num p.header 24 8
def pPsn (p : Packet) : Nat := num p.header 32 4
def pMseq (p : Packet) : Nat := num p.header 36 4
def hLen (h : List Byte) : Nat := num h 52 4 % 2 ^ 21
def hWin (h : List Byte) : Nat := num h 50 2 % 4096
def hOffset (h : List Byte) : Nat := num h 56 5
def hCheck (h : List Byte) : Nat := num h 40 8 % 2 ^ 63
def hProv (h : List Byte) : Bool := bit (num h 40 8) 63
def pSeg (p : Packet) : Nat := num p.header 52 4 / 2 ^ 21
def pLast (p : Packet) : Bool := bit (pFlags p) 4

/-- Where a segment lies in its message: the last one ends it (R372). -/
def segOffset (p : Packet) : Nat :=
  if pLast p then hLen p.header - p.payload.length else pSeg p * p.payload.length

/-! ### Authentication (R377, R379 step 1) -/

def nonceOk (k : NKey) (n : Nat) : Bool := !k.seen.contains n && match k.high with
  | some h => h ≤ n + 1024
  | none => true

def rxKey (f : Flow) (phase : Nat) : Option NKey := f.rx.find? fun k => k.phase = phase

def authentic (s : State) (p : Packet) : Bool := match findFlow s (pSrc p) with
  | none => false
  | some f => match rxKey f (pPhase p) with
    | none => false
    | some k => p.tagOk && nonceOk k (pNonce p)

def seeNonce (n : Nat) (k : NKey) : NKey :=
  let h := max n (k.high.getD 0)
  { k with
    high := some h
    seen := (n :: k.seen).filter fun x => h ≤ x + 1024 }

/-- The packet counts under its key; a client's address is learned. -/
def noteAuth (p : Packet) (s : State) : State :=
  updFlow (pSrc p) (fun f => { f with
    rx := f.rx.map fun k => if k.phase = pPhase p then seeNonce (pNonce p) k else k
    addr := if groupPeer (pSrc p) then f.addr else some (p.addr, p.udp) }) s

/-! ### Group checks (R379 step 3) -/

/-- The reason to refuse a packet of a group member, or none. -/
def groupReason (s : State) (p : Packet) : Option Nat :=
  let t := pType p
  let g := s.net.group
  let e := num p.header 8 4
  if !groupPeer (pSrc p) || !epochChecked t then none
  else if e < g.epoch then some nkEpoch
  else if digestChecked t && (g.epoch < e || num p.header 12 4 != g.digest) then some nkConfig
  else if !(isMember s && (cfgMembers g.config).contains (pSrc p)) then some nkPeer
  else none

/-! ### The checks of a message (R379 step 4) -/

/-- The peer is in a window's peer set (09 R247). -/
def peerAllowed (s : State) (w : Window) (h : List Byte) : Bool :=
  let peer := num h 4 2
  match w.peerMode with
  | 0 => groupPeer peer && (cfgMembers s.net.group.config).contains peer && num h 8 4 == w.epoch
  | 1 => w.peers.getD 0 0 ≤ peer && peer ≤ w.peers.getD 1 0
  | _ => w.peers.contains peer

/-- The checks of R249, in order: the reason and what it names. -/
def windowReason (s : State) (h : List Byte) (allowed : Window → Bool) (ranged : Window → Bool) (n : Nat) : Option (Nat × Nat) :=
  match smFind s.mem.windows (hWin h) with
  | none => some (nkWindow, hOffset h)
  | some w =>
    if !peerAllowed s w h then some (nkPeer, hOffset h)
    else if !allowed w then some (nkPermission, hOffset h)
    else if !ranged w then none
    else if w.length < hOffset h + n then some (nkRange, hOffset h)
    else match checkRange s w.context (w.base + hOffset h) n false false with
      | some (_, a) => some (nkUnmapped, a / frameBytes)
      | none => none

/-- A named fence must belong to the window's partition (R381). -/
def fenceReason (s : State) (h : List Byte) : Option (Nat × Nat) :=
  if bit (num h 61 3) 23 && fenceOwner s (num h 61 3 % 2 ^ 18) != windowOwner s (hWin h) then some (nkFence, hOffset h) else none

def firstReason : List (Option (Nat × Nat)) → Option (Nat × Nat)
  | [] => none
  | some x :: _ => some x
  | none :: l => firstReason l

/-- An update window: its entries are checked once the message is whole. -/
def updateWin (s : State) (h : List Byte) : Bool := match smFind s.mem.windows (hWin h) with
  | some w => w.kind == 1
  | none => false

/-- An update window's table is one of the window's own context (06 R145). -/
def windowTable (s : State) (w : Window) : Option Table := (findTable s w.table).filter fun t => t.context = w.context

/-- A die's collection area of a table has room for n more bytes. -/
def diesHave (s : State) (id : Nat) (t : Table) (n : Nat) : Bool :=
  (List.range (partDieCount s t.partition)).all fun d => areaRoom s id t d n

/-- The reservation of an ATOMIC_ADD_F32 into an update window: COLLECT_FULL where an area lacks the space (log 48). -/
def collectReason (s : State) (h : List Byte) : Option (Nat × Nat) := match smFind s.mem.windows (hWin h) with
  | none => none
  | some w => match windowTable s w with
    | none => some (nkPermission, hOffset h)
    | some t =>
      if t.paramAddr = 0 || t.opt = 0 then some (nkUpdatesDisabled, hOffset h)
      else if diesHave s w.table t (hLen h + 48 * (hLen h / 128)) then none else some (nkCollectFull, hOffset h)

/-- Entries of a gradient message that is refused before its entries are read: each covers this device's slice (log 48). -/
def refusedEntries (s : State) (h : List Byte) : Nat := match (smFind s.mem.windows (hWin h)).bind fun w => findTable s w.table with
  | some t => max 1 (hLen h / (64 + roundUp (4 * (layoutOf s t t.cur).n) 64))
  | none => 1

/-- SENDs to a queue that wait for their completion effects. -/
def sendsWaiting (s : State) (q : Nat) : Nat :=
  s.net.flows.foldl (fun n f => f.2.rxMsgs.foldl (fun n m =>
    if m.type = tySend && !m.refused && !m.effects && num m.header 50 2 = q then n + 1 else n) n) 0

/-- A response to this device addresses no queue (R382). -/
def isResponse (h : List Byte) : Bool := num h 50 2 == 0xFFFF && !bit (num h 2 1) 6

def sendReason (s : State) (h : List Byte) : Option (Nat × Nat) :=
  let q := num h 50 2
  let w := getQueue s q
  let peer := num h 4 2
  if isResponse h then none
  else if !(w.netFed && w.life == .enabled) then some (nkQueue, q)
  else if !((groupPeer peer && (cfgMembers s.net.group.config).contains peer) ||
      (clientPeer peer && (clientOwner s peer).isSome && clientOwner s peer == queueOwner s q)) then some (nkPeer, q)
  else if sqSlots w ≤ ahead w.prod w.sqHead + sendsWaiting s q then some (nkQueueFull, q)
  else none

/-- The checks of BEAT_SYNC (R398): the relative ID, the instant, the version. Beats are compared by the instants at which
they start, for a message may name beats of the period that follows a pending switch (02 R48). -/
def syncReason (s : State) (h : List Byte) : Option (Nat × Nat) :=
  let m := rxBeat s h (num h 56 8)
  let start := m * rxPeriod s h
  let v := num h 66 2
  match wireTable s h (num h 64 2) with
  | none => some (nkPermission, num h 64 2)
  | some id => match findTable s id with
    | none => some (nkVersion, 0xFFFF)
    | some t =>
      if start + 1500 ≤ now s then some (nkLate, m)
      else if s.tables.armed.any (fun a => (a.kind = 1 || a.kind = 3) && a.table = id && a.version = v && a.beat * beatNs s = start)
        then none
      else if (match prepBeatOf s id t v with | some b => t.pend.st == .prepared && b * beatNs s < start | none => false) &&
        retiringOk s t (start / beatNs s) then none
      else some (nkVersion, currentOr s id)

/-- The checks of the first packet of a message. -/
def messageReason (s : State) (p : Packet) : Option (Nat × Nat) :=
  let h := p.header
  let t := pType p
  if t = tyWrite then firstReason [windowReason s h (·.write) (fun w => w.kind != 1) (hLen h), fenceReason s h]
  else if t = tyReadReq then windowReason s h (·.read) (fun _ => true) (num h 64 4)
  else if t = tyAtomic then
    firstReason [windowReason s h (·.atomic) (fun w => w.kind != 1) (hLen h), fenceReason s h,
      if updateWin s h then collectReason s h
      else if hOffset h % 4 != 0 then some (nkRange, hOffset h) else none]
  else if t = tySend then sendReason s h
  else if t = tyBeatSync then syncReason s h
  else none

/-- A refusal by R249 places a fault record in the window's partition's queue, the operator's where none is open. -/
def refusalRecord (p : Packet) (reason : Nat) (s : State) : State :=
  let h := p.header
  let t := pType p
  if t != tyWrite && t != tyReadReq && t != tyAtomic then s
  else
    let own := if (smFind s.mem.windows (hWin h)).isSome then windowOwner s (hWin h) else none
    faultPut own {
      stamp := now s, source := srcPort p.sub, context := num h 48 2, status := stNetNack, atype := 3
      write := t != tyReadReq, remote := true, address := hOffset h, peer := pSrc p, window := hWin h, detail := reason } s

/-! ### Writing segments (R379 step 5, R381) -/

/-- Note in a message what an access met (09 R494). -/
def noteRx (mseq peer : Nat) (a : Acc) (s : State) : State :=
  let merge (x y : Option (Nat × Nat)) : Option (Nat × Nat) := match x, y with
    | some (p, k), some (_, m) => some (p, satAdd 32 k m)
    | none, y => y
    | x, none => x
  updFlow peer (fun f => { f with
    rxMsgs := f.rxMsgs.map fun m => if m.mseq = mseq then { m with
      denied := merge m.denied a.denied
      uncorr := merge m.uncorr a.uncorr } else m }) (countErrors a s)

/-- FP32 addition of one element, NaN canonical (R72, R381). -/
def addWord (x y : Nat) : Nat := (pack32 (addF (f32 (BitVec.ofNat 32 x)) (f32 (BitVec.ofNat 32 y))).1).1.toNat

/-- Add FP32 elements into memory. -/
def addFloats (c va : Nat) (b : List Byte) (s : State) : State × Acc :=
  let old := readVa s c va (b.length / 4 * 4)
  let new := (List.range (b.length / 4)).flatMap fun i => le 4 (addWord (num old.data (4 * i) 4) (num b (4 * i) 4))
  let x := writeVa c va new s
  (x.1, { x.2 with
    uncorr := old.uncorr
    ues := old.ues
    ces := old.ces ++ x.2.ces })

/-- The request a response answers, with the address and context of its data. -/
def requestOf (f : Flow) (h : List Byte) : Option TxMsg :=
  f.txMsgs.find? fun m => m.type = tyReadReq && m.mseq = num h 56 4

/-- Write what a segment carries: into its window, or to the destination of the read it answers. -/
def writeSegment (p : Packet) (s : State) : State :=
  let peer := pSrc p
  let t := pType p
  match (findFlow s peer).bind fun f => f.rxMsgs.find? fun m => m.mseq = pMseq p with
  | none => s
  | some m =>
    if t = tyReadResp then
      match (findFlow s peer).bind fun f => requestOf f p.header with
      | none => s
      | some q =>
        let c := num q.header 48 2
        if retiringCtx s c then s else
        let x := writeVa c (q.source + segOffset p) p.payload s
        match q.flight with
        | some n => noteAcc n true x.2 x.1
        | none => x.1
    else match m.win with
      | none => s
      | some w =>
        if w.kind = 1 || retiringCtx s w.context then s
        else if t = tyWrite then
          let x := writeVa w.context (w.base + hOffset m.header + segOffset p) p.payload s
          noteRx m.mseq peer x.2 x.1
        else if t = tyAtomic then
          let x := addFloats w.context (w.base + hOffset m.header + segOffset p) p.payload s
          noteRx m.mseq peer x.2 x.1
        else s

/-- The memory a segment touches, for the back-invalidates that come first (13 R352). -/
def segTouch (s : State) (p : Packet) : Bool × List Seg :=
  let h := p.header
  let t := pType p
  let peer := pSrc p
  if t = tyReadResp then match (findFlow s peer).bind fun f => requestOf f h with
    | some q => (true, segments s (num q.header 48 2) (q.source + segOffset p) p.payload.length)
    | none => (true, [])
  else if t = tySend then
    let w := getQueue s (num h 50 2)
    if w.netFed then (true, segments s (regCtx w.sq) (ringBase w.sq + 256 * (w.prod % sqSlots w)) 256) else (true, [])
  else match smFind s.mem.windows (hWin h) with
    | none => (false, [])
    | some w =>
      if t = tyReadReq && w.read then (false, segments s w.context (w.base + hOffset h) (num h 64 4))
      else if (t = tyWrite || t = tyAtomic) && w.kind != 1 && (w.write || w.atomic) then
        (true, segments s w.context (w.base + hOffset h + segOffset p) p.payload.length)
      else (false, [])

/-! ### Update entries received (R178, R383) -/

/-- The entries of a message: 64-byte headers with their padded payloads; `state`: bytes of the state of n elements of a
table. -/
def parseEntries (state : Nat → Nat → Nat) : Nat → List Byte → List Entry
  | 0, _ => []
  | fuel + 1, b =>
    if b.length < 64 then [] else
    let key := num b 0 8
    let pf := num b 22 1 % 16
    let n := num b 36 4
    let withState := bit (num b 23 1) 1
    let body := if withState then roundUp (payloadLen pf n + 1) 64 + roundUp (state (key / 2 ^ 40 % 4096) n) 64
      else roundUp (payloadLen pf n) 64
    { table := key / 2 ^ 40 % 4096, row := key % 2 ^ 40, kind := key / 2 ^ 52 % 16, stamp := num b 8 8, dev := num b 16 2
      src := num b 18 2, version := num b 20 2, pformat := pf, keep := bit (num b 23 1) 0, withState, beat := num b 24 8
      first := num b 32 4, nelems := n, pos := num b 40 4, payload := slice b 64 body, die := 0, bytes := 0 } ::
      parseEntries state fuel (b.drop (64 + body))

/-- A kept message's bytes. -/
def rxPayload (m : RxMsg) : List Byte := m.payload.foldl (fun b x => patch b x.1 x.2) (zeros (hLen m.header))

def rxEntries (s : State) (m : RxMsg) : List Entry :=
  let b := rxPayload m
  parseEntries (fun id n => match findTable s id with
    | some t => stateBytes t n
    | none => 0) (b.length / 64 + 1) b

/-- The partition and block base of the window a message names. -/
def winPart (s : State) (h : List Byte) : Option (Nat × Nat × Part) := (wirePart s h).map fun x => (x.1, 256 * x.2.first, x.2)

/-- Entries of a message into a gather window, their tables made absolute (R385). -/
def gwEntriesOf (s : State) (m : RxMsg) (base : Nat) : List Entry :=
  (parseEntries (fun id n => match findTable s (base + id) with
    | some t => stateBytes t n
    | none => 0) (hLen m.header / 64 + 1) ((rxPayload m).drop 64)).map fun e => { e with table := base + e.table }

/-- A table a gather-window message names is in the block, exists, and is the window's context's (06 R145, R385). -/
def gwTable (s : State) (w : Window) (p : Part) (base rel : Nat) : Option (Nat × Table) :=
  if 256 * p.sixteenths ≤ rel then none
  else ((findTable s (base + rel)).filter fun t => t.context = w.context).map fun t => (base + rel, t)

/-- The reason to refuse a gather's feature here: its table, or a version that is not readable (06 R160, R385). -/
def featureReason (s : State) (w : Window) (p : Part) (base : Nat) (f : Nat × GFeature) : Option (Nat × Nat) :=
  match gwTable s w p base (f.2.table - base) with
  | none => if 256 * p.sixteenths ≤ f.2.table - base || (findTable s f.2.table).isSome then some (nkPermission, f.2.table - base)
      else some (nkVersion, 0xFFFF)
  | some (id, t) => if (readableSlot t f.2.version).isSome && !t.unserved then none else some (nkVersion, currentOr s id)

/-- The reason to refuse update entries: their table, updates disabled, or no room (07 R182, R189). -/
def entryReason (s : State) (w : Window) (p : Part) (base rel : Nat) (gradient : Bool) (n : Nat) : Option (Nat × Nat) :=
  match gwTable s w p base rel with
  | none => some (nkPermission, rel)
  | some (id, t) =>
    if t.paramAddr = 0 || (gradient && t.opt = 0) then some (nkUpdatesDisabled, rel)
    else if diesHave s id t n then none else some (nkCollectFull, rel)

/-- What a message into a gather window is refused for. -/
def gwReason (s : State) (w : Window) (m : RxMsg) : Option (Nat × Nat) := match winPart s m.header with
  | none => some (nkPermission, 0)
  | some (_, base, p) =>
    let b := rxPayload m
    match num b 0 1 with
    | 0 | 1 => firstReason ((gwFeatures base b).map (featureReason s w p base))
    | 4 => match gradsOf s (num m.header 4 2) w.context b with
      | none => some (nkPermission, 0)
      | some g => entryReason s w p base (num b 32 2) true
          ((servedRecs g (base + num b 32 2)).length * entryRoom (4 * num b 40 4))
    | 5 => firstReason ((gwEntriesOf s m base).map fun e => entryReason s w p base (e.table - base) (e.kind = 0) (entryRoom e.payload.length))
    | _ => none

/-- What a whole message's contents are refused for (R178, R383, R385). -/
def contentReason (s : State) (m : RxMsg) : Option (Nat × Nat) :=
  let bad := some (nkPermission, hOffset m.header)
  match m.win with
  | some w =>
    if w.kind = 2 && m.type = tyWrite then gwReason s w m
    else if w.kind != 1 then none
    else if m.type = tyAtomic then
      if (rxEntries s m).all fun e => e.kind = 0 && e.pformat = 0 && e.table = w.table then none else bad
    else if (rxEntries s m).all fun e => e.kind = 3 && e.table = w.table && match windowTable s w with
        | some t => t.pend.st == .loading && e.row < t.rows
        | none => false then none else bad
  | none =>
    if m.type = tyGroup && (num m.header 56 1 = 7 || num m.header 56 1 = 8) &&
      (versionEntries (rxPayload m)).any (fun e => (wireTable s m.header e.1).isNone) then some (nkPermission, 0) else none

/-- Copy entries go to their PENDING records, held while an apply window runs (R178). -/
def takeCopy (e : Entry) (s : State) : State := match findTable s e.table with
  | none => s
  | some t =>
    if (smFind s.tables.windows t.partition).isSome then updTables (fun x => { x with entries := x.entries ++ [e] }) s
    else if t.pend.st == .loading then putPart none t t.pend e.row e.first (beatNo s) (entryVals e) (entryState t e) s else s

/-! ### CHECK_CLEAR and RETRACT (15 R418, R420, R421) -/

/-- Messages of a sender leave the provisional sets; what waited for them goes on. -/
def dropProv (p : Prov → Bool) (s : State) : State :=
  let l := s.integ.prov.filter p
  let keys := l.map fun x => (x.sender, x.tag)
  let s := updInteg (fun g => { g with prov := g.prov.filter fun x => !p x }) s
  touchResolved (fun f => f.prov.any fun d => keys.contains d) s

/-- The replay set of a retraction: in each partition with a retracted message, what was dispatched since the first. -/
def retractSet (s : State) (d c : Nat) : List Nat :=
  let l := s.integ.prov.filter fun x => x.sender = d && c ≤ x.tag && x.gone
  ((l.map (·.part)).eraseDups).flatMap fun p =>
    replaySet s p ((l.filter fun x => x.part = p).foldl (fun m x => min m x.since) (now s))

def retractsOf (s : State) (d : Nat) : List Nat := match findFlow s d with
  | some f => f.retracts
  | none => []

/-- The messages a retraction of c took, and no other open one, leave the provisional set. -/
def dropRetracted (d c : Nat) (s : State) : State :=
  let others := (retractsOf s d).filter (· != c)
  let s := updFlow d (fun f => { f with retracts := others }) s
  dropProv (fun x => x.sender = d && c ≤ x.tag && x.gone && !(others.any fun o => o ≤ x.tag)) s

/-- The second RETRACT of c, or one that comes too late: the replay set completes with RETRACTED. -/
def retractFailed (d c : Nat) (s : State) : State :=
  let set := retractSet s d c
  let gone := s.integ.prov.filter fun x => x.sender = d && c ≤ x.tag && x.gone
  dropRetracted d c (provFailed gone (set.foldl (fun s n => retractFlight n s) s))

/-- Beat edges between the start of a past beat and now. A number that the present period does not place between the last
switch and now is an old one (02 R48). -/
def edgesSince (s : State) (b : Nat) : Nat := match s.beat.lastSwitch with
  | none => beatNo s - b
  | some (at_, old) =>
    if at_ ≤ b * beatNs s && b * beatNs s ≤ now s then beatNo s - b
    else (at_ / old - b) + (beatNo s - at_ / beatNs s)

def onRetract (d : Nat) (h : List Byte) (s : State) : State :=
  let c := hCheck h
  if (retractsOf s d).contains c then retractFailed d c s
  else
    let s := updFlow d (fun f => { f with retracts := f.retracts ++ [c] }) s
    let s := updInteg (fun g => { g with
      prov := g.prov.map fun x => if x.sender = d && c ≤ x.tag then { x with gone := true } else x }) s
    if 2 < edgesSince s (num h 56 8) then retractFailed d c s else s

def onClear (d : Nat) (h : List Byte) (s : State) : State :=
  let lo := hCheck h
  let hi := num h 56 8
  if lo = hi && (retractsOf s d).contains lo then
    let set := retractSet s d lo
    replayAll none d set (dropRetracted d lo s)
  else
    let s := updFlow d (fun f => { f with watermark := max f.watermark hi }) s
    dropProv (fun x => x.sender = d && x.tag ≤ hi && !x.gone) s

/-- The first packet of a provisional message: it joins the provisional set of its window's partition (R416). -/
def noteProv (p : Packet) (part : Option Nat) (s : State) : State := match part, findFlow s (pSrc p) with
  | some q, some f =>
    let tag := hCheck p.header
    if !(groupPeer (pSrc p) && hProv p.header) || tag ≤ f.watermark then s
    else updInteg (fun g => { g with
      prov := g.prov ++ [{
        part := q, sender := pSrc p, tag, edge := s.beat.edges, since := now s, gone := f.retracts.any fun c => c ≤ tag }] }) s
  | _, _ => s

/-! ### Completion effects (R380) -/

/-- The slot of a SEND: bytes 4 to 255, then READY; PROD rises (10 R268). -/
def takeSend (m : RxMsg) (s : State) : State :=
  let h := m.header
  let q := num h 50 2
  if isResponse h then s else
  let w := getQueue s q
  if !(w.netFed && w.life == .enabled) then s else
  let p := (w.prod + 1) % 2 ^ 32
  let b := patch (slice (rxPayload m) 0 256) 0 (le 4 p)
  let s := putVa (regCtx w.sq) (ringBase w.sq + 256 * (w.prod % sqSlots w)) b s
  updQueue q (fun w => { raiseProd p w (now s) with
    origins := smSet w.origins w.prod (num h 4 2, num h 56 4, bit (num h 2 1) 6) }) s

/-- A BEAT_SYNC that passed arms the commit for its beat (R398). -/
def takeSync (m : RxMsg) (s : State) : State :=
  let h := m.header
  let b := rxBeat s h (num h 56 8)
  let v := num h 66 2
  match wireTable s h (num h 64 2) with
  | none => s
  | some id =>
    if s.tables.armed.any fun a => (a.kind = 1 || a.kind = 3) && a.table = id && a.version = v && a.beat = b then s
    else updTables (fun x => { x with armed := x.armed ++ [{
      kind := 3, table := id, version := v, beat := b, flight := none, rfence := none, destroy := false }] }) s

/-- The read a response answers is over. -/
def takeResp (peer : Nat) (m : RxMsg) (s : State) : State := match (findFlow s peer).bind fun f => requestOf f m.header with
  | none => s
  | some q =>
    let s := updFlow peer (fun f => { f with txMsgs := f.txMsgs.erase q }) s
    match q.flight with
    | some n => msgOver n s
    | none => s

/-- A fence named by a DATA_WRITE or an ATOMIC_ADD_F32, by the max rule. -/
def takeFence (h : List Byte) (s : State) : State :=
  let x := num h 61 3
  if bit x 23 then fenceRaise false (x % 2 ^ 18) (num h 64 8) s else s

/-- The sub-port a flow uses, as a source of events. -/
def flowSource (s : State) (peer : Nat) : Nat := srcPort (match findFlow s peer with
  | some f => f.port
  | none => 0)

/-- What a message into a gather window does (06 R174, R176, 07 R188, R190; log 23). -/
def takeGw (peer : Nat) (m : RxMsg) (w : Window) (s : State) : State := match winPart s m.header with
  | none => s
  | some (p, base, _) =>
    let b := rxPayload m
    match num b 0 1 with
    | 0 | 1 => takeKeys peer p base w.context b s
    | 2 | 3 => takeAnswer peer b s
    | 4 => takeGrads peer base w.context (flowSource s peer) (rxBeat s m.header (num b 56 8)) b s
    | 5 => (gwEntriesOf s m base).foldl (fun s e =>
        (collect (flowSource s peer) { e with beat := rxBeat s m.header e.beat } s).1) s
    | _ => s

def effectsOf (peer : Nat) (m : RxMsg) (s : State) : State :=
  let h := m.header
  if m.type = tyWrite || m.type = tyAtomic then
    let s := match m.win with
      | some w => if w.kind = 2 && m.type = tyWrite then takeGw peer m w s
          else if w.kind != 1 then s
          else if m.type = tyAtomic then (rxEntries s m).foldl (fun s e => (collect (flowSource s peer) { e with beat := rxBeat s h e.beat } s).1) s
          else (rxEntries s m).foldl (fun s e => takeCopy e s) s
      | none => s
    takeFence h s
  else if m.type = tySend then takeSend m s
  else if m.type = tyBeatSync && !m.effects then takeSync m s
  else if m.type = tyClear then onClear peer h s
  else if m.type = tyRetract then onRetract peer h s
  else if m.type = tyGroup then groupEffect h (rxPayload m) s
  else s

/-- A message that names beats of the period after a switch still pending here waits for that switch, which would convert
them again (02 R48; log 12). -/
def waitsSwitch (s : State) (m : RxMsg) : Bool := (aheadSwitch s m.header).isSome &&
  (m.type == tyBeatSync || (m.type == tyGroup && (num m.header 56 1 == 1 || num m.header 56 1 == 3)) ||
    ((m.type == tyWrite || m.type == tyAtomic) && match m.win with
      | some w => w.kind != 0
      | none => false))

/-- Every segment has been written. -/
def rxWhole (m : RxMsg) : Bool := match m.last with
  | some l => m.segs.length == l + 1
  | none => false

/-- Completion effects in the order of MSG_SEQ, as far as messages are whole or refused. -/
def runEffects (peer : Nat) : Nat → State → State
  | 0, s => s
  | fuel + 1, s => match findFlow s peer with
    | none => s
    | some f => match f.rxMsgs.find? fun m => m.mseq = f.rxNext with
      | none => s
      | some m =>
        if !(m.refused || rxWhole m) || (!m.refused && waitsSwitch s m) then s
        else
          let done (s : State) : State := updFlow peer (fun f => { f with
            rxMsgs := f.rxMsgs.filter fun x => x.mseq != m.mseq
            rxNext := (f.rxNext + 1) % 2 ^ 32 }) s
          runEffects peer fuel (if m.refused then done s else effectsOf peer m (done s))

/-! ### Sequence and acknowledgement (R379 step 2, R386) -/

/-- The cumulative point moves over what has been written. -/
def advanceCum : Nat → Flow → Flow
  | 0, f => f
  | fuel + 1, f => if f.got.contains f.cum then
      advanceCum fuel { f with
        got := f.got.filter (· != f.cum)
        cum := (f.cum + 1) % 2 ^ 32 }
    else f

/-- One more packet to acknowledge: an ACK for every 4, or within 2 µs. -/
def oweAck (peer : Nat) (s : State) : State := match findFlow s peer with
  | none => s
  | some f =>
    let k := match f.ackDue with
      | some x => x.1
      | none => 0
    if 4 ≤ k + 1 then sendAck peer s
    else updFlow peer (fun f => { f with ackDue := some (k + 1, match f.ackDue with
      | some x => x.2
      | none => now s + 2000) }) s

/-- A packet is written: it counts, and is acknowledged at once when a gap lies below it. -/
def acceptPsn (p : Packet) (s : State) : State :=
  let peer := pSrc p
  let psn := pPsn p
  let s := updFlow peer (fun f => advanceCum 66 { f with
    got := f.got ++ [psn]
    newest := now s
    ce := f.ce || p.ce }) s
  match findFlow s peer with
  | some f => if f.got.contains psn then sendAck peer s else oweAck peer s
  | none => s

/-! ### A reliable packet (R379) -/

/-- The partition that a packet's bytes are metered to (12 R334): its window's, its queue's, or the reader's. -/
def meterPart (s : State) (p : Packet) : Option Nat :=
  let t := pType p
  if t = tySend then queueOwner s (num p.header 50 2)
  else if t = tyReadResp then ((findFlow s (pSrc p)).bind fun f => requestOf f p.header).bind (·.part)
  else if t = tyWrite || t = tyReadReq || t = tyAtomic then windowOwner s (hWin p.header)
  else none

/-- A message's first packet to arrive: its checks, the record of it. Returns whether the packet goes on. -/
def openMsg (p : Packet) (why : Option (Nat × Nat)) (s : State) : State :=
  let t := pType p
  let win := if t = tyWrite || t = tyReadReq || t = tyAtomic then smFind s.mem.windows (hWin p.header) else none
  let part := if win.isSome then windowOwner s (hWin p.header) else none
  let m : RxMsg := {
    mseq := pMseq p, type := t, header := p.header, refused := why.isSome, segs := [], last := none, payload := []
    prov := if hProv p.header then some (hCheck p.header) else none, arrived := now s, effects := false
    win := if why.isSome then none else win, part, denied := none, uncorr := none }
  let s := updFlow (pSrc p) (fun f => { f with rxMsgs := f.rxMsgs ++ [m] }) s
  if why.isSome || (t != tyWrite && t != tyAtomic) then s else noteProv p part s

/-- The holder counts the entries it refuses for want of room (07 R189). -/
def countRefused (p : Packet) (reason : Nat) (s : State) : State :=
  if reason != nkCollectFull then s else
  match smFind s.mem.windows (hWin p.header) with
  | none => s
  | some w =>
    if w.kind = 1 then addParam w.table 104 (refusedEntries s p.header) s
    else match winPart s p.header, (findFlow s (pSrc p)).bind fun f => f.rxMsgs.find? fun m => m.mseq = pMseq p with
      | some (_, base, _), some m =>
        if num (rxPayload m) 0 1 = gwEntries then (gwEntriesOf s m base).foldl (fun s e => addParam e.table 104 1 s) s
        else addParam (base + num (rxPayload m) 32 2) 104 (match gradsOf s (pSrc p) w.context (rxPayload m) with
          | some g => (servedRecs g (base + num (rxPayload m) 32 2)).length
          | none => 1) s
      | _, _ => s

def refuse (p : Packet) (x : Nat × Nat) (s : State) : State :=
  sendNack (pSrc p) (pMseq p) x.1 x.2 (refusalRecord p x.1 (countRefused p x.1 s))

def markRefused (peer mseq : Nat) (s : State) : State :=
  updFlow peer (fun f => { f with
    rxMsgs := f.rxMsgs.map fun y => if y.mseq = mseq then { y with refused := true } else y }) s

/-- A message's effects have been taken. -/
def markTaken (peer mseq : Nat) (s : State) : State :=
  updFlow peer (fun f => { f with
    rxMsgs := f.rxMsgs.map fun y => if y.mseq = mseq then { y with effects := true } else y }) s

/-- A segment is kept in its message: its index, and its bytes where they are needed whole. -/
def keepSegment (p : Packet) (s : State) : State :=
  updFlow (pSrc p) (fun f => { f with
    rxMsgs := f.rxMsgs.map fun m => if m.mseq = pMseq p then { m with
      segs := if m.segs.contains (pSeg p) then m.segs else m.segs ++ [pSeg p]
      last := if pLast p then some (pSeg p) else m.last
      payload := if m.refused then m.payload
        else if m.type = tySend || m.type = tyGroup || (match m.win with | some w => w.kind == 1 || (w.kind == 2 && m.type == tyWrite) | none => false)
        then m.payload ++ [(segOffset p, p.payload)] else m.payload } else m }) s

/-- The records of what a whole message's accesses met, one of each kind (09 R494). -/
def placeRx (peer sub : Nat) (m : RxMsg) (s : State) : State := match m.win with
  | none => s
  | some w =>
    let base : FaultRec := {
      stamp := now s, context := w.context, status := 0, atype := 0, write := m.type != tyReadReq, remote := true, peer
      window := hWin m.header, source := srcPort sub }
    let q := m.part.getD devPart
    let s := match m.denied with
      | some (pa, n) =>
        let s := emit (srcChan (chanOf s pa)) evAccessDenied q
          [(20, 2, w.context), (22, 1, b2n base.write), (24, 8, frameOf pa)] s
        faultPut m.part { base with
          status := stAccessDenied
          source := srcChan (chanOf s pa)
          address := vaOfPa s.mem.extents w.context pa
          detail := n } s
      | none => s
    match m.uncorr with
    | some (pa, n) =>
      let s := emit (srcChan (chanOf s pa)) evMemUncorrectable q [(24, 8, frameOf pa)] s
      faultPut m.part { base with
        status := stMemUncorrectable
        source := srcChan (chanOf s pa)
        address := vaOfPa s.mem.extents w.context pa
        detail := n } s
    | none => s

/-- Answer a read request: its data, or NACK MEMORY when a granule is uncorrectable (R381). -/
def answerRead (p : Packet) (m : RxMsg) (s : State) : State := match m.win with
  | none => s
  | some w =>
    let h := p.header
    let a := readVa s w.context (w.base + hOffset h) (num h 64 4)
    let s := noteRx m.mseq (pSrc p) a s
    if a.uncorr.isSome then sendNack (pSrc p) m.mseq nkMemory (hOffset h) s
    else sendMsg (pSrc p) {
      type := tyReadResp
      lc := bit (num h 2 1) 0
      part := m.part
      context := w.context
      spec := [(56, 4, m.mseq)]
      payload := slice a.data 0 (num h 64 4)
      mem := some (w.context, w.base + hOffset h) } s

/-- A message whose last segment has been written: its contents are checked; reads are answered, syncs armed. -/
def closeMsg (p : Packet) (s : State) : State :=
  let peer := pSrc p
  match (findFlow s peer).bind fun f => f.rxMsgs.find? fun m => m.mseq = pMseq p with
  | none => s
  | some m =>
    if m.refused || !rxWhole m then s
    else match contentReason s m with
      | some x => markRefused peer m.mseq (refuse p x s)
      | none =>
        let s := if m.type = tyReadReq then answerRead p m s
          else if m.type = tyBeatSync && !waitsSwitch s m then markTaken peer m.mseq (takeSync m s)
          else if m.type = tyReadResp then takeResp peer m s
          else s
        match (findFlow s peer).bind fun f => f.rxMsgs.find? fun m => m.mseq = pMseq p with
        | some m => placeRx peer p.sub m s
        | none => s

/-- Steps 3 to 5 of R379 for a packet that is new. -/
def takePacket (p : Packet) (s : State) : State :=
  let peer := pSrc p
  let known := (findFlow s peer).bind fun f => f.rxMsgs.find? fun m => m.mseq = pMseq p
  let group := (groupReason s p).map fun r => (r, 0)
  let why := match known with
    | some m => if m.refused then none else group
    | none => match group with
      | some x => some x
      | none => messageReason s p
  match why with
  | some (r, d) =>
    -- QUEUE_FULL counts as a lost packet: it is not acknowledged (R387)
    if r = nkQueueFull then sendNack peer (pMseq p) r d s
    else
      let s := if r = nkConfig then configNack peer (num p.header 8 4) (num p.header 12 4) s else s
      let s := refuse p (r, d) s
      let s := if known.isSome then markRefused peer (pMseq p) s else openMsg p why s
      runEffects peer 66 (acceptPsn p (keepSegment p s))
  | none =>
    let s := if known.isSome then s else openMsg p none s
    let refused := match (findFlow s peer).bind fun f => f.rxMsgs.find? fun m => m.mseq = pMseq p with
      | some m => m.refused
      | none => false
    let s := if refused then s else
      (match meterPart s p with
        | some q => meterNet q p.payload.length (writeSegment p s)
        | none => writeSegment p s)
    let s := closeMsg p (keepSegment p s)
    runEffects peer 66 (acceptPsn p s)

/-- A SYN packet sets the cumulative point and discards partial messages; whole ones that waited behind them have their
effects. One whose PSN has been received is a duplicate and sets nothing (R389, R379 step 2; log 81). -/
def takeSyn (p : Packet) (s : State) : State := match findFlow s (pSrc p) with
  | none => s
  | some f =>
    if !bit (pFlags p) 3 || 2 ^ 31 ≤ ahead (pPsn p) f.cum || f.got.contains (pPsn p) then s
    else
      let whole := insertSort (fun (x y : RxMsg) => decide (ahead x.mseq f.rxNext < ahead y.mseq f.rxNext))
        (f.rxMsgs.filter fun m => rxWhole m && !m.refused)
      let s := updFlow (pSrc p) (fun f => { f with
        cum := pPsn p
        got := []
        rxMsgs := []
        rxNext := pMseq p }) s
      whole.foldl (fun s m => effectsOf (pSrc p) m s) s

def reliablePacket (p : Packet) (s : State) : State :=
  let s := takeSyn p s
  match findFlow s (pSrc p) with
  | none => s
  | some f =>
    let d := ahead (pPsn p) f.cum
    if 2 ^ 31 ≤ d || f.got.contains (pPsn p) then oweAck (pSrc p) s
    else if 65 ≤ d then s
    else takePacket p s

/-! ### A packet arrives -/

/-- A packet of the row's kind arrives at a sub-port (R379). A Flochasel packet ends S1 (18 R466). -/
def receive (kind : Packet → Bool) (p : Packet) (s : State) : State :=
  if !subUp s p.sub || num p.header 0 1 != 1 || !kind p then s
  else if !authentic s p then
    updSub p.sub (fun w => { w with authDrop := satAdd 32 w.authDrop 1 }) (if s.power.state == .s1 then wake 2 s else s)
  else
    let x := segTouch s p
    afterSnoops x.1 x.2 (fun s =>
      let s := if s.power.state == .s1 then wake 2 s else s
      let cls := if ctlType (pType p) then 0 else if bit (pFlags p) 0 then 1 else 2
      let s := noteAuth p (drainRx p.sub cls p.payload.length s)
      if pType p = tyAck then takeAck (pSrc p) p.header s
      else if pType p = tyNack then takeNack (pSrc p) p.header s
      else reliablePacket p s) s

def ofType (t : Nat) (p : Packet) : Bool := pType p == t
def ofGroup (op : Nat) (p : Packet) : Bool := pType p == tyGroup && num p.header 56 1 == op

def execDataWrite (p : Packet) (s : State) : Res := .next (receive (ofType tyWrite) p s)
def execDataReadReq (p : Packet) (s : State) : Res := .next (receive (ofType tyReadReq) p s)
def execDataReadResp (p : Packet) (s : State) : Res := .next (receive (ofType tyReadResp) p s)
def execSend (p : Packet) (s : State) : Res := .next (receive (ofType tySend) p s)
def execAtomicAddF32 (p : Packet) (s : State) : Res := .next (receive (ofType tyAtomic) p s)
def execCheckClear (p : Packet) (s : State) : Res := .next (receive (ofType tyClear) p s)
def execRetract (p : Packet) (s : State) : Res := .next (receive (ofType tyRetract) p s)
def execBeatSync (p : Packet) (s : State) : Res := .next (receive (ofType tyBeatSync) p s)
def execJoinReq (p : Packet) (s : State) : Res := .next (receive (ofGroup 0) p s)
def execJoinAccept (p : Packet) (s : State) : Res := .next (receive (ofGroup 1) p s)
def execJoinRefuse (p : Packet) (s : State) : Res := .next (receive (ofGroup 2) p s)
def execConfigPush (p : Packet) (s : State) : Res := .next (receive (ofGroup 3) p s)
def execMemberUp (p : Packet) (s : State) : Res := .next (receive (ofGroup 4) p s)
def execLeave (p : Packet) (s : State) : Res := .next (receive (ofGroup 5) p s)
def execGroupMismatch (p : Packet) (s : State) : Res := .next (receive (ofGroup 6) p s)
def execVersionQuery (p : Packet) (s : State) : Res := .next (receive (ofGroup 7) p s)
def execVersionReply (p : Packet) (s : State) : Res := .next (receive (ofGroup 8) p s)
def execAck (p : Packet) (s : State) : Res := .next (receive (ofType tyAck) p s)
def execNack (p : Packet) (s : State) : Res := .next (receive (ofType tyNack) p s)

end Sys2Proof.Machine
end

