-- ==== Sys2Proof/Machine/Beats.lean ====
section
/-! DEFINITION. The beat head (02 R45 to R52): billing (12 R335, R336), the power manager's budgets and clock steps (R323 to
R325, R332), armed configuration and the transitions of R337 and R338, the partition reset of 18 R473, the period switch. -/

namespace Sys2Proof.Machine

/-! ### The instant of an edge -/

/-- The beat edge to take next: the edge of the present beat, or the one after the edge taken last. -/
def nextEdge (s : State) : Nat :=
  let cand := now s / beatNs s * beatNs s
  match s.beat.edge with
  | some l => if cand ≤ l then cand + beatNs s else cand
  | none => if now s % beatNs s = 0 then cand else cand + beatNs s

/-- A period switch due at or before an edge goes first (R47). -/
def switchFirst (s : State) (e : Nat) : Bool := match s.beat.switch with
  | some w => w.at_ ≤ e
  | none => false

/-! ### Step 3: billing (12 R335, R336) -/

/-- Work that straddles the edge is split there: the tile time of running instances is metered up to now. -/
def meterRuns (s : State) : State :=
  let s' := s.tiles.foldl (fun acc t => match t.2.run with
    | some r => match findFlight s r.flight with
      | some f => updPart f.part (fun p => { p with beat := { p.beat with
          tileNs := p.beat.tileNs + (now s - r.meter) * (runTiles s t.1).length } }) acc
      | none => acc
    | none => acc) s
  { s' with tiles := smMap s'.tiles fun _ t => { t with run := t.run.map fun r => { r with meter := now s } } }

def billBytes (s : State) (beat p : Nat) (w : Part) (rseq : Nat) (phase : Bool) : List Byte :=
  rec_ 64 [(0, 8, beat), (8, 1, p), (9, 1, b2n (degraded s) + 2 * b2n w.resizing), (12, 4, w.beat.energy), (16, 8, w.beat.tileNs),
    (24, 8, w.beat.hbm), (32, 8, w.beat.d2d), (40, 8, w.beat.host), (48, 8, w.beat.net), (56, 4, min w.beat.keys 0xFFFFFFFF),
    (62, 1, rseq), (63, 1, b2n phase)]

/-- A billing record goes into the ring, or is counted in OVERFLOW or LOST (R336). -/
def billPut (beat p : Nat) (w : Part) (s : State) : State :=
  let q := s.mem.bill
  if !q.valid then updMem (fun m => { m with bill := { q with lost := satAdd 32 q.lost 1 } }) s
  else if 4096 ≤ (q.tail + 2 ^ 32 - q.head) % 2 ^ 32 then
    updMem (fun m => { m with bill := { q with overflow := satAdd 32 q.overflow 1 } }) s
  else
    let s := putVa (ringCtx q) (ringVa q + 64 * (q.tail % 4096)) (billBytes s beat p w q.rseq (q.tail / 4096 % 2 = 0)) s
    updMem (fun m => { m with bill := { q with
      tail := (q.tail + 1) % 2 ^ 32
      rseq := (q.rseq + 1) % 256 } }) s

def addMeters (a b : Meters) : Meters :=
  let w64 (x y : Nat) : Nat := (x + y) % 2 ^ 64
  { energy := w64 a.energy b.energy, tileNs := w64 a.tileNs b.tileNs, hbm := w64 a.hbm b.hbm, d2d := w64 a.d2d b.d2d
    host := w64 a.host b.host, net := w64 a.net b.net, keys := w64 a.keys b.keys }

/-- The counters of the beat before `n` close, partitions ascending. -/
def billBeat (n : Nat) (s : State) : State :=
  (smKeys s.sched.parts).foldl (fun s p => match findPart s p with
    | some w => updPart p (fun w => { w with
        total := addMeters w.total w.beat
        beat := {} }) (billPut (n - 1) p w s)
    | none => s) (meterRuns s)

/-! ### Step 4: energy budgets and clock steps (12 R323 to R325, R332) -/

/-- Hottest of a die's 64 sensors in the latest samples, in m°C. -/
def hottestNow (s : State) (d : Nat) : Int :=
  ((s.tele.sensors.filter fun x => x.1 / 64 == d && x.1 < 256).map (·.2)).foldl max (smGet s.tele.sensors 0 (64 * d))

/-- Hottest reading of the beat that ended; the latest samples where it had none. -/
def hottest (s : State) (d : Nat) : Int := (smFind s.tele.hot d).getD (hottestNow s d)

def protect (s : State) (d : Nat) : Bool := s.power.protect.toNat.testBit d

/-- f_d × 16 (R323; 4 in the protective thermal state, 19 R486). -/
def thermal16 (s : State) (d : Nat) : Nat :=
  if protect s d then 4 else 16 - (max 0 (min 8 (hottest s d / 1000 - 87))).toNat

/-- LIMIT_W for this beat: at most 900 in brownout (19 R481). -/
def limitNow (s : State) : Nat := if s.beat.brownout then min s.sched.limitW 900 else s.sched.limitW

/-- BROWNOUT: the input reads below 46 V at a beat head (19 R481). -/
def brownoutNow (s : State) : Bool := match smFind s.tele.sensors 0x102 with
  | some v => v < 46000
  | none => false

def setBrownout (s : State) : State :=
  let b := brownoutNow s
  updPower (fun p => { p with brownout := b }) (updBeat (fun x => { x with brownout := b }) s)

/-- E_part in µJ: the limit over the beat less the energy charged to no partition and 1 % of the beat's energy. -/
def energyPart (s : State) (devUj : Nat) : Nat :=
  let e := limitNow s * s.beat.periodUs
  e - (devUj + e / 100)

def viewShare (s : State) (p : Nat) (w : Part) : Nat :=
  if w.share = 0 then 256 * (sixteenthsView s p w).2 else w.share

def sumShares (s : State) : Nat := s.sched.parts.foldl (fun n x => n + viewShare s x.1 x.2) 0

/-- B'_p: the partition's share, scaled by the mean thermal factor of its sixteenths. -/
def budgetOf (s : State) (ePart p : Nat) (w : Part) : Nat :=
  let v := sixteenthsView s p w
  let b := ePart * viewShare s p w / max 4096 (sumShares s)
  let f := (blocksOf v.1 v.2).foldl (fun n i => n + thermal16 s (i / 4)) 0
  b * f / (16 * v.2)

/-- The new beat's budget, available energy and reserve of one partition (R323, R324). -/
def openBudget (b : Nat) (w : Part) : Part :=
  let a0 : Nat := if w.carry then min (4 * b) (b + w.avail.toNat) else b
  let pay := min w.debt a0
  { w with
    budget := b
    avail := ((a0 - pay : Nat) : Int)
    reserve := b * w.lcPercent / 100
    lcUsed := 0
    debt := w.debt - pay
    held := false
    charged := 0 }

/-- The spare pool (R325). -/
def sparePool (s : State) (ePart : Nat) : Nat :=
  if !s.sched.spareEn then 0
  else (s.sched.parts.foldl (fun n x => if x.2.carry then n else n + x.2.avail.toNat) 0) +
    ePart * (4096 - sumShares s) / 4096

/-- Work that waits for admission is looked at again in a new beat; a kernel's charge is that of the beat of its admission
(R327, R330). -/
def reopenReady (s : State) (r : Ready) : Ready :=
  { r with
    hold := false
    charge := match findPart s r.part with
      | some p => if r.kernel && !r.admitted then kernelCharge s p r.slot else r.charge
      | none => r.charge }

/-- Budgets of every partition that exists, and the spare pool; what was held is looked at again. -/
def openBudgets (ePart : Nat) (s : State) : State :=
  let spare := sparePool s ePart
  let parts := smMap s.sched.parts fun p w => openBudget (budgetOf s ePart p w) w
  let s := updSched (fun c => { c with
    parts
    spare
    stages := c.stages.map fun x => { x with ready := reopenReady s x.ready } }) s
  { s with queues := smMap s.queues fun _ q => { q with ready := q.ready.map (reopenReady s) } }

/-- Clock step of a die for the new beat, from the beat that ended (R332; log 51). -/
def nextStep (s : State) (d : Nat) : Nat :=
  let o := clockStep s d
  let ps := (s.sched.parts.filter fun x => (partDies x.2).contains d).map (·.2)
  let held := ps.any (·.held)
  let budgets := ps.foldl (fun n w => n + w.budget) 0
  let charged := ps.foldl (fun n w => n + w.charged) 0
  let n := if 90000 ≤ hottest s d || held then o - 1
    else if thermal16 s d = 16 && 4 * charged ≤ 3 * budgets then o + 1 else o
  max s.sched.clockMin (min s.sched.clockMax n)

/-- One die at step 4: it leaves the protective state, or takes its clock step; its factor is kept. -/
def stepDie (s0 : State) (s : State) (d : Nat) : State :=
  let leaves := protect s0 d && hottestNow s0 d ≤ 90000
  let new := if leaves then s0.sched.clockMin else if protect s0 d then clockStep s0 d else nextStep s0 d
  let s := if leaves then
      emit srcPower evThermalProtect devPart [(20, 1, d), (21, 1, 0), (24, 4, unsignedOf 32 (hottestNow s0 d))]
        (updPower (fun p => { p with protect := p.protect &&& ~~~ (BitVec.ofNat 32 (2 ^ d)) }) s)
    else s
  let s := if new = clockStep s0 d then s
    else emit srcPower evClockStep devPart [(20, 1, d), (21, 1, clockStep s0 d), (22, 1, new)] s
  updSched (fun c => { c with
    steps := smSet c.steps d new
    thermal := smSet c.thermal d (thermal16 s0 d) }) s

def stepDies (s : State) : State := (List.range 4).foldl (stepDie s) s

/-! ### Step 5: removals of sixteenths (12 R338, 18 R473) -/

/-- Identifiers of a sixteenth, `per` of them to each (09 R234, 10 R260, R286). -/
def inBlocks (bs : List Nat) (per i : Nat) : Bool := bs.contains (i / per)

/-- Commands with an instance running on a tile of the sixteenths. -/
def tileTops (s : State) (bs : List Nat) : List Nat :=
  (s.tiles.filterMap fun t => if bs.contains (tileSixteenth t.1) then
    t.2.run.bind fun r => (findFlight s r.flight).map topFlight else none).eraseDups

def blockContexts (s : State) (bs : List Nat) : List Nat :=
  ((s.mem.extents.map (·.2.context) ++ s.flights.map (·.context)).filter fun c => inBlocks bs 4096 c).eraseDups

/-- Remaining extents of the partition over a frame of a removed stack, or under a removed key domain. -/
def lostExtents (s : State) (p : Nat) (bs : List Nat) : List Nat :=
  (s.mem.extents.filter fun x => contextOwner s x.2.context == some p &&
    (inBlocks bs 64 x.2.keyDomain ||
      bs.any fun k => x.2.paFrame * frameBytes < stackPa k stackBytes && stackPa k 0 < (x.2.paFrame + x.2.lenFrames) * frameBytes)
    ).map (·.1)

/-- Tables of the removed block are destroyed with their versions. -/
def destroyTables (bs : List Nat) (s : State) : State :=
  updTables (fun x => { x with
    tab := smFilter x.tab fun i _ => !inBlocks bs 256 i
    prepBeat := smFilter x.prepBeat fun i _ => !inBlocks bs 256 i
    served := x.served.filter fun w => !(w.features.any fun f => inBlocks bs 256 f.2.table)
    targets := x.targets.filter fun y => !inBlocks bs 256 y.2.1
    entries := x.entries.filter fun e => !inBlocks bs 256 e.table
    params := smFilter x.params fun i _ => !inBlocks bs 256 i
    counts := smFilter x.counts fun i _ => !inBlocks bs 256 i }) s

/-- Monitors of removed queues and channels go, then the youngest ones beyond the new quota (17 R450). -/
def trimMonitors (p : Nat) (bs : List Nat) (quota : Nat) (s : State) : State :=
  updTele (fun t =>
    let l := t.monitors.filter fun m => !(m.owner == some p &&
      ((m.kind == 0 && inBlocks bs 4096 m.index) || (m.kind == 2 && inBlocks bs 16 m.index)))
    let x := l.foldl (fun (x : List Monitor × Nat) m =>
      if m.owner != some p then (x.1 ++ [m], x.2) else if x.2 < quota then (x.1 ++ [m], x.2 + 1) else x) ([], 0)
    { t with monitors := x.1 }) s

/-- A partition reset zeroes the scratchpads of its tiles and clears their persistent streams (05 R130, R137). -/
def wipeTile (w : Tile) : Tile := { w with
  context := none
  spad := []
  streams := []
  resident := [] }

def wipeTiles (bs : List Nat) (s : State) : State :=
  ((smKeys s.tiles).filter fun t => bs.contains (tileSixteenth t)).foldl (fun s t => updTile t wipeTile s) s

/-- Client flow keys of removed sixteenths are cleared (14 R375). -/
def keylessIn (bs : List Nat) (x : Nat) (f : Flow) : Flow :=
  if clientPeer x && bs.contains ((x - 0x1000) / 0x0F00) then
    { f with
      tx := none
      rx := [] }
  else f

/-- The partition reset of some sixteenths (R338): `quota` monitors may stay. -/
def resetBlocks (p : Nat) (bs : List Nat) (quota : Nat) (s : State) : State :=
  let s := (tileTops s bs).foldl (fun s n => discardFlight n s) s
  let qs := (s.queues.filter fun q => inBlocks bs 4096 q.1 && q.2.life != .disabled).map (·.1)
  let s := qs.foldl (fun s q => queueResetNow q s) s
  let s := updMem (fun m => { m with windows := smFilter m.windows fun w _ => !inBlocks bs 256 w }) s
  let s := (blockContexts s bs).foldl (fun s c => retireEnd c (retireStart c none s)) s
  let s := revokeExtents (lostExtents s p bs) none s
  let s := ((smKeys s.sec.keyDomains).filter fun k => inBlocks bs 64 k).foldl (fun s k => eraseDomain k s) s
  let s := updMem (fun m => { m with owners := smFilter m.owners fun f _ => !bs.contains (stackOf (f * frameBytes)) }) s
  let s := { s with fences := smFilter s.fences fun f _ => !inBlocks bs 16384 f }
  let s := destroyTables bs s
  let s := updNet (fun n => { n with flows := smMap n.flows (keylessIn bs) }) s
  trimMonitors p bs quota (wipeTiles bs s)

/-- A partition removed whole loses its armed set and its fault queue too (R338, R473). -/
def resetWhole (p : Nat) (s : State) : State :=
  let s := updSched (fun c => { c with sets := smDel c.sets p }) s
  let s := updTele (fun t => { t with monitors := t.monitors.filter fun m => m.owner != some p }) s
  updMem (fun m => { m with faultqs := smDel m.faultqs p }) s

/-- Beat N + 1 of a removal. -/
def removalReset (r : Removal) (s : State) : State := match findPart s r.part with
  | none => s
  | some w =>
    let left := match r.add with
      | some x => x.2
      | none => w.sixteenths - r.blocks.length
    let s := resetBlocks r.part r.blocks (256 * left) s
    if left = 0 then resetWhole r.part s else s

/-- Beat N + 2: the sixteenths are free; what takes their place is added (R338). -/
def removalFree (r : Removal) (s : State) : State := match findPart s r.part with
  | none => s
  | some w => match r.add with
    | some (first, n) => updPart r.part (fun w => { w with
        first
        sixteenths := n
        qmap := r.qmap
        resizing := false }) s
    | none =>
      if r.blocks.length = w.sixteenths then updSched (fun c => { c with parts := smDel c.parts r.part }) s
      else updPart r.part (fun w => { w with
        sixteenths := w.sixteenths - r.blocks.length
        qmap := r.qmap
        resizing := false }) s

/-- The removals at this edge: those begun one edge ago reset, those begun two edges ago end. -/
def removalsStep5 (s : State) : State :=
  s.sched.removals.foldl (fun s r =>
    let s := if r.stage == 0 && r.edge + 1 ≤ s.beat.edges then removalReset r s else s
    if r.edge + 2 ≤ s.beat.edges then removalFree r s else s)
    (updSched (fun c => { c with removals := (c.removals.filter fun r => s.beat.edges < r.edge + 2).map fun r =>
      if r.edge + 1 ≤ s.beat.edges then { r with stage := 1 } else r }) s)

/-- Sets whose transition has ended complete their CONFIG_ARM (R338). -/
def endTransitions (s : State) : State :=
  ([devSet] ++ List.range 16).foldl (fun s i => match (getSet s i).ends with
    | some (e, n) => if e ≤ s.beat.edges then finishFlight n 0 (updSet i (fun c => { c with ends := none }) s) else s
    | none => s) s

/-! ### The period switch (02 R47, R48) -/

/-- An old beat number as named under the new period: only starts at or after S convert. -/
def convBeat (old new at_ b : Nat) : Nat := if at_ ≤ b * old then ceilDiv (b * old) new else b

def convertTables (f : Nat → Nat) (x : Tables) : Tables :=
  { x with
    targets := x.targets.map fun y => (f y.1, y.2)
    armed := x.armed.map fun a => { a with beat := f a.beat }
    prepBeat := smMap x.prepBeat fun _ b => f b
    entries := x.entries.map fun e => { e with beat := f e.beat }
    merged := x.merged.map fun m => (m.1, m.2.1, f m.2.2)
    closed := x.closed.map fun c => (c.1, f c.2)
    windows := smMap x.windows fun _ w => { w with beat := f w.beat } }

def convertGroup (f : Nat → Nat) (g : Group) : Group :=
  { g with
    joinAt := g.joinAt.map f
    joinBeat := f g.joinBeat
    configBeat := f g.configBeat
    push := g.push.map fun x => (x.1, f x.2)
    accepted := g.accepted.map fun x => (x.1, f x.2) }

/-- The switch: sets named for later beats are cancelled, beats held for the future convert, windows of the monitors close,
and the new period governs. `taken`: the edge at S has been taken under the old period, so the new head waits for the next. -/
def switchNow (s : State) : State := match s.beat.switch with
  | none => s
  | some w =>
    let old := beatNs s
    let new := w.periodUs * 1000
    let taken : Bool := match s.beat.edge with
      | some l => decide (w.at_ ≤ l)
      | none => false
    let s := cancelSets w.at_ s
    let f := convBeat old new w.at_
    let s := updGroup (convertGroup f) (updTables (convertTables f) s)
    let s := monitorsSwitch (max (now s) w.at_ / new) s
    let s := groupDigest (updBeat (fun b => { b with
      periodUs := w.periodUs
      headUs := if taken then b.headUs else w.headUs
      nextHeadUs := if taken then some w.headUs else none
      switch := none
      lastSwitch := some (w.at_, old) }) s)
    -- messages that named beats of this period already have their effects now
    s.net.flows.foldl (fun s f => runEffects f.1 66 s) s

/-! ### The rows -/

/-- A set due, or update entries to apply, end S1 (18 R466). -/
def wakeForBeat (s : State) : State :=
  if s.power.state == .s1 && (!(dueSets s).isEmpty || s.tables.entries.any fun e => e.beat ≤ beatNo s) then wake 8 s else s

/-- The TRNG seeds the sampling streams at a beat head (15 R402): a reseeding that a failed health test began has ended, and
its failure is not followed directly by another (DESIGN CHOICE, log 102). -/
def seedStreams (s : State) : State :=
  let s := updInteg (fun g => { g with draws := [] }) s
  if s.sec.trng = 1 then updSec (fun c => { c with
    trng := 0
    trngFails := 0 }) s else s

/-- Steps 1 to 3 at an edge. -/
def edgeBegin (e : Nat) (s : State) : State :=
  let s := advance e s
  let s := updBeat (fun b => { b with
    edge := some e
    edges := b.edges + 1
    headUs := b.nextHeadUs.getD b.headUs
    nextHeadUs := none
    inHead := true
    paused := true }) s
  let s := advance (e + 25) (wakeForBeat s)
  suppressedBeat (monitorsBeat (seedStreams (billBeat (beatNo s) s)))

/-- Step 4 but for the budgets, which need the partitions that step 5 leaves. -/
def edgePower (e : Nat) (s : State) : State :=
  let s := setBrownout (advance (e + 200) s)
  stepDies ((dueItems s).foldl (fun s i => applyPower i s) s)

/-- SCHED.CTRL as written takes force (12 R322). -/
def schedCtrlNow (s : State) : State := match s.sched.ctrlNext with
  | none => s
  | some v => updSched (fun c => { c with
      beMaxUs := v.toNat % 65536
      spareEn := v.toNat.testBit 16
      ctrlNext := none }) s

/-- A partition's new primary function sees its fault queue with VECTOR clamped to that function's vectors (13 R342). -/
def clampVectors (s : State) : State :=
  updMem (fun m => { m with
    faultqs := smMap m.faultqs fun p r => { r with vector := min r.vector (vecCount (primaryFunc s p) - 1) } }) s

/-- Step 5. -/
def edgeConfig (e : Nat) (s : State) : State :=
  let s := clampVectors (applySets e (removalsStep5 (advance (e + 500) s)))
  let s := if switchFirst s e then switchNow s else s
  redigest (tilesBeatHead (tablesStep5 (groupStep5 (schedCtrlNow (endTransitions s)))))

/-- BEAT_EDGE: one beat edge with steps 1 to 6 of the head, as one step of the model. `devEnergyUj` is the measured energy
of the ended beat that is charged to no partition. -/
def execBeatEdge (devEnergyUj : Nat) (s : State) : Res :=
  let e := nextEdge s
  doWhen (cpOn s && !switchFirst s e)
    (let s := edgePower e (edgeBegin e s)
     let ePart := energyPart s devEnergyUj
     let s := updTele (fun t => { t with hot := [] }) (openBudgets ePart (edgeConfig e s))
     settle (tablesStep6 (advance (e + 1500) s))) s

/-- ADMISSION_RESUME, at beat N + 2 µs (R50 step 7). -/
def execAdmissionResume (s : State) : Res := match s.beat.edge with
  | some e => doWhen (cpOn s && s.beat.paused) (admitReady (updBeat (fun b => { b with paused := false }) (advance (e + 2000) s))) s
  | none => .next s

/-- BEAT_HEAD_END: gathers held for an apply that has finished are released; an apply still running overruns (R50, R52). -/
def execBeatHeadEnd (s : State) : Res := match s.beat.edge with
  | some e => doWhen (cpOn s && s.beat.inHead && !s.beat.paused)
      (releaseGathers (overrunEvents (updBeat (fun b => { b with inHead := false }) (advance (e + headNs s) s)))) s
  | none => .next s

/-- BEAT_PERIOD_SWITCH at S, once every earlier edge has been taken (R48). -/
def execBeatPeriodSwitch (s : State) : Res := match s.beat.switch with
  | some w => doWhen (!cpOn s || w.at_ ≤ nextEdge s) (switchNow (advance w.at_ s)) s
  | none => .next s

end Sys2Proof.Machine
end

