-- ==== Sys2Proof/Machine/Power.lean ====
section
/-! DEFINITION. Power states, resets and the boot (18 R464 to R475, 16 R430 to R438), Clover's comparators (02 R56, R57), the
supply and thermal trips (19 R481, R485 to R487). -/

namespace Sys2Proof.Machine

/-! ### What survives (18 R471, R473) -/

/-- The width data of a tile that flash keeps. -/
def flashTile (t : Tile) : Tile :=
  { width := t.width, retired := t.retired, laneFault := t.laneFault, bypass := t.bypass, quarTimes := t.quarTimes }

/-- The map of a stack that flash keeps. -/
def flashStack (x : Stack) : Stack := { out := x.out, reduced := x.out.isSome, retired := x.retired }

def flashSec (c : Sec) : Sec :=
  { minSvn := c.minSvn, preferred := c.preferred, unlockMinSvn := c.unlockMinSvn, images := c.images
    failedSlot := c.failedSlot, replace := c.replace }

/-- Channels that a stack map leaves out stay out. -/
def outChannels (s : State) : SMap Channel :=
  (smFilter s.mem.channels fun _ w => w.st == .mappedOut || w.st == .dead).map fun x => (x.1, { st := x.2.st })

/-- The state after the loss of all power: flash alone, with the model's own fields. -/
def powerLost (s : State) : State :=
  { State.reset with
    pending := s.pending
    freeCtr := s.freeCtr
    out := s.out
    sec := flashSec s.sec
    tiles := smMap s.tiles fun _ t => { flashTile t with quarTimes := t.quarTimes.map fun _ => 0 }
    mem := { State.reset.mem with
      hbm := smMap s.mem.hbm fun _ x => flashStack x
      channels := outChannels s } }

/-- The state after a loss of every supply but Clover's: Clover, the MOD and PWR registers and HOST.PF_CTRL stay (R471). -/
def coldState (s : State) : State :=
  let k := powerLost s
  { k with
    clock := s.clock
    clover := s.clover
    power := { s.power with
      target := .s0
      state := .s0
      entering := false
      ready := false
      waking := false
      moduleFault := none }
    link := { k.link with
      perstMode := s.link.perstMode
      biTimeoutMs := s.link.biTimeoutMs }
    sec := { k.sec with testPort := s.sec.testPort }
    tiles := smMap s.tiles fun _ t => flashTile t }

/-- A cold reset with its LAST_RESET code: the boot that follows ends with BOOT_READY. -/
def coldReset (code : Nat) (s : State) : State :=
  updPower (fun p => { p with
    rails := .on
    lastReset := code }) (coldState s)

/-! ### Warm reset (18 R472, R473) -/

/-- Writes that channels have accepted complete; other requests are dropped. -/
def drainChannels (s : State) : State :=
  let l := s.mem.channels.flatMap fun c => (c.2.queue.filter (·.write)).map fun r => (c.1, r)
  let s := l.foldl (fun s x => if isWriteBack x.2 then serveWriteBack x.2 s else serveWrite x.2 s) s
  updMem (fun m => { m with
    channels := smMap m.channels fun _ c => { c with
      queue := []
      last := none }
    done := []
    tagWaits := [] }) s

/-- Collected entries that no window applied count in STALE of their tables (R473). -/
def staleEntries (s : State) : State :=
  updTables (fun x => { x with
    entries := []
    merged := []
    closed := []
    windows := [] }) (s.tables.entries.foldl (fun s e => addParam e.table 112 1 s) s)

/-- What of a tile a warm reset keeps: width data, tests, stress and ages. -/
def warmTile (t : Tile) : Tile :=
  { flashTile t with
    quarantined := t.quarantined
    gen := t.gen
    widthNext := t.widthNext
    returning := t.returning
    ageStart := t.ageStart
    lastPass := t.lastPass
    forced := t.forced
    withdrawn := t.withdrawn
    stress := t.stress }

/-- Transmission stops; keys and reception stay, and the next packet carries SYN (14 R389). -/
def warmFlow (f : Flow) : Flow :=
  { f with
    txMsgs := []
    pkts := []
    ackDue := none
    provTag := none
    syn := true }

/-- The former group is left at the first beat head (R475; log 50). -/
def warmGroup (g : Group) : Group :=
  if g.gstate = 0 then { g with joining := none, joinAt := none, queries := [], syncs := [] }
  else
    { g with
      gstate := 3
      leave := some none
      joining := none
      joinAt := none
      push := none
      pushFlight := none
      accepted := []
      queries := []
      syncs := [] }

/-- The hub resets, but for Clover, hub SRAM and the boot recorder: the host link goes down with its functions. -/
def warmLink (t : Nat) (k : Link) : Link :=
  { perstMode := k.perstMode, biTimeoutMs := k.biTimeoutMs
    attach := { k.attach with
      downTsc := if k.up then t else k.attach.downTsc
      next := k.attach.next ||| 4 ||| (if k.up then 1 else 0) } }

def warmQueues (s : State) : State :=
  let s := (smKeys s.queues).foldl (fun s q => queueResetNow q s) s
  { s with
    flights := []
    queueGen := (s.queueGen + 1) % 2 ^ 16 }

def warmStack (x : Stack) : Stack := if x.phase == .zeroFill then { x with
  next := none } else x

def warmReset (code : Nat) (hubIntact : Bool) (s : State) : State :=
  if !hubIntact || s.power.dieTrip != 0 then coldReset 4 s
  else
    let s := staleEntries (drainChannels (warmQueues s))
    let s := { s with
      tiles := smMap s.tiles fun _ t => warmTile t
      barriers := [] }
    let s := updMem (fun m => { m with
      windows := []
      retiring := []
      hbm := smMap m.hbm fun _ x => warmStack x }) s
    let s := updTables (fun x => { x with armed := [] }) s
    let s := updSched (fun c => { c with
      sets := []
      stages := []
      ctrlNext := none }) s
    let s := updNet (fun n => { n with
      flows := smMap n.flows fun _ f => warmFlow f
      group := warmGroup n.group
      subs := smMap n.subs fun _ w => { w with
        linkUp := false
        pcs := false }
      ports := smMap n.ports fun _ p => { p with
        rxBytes := []
        pfcSent := []
        paused := [] } }) s
    let s := if s.net.group.gstate = 0 then s else unserveTables s
    let s := updInteg (fun g => { g with
      checks := smFilter g.checks fun _ c => c.st != .pending
      replays := [] }) s
    let s := recorderStop (updTele (fun t => { t with monitors := [] }) s)
    let s := updLink (warmLink (now s)) s
    let s := updBeat (fun b => { b with
      paused := false
      inHead := false }) s
    let s := updSec (fun c => { c with
      spdmStage := []
      spdmSessions := []
      recovery := false
      fwStart := none
      portOpen := false }) s
    updPower (fun p => { p with
      target := .s0
      state := .s0
      entering := false
      ready := false
      waking := false
      moduleFault := none
      lastReset := code
      warmResets := satAdd 32 p.warmResets 1 }) s

/-- WARM_RESET: PWR.CTRL.WARM_RESET written. -/
def execWarmReset (hubIntact : Bool) (s : State) : Res := .next (hostAccess (warmReset 3 hubIntact) s)

/-- COLD_RESET: PWR.CTRL.COLD_RESET written (R471). -/
def execColdReset (s : State) : Res := .next (hostAccess (coldReset 1) s)

/-- PERST# with PERST_MODE 0 is a warm reset, with 1 a link loss (13 R362); ignored without good hub rails (18 R470). -/
def execPerstAssert (s : State) : Res :=
  doWhen (s.power.rails == .on && s.power.state != .s3)
    (if s.link.perstMode then (if s.link.up then linkLost 2 s else s) else warmReset 2 true s) s

/-! ### Boot (18 R470, 16 R434 to R437) -/

/-- POWER_ON: the input enters range; the straps are sampled (19 R478). Also right after State.reset (log 6). -/
def execPowerOn (straps : Nat) (s : State) : Res :=
  doWhen (s.power.rails == .none_ || (now s = 0 && !s.power.ready && s.power.rails == .on))
    (updPower (fun p => { p with
      rails := .on
      strap := straps % 4 }) (powerLost s)) s

/-- One image slot as the mask ROM finds it: number, verified, SVN, manifest MIN_SVN. -/
structure ImageSlot where
  no  : Nat
  ok  : Bool
  svn : Nat
  min : Nat
  deriving DecidableEq, Repr

def bootable (s : State) (regionOk : Bool) (x : ImageSlot) : Bool := regionOk && x.ok && s.sec.minSvn ≤ x.svn

def bootOrder (s : State) (a b : ImageSlot) : List ImageSlot := if s.sec.preferred = 1 then [b, a] else [a, b]

/-- The 32 bytes of the TEST_UNLOCK nonce issued at a boot. -/
def unlockBytes (n : Nat) : List Byte := (List.range 4).flatMap fun i => le 8 (Config.draw (n + i)).toNat

/-- The boot of R470 tests every tile; the boot after a warm reset (LAST_RESET 2 or 3) does not. -/
def bootTests (s : State) : State :=
  if s.power.lastReset == 2 || s.power.lastReset == 3 then s
  else (List.range 128).foldl (fun s t => updTile t (fun w => { w with
    ageStart := now s
    lastPass := now s }) s) s

def bootInto (x : ImageSlot) (failed : Option Nat) (digest : List Byte) (components : List (List Byte)) (s : State) : State :=
  let d := slice digest 0 32
  let s := updSec (fun c => { c with
    slot := x.no
    recovery := false
    svn := x.svn
    manifestMinSvn := x.min
    fwDigest := d
    components := components.take 16
    fwStart := some (now s)
    svnTried := false
    failedSlot := if failed.isSome then failed else c.failedSlot
    trng := 0
    trngFails := 0
    unlockNonce := some s.freeCtr }) s
  let s := bootTests (updPower (fun p => { p with ready := true }) { s with freeCtr := s.freeCtr + 4 })
  emit srcCmd evBoot devPart [(20, 1, x.no), (24, 4, x.svn), (28, 28, unle (d.take 28))] s

/-- BOOT_READY: the first slot that verifies runs, and READY is set; with neither the module is in recovery (16 R436). -/
def execBootReady (okA okB : Bool) (svnA svnB minA minB : Nat) (digest : List Byte) (components : List (List Byte))
    (regionOk : Bool) (s : State) : Res :=
  let l := bootOrder s { no := 0, ok := okA, svn := svnA, min := minA } { no := 1, ok := okB, svn := svnB, min := minB }
  doWhen (!s.power.ready && !s.sec.recovery && s.power.rails == .on && s.power.state == .s0)
    (match l.find? (bootable s regionOk) with
     | some x => bootInto x ((l.head?.map (·.no)).filter (· != x.no)) digest components s
     | none => updSec (fun c => { c with
         recovery := true
         failedSlot := l.getLast?.map (·.no) }) s) s

/-- MIN_SVN_UPDATE: 60 s of firmware without a module fault (16 R437). -/
def execMinSvnUpdate (writeOk : Bool) (s : State) : Res := match s.sec.fwStart with
  | none => .next s
  | some t => doWhen (s.power.ready && s.power.moduleFault.isNone && !s.sec.svnTried && s.sec.minSvn < s.sec.manifestMinSvn)
      (let s := updSec (fun c => { c with svnTried := true }) (advance (t + 60 * secNs) s)
       if writeOk then updSec (fun c => { c with minSvn := c.manifestMinSvn }) s
       else emit srcCmd evRollbackUpdateFailed devPart [(20, 4, s.sec.manifestMinSvn)] s) s

/-- TEST_UNLOCK: a record accepted under the conditions of 16 R438 erases every key domain and opens the port. -/
def execTestUnlock (signatureOk : Bool) (svn : Nat) (bind nonce : List Byte) (s : State) : Res :=
  doWhen (signatureOk && s.sec.unlockMinSvn ≤ svn && (allZero bind || bind == deviceKeyHash) && s.sec.fwStart.isSome &&
      match s.sec.unlockNonce with
      | some n => nonce == unlockBytes n
      | none => false)
    (updSec (fun c => { c with
      keyDomains := []
      testPort := true
      portOpen := true }) s) s

/-! ### Power states (18 R465 to R469) -/

/-- The module is idle (R466). -/
def moduleIdle (s : State) : Bool :=
  (s.queues.all fun q => [0, 1, 3].contains (queueState s q.1)) && s.flights.isEmpty && (s.tiles.all fun t => t.2.run.isNone) &&
  s.tables.windows.isEmpty && (s.sched.sets.all fun c => c.2.armed.isNone) &&
  (s.net.flows.all fun f => f.2.txMsgs.isEmpty && f.2.pkts.isEmpty)

def enterS1 (s : State) : State := updPower (fun p => { p with state := .s1 }) s

/-- TARGET written 0: a wake, or the end of an entry that drains (R465, R467). -/
def targetS0 (s : State) : State :=
  let s := updPower (fun p => { p with target := .s0 }) s
  match s.power.state with
  | .s0 => if s.power.entering then
      admitReady (updGroup (fun g => { g with leave := if g.leave == some none && g.gstate != 3 then none else g.leave })
        (updPower (fun p => { p with entering := false }) s))
    else s
  | _ => wake 7 s

def execPwrTargetS0 (s : State) : Res := doWhen (hostReach s) (targetS0 s) s

/-- TARGET written 1: S1 at once when the module is idle; otherwise when IDLE_TIMEOUT finds it idle. -/
def execPwrTargetS1 (s : State) : Res :=
  .next (hostAccess (fun s =>
    let s := updPower (fun p => { p with
      target := .s1
      entering := false }) s
    if s.power.state == .s0 && moduleIdle s then enterS1 s else s) s)

/-- TARGET written 2 or 3: steps 1 and 2 of R467. -/
def startEntry (t : PState) (s : State) : State :=
  let s := updPower (fun p => { p with
    target := t
    state := .s0
    entering := true }) s
  if isMember s && s.net.group.leave.isNone then updGroup (fun g => { g with leave := some none }) s else s

def execPwrTargetS2 (s : State) : Res := .next (hostAccess (startEntry .s2) s)
def execPwrTargetS3 (s : State) : Res := .next (hostAccess (startEntry .s3) s)

/-- IDLE_TIMEOUT: the module has been idle for IDLE_US, or is idle with TARGET 1 (R466; log 54). -/
def execIdleTimeout (s : State) : Res :=
  doWhen (cpOn s && s.power.state == .s0 && !s.power.entering && moduleIdle s && (s.power.autoS1 || s.power.target == .s1))
    (enterS1 (if s.power.target == .s1 then s else advance (now s + 1000 * s.power.idleUs) s)) s

/-- The ports go down (R467 step 5). -/
def portsDown (s : State) : State :=
  s.net.subs.foldl (fun s x => setLinkState x.1 false false s) s

/-- Everything dispatched has ended, its checks resolved, and the group is left (R467 steps 2 and 3). -/
def entryDrained (s : State) : Bool :=
  s.power.entering && s.flights.isEmpty && (s.integ.checks.all fun c => c.2.st != .pending) && s.net.group.gstate < 2

/-- POWER_ENTRY_DRAINED: step 5. S3 loses HBM, hub SRAM and the keys (R469). -/
def execPowerEntryDrained (s : State) : Res :=
  let t := s.power.target
  doWhen (s.power.state == .s0 && entryDrained s && (t == .s2 || t == .s3))
    (let s := portsDown s
     if t == .s2 then updPower (fun p => { p with
         state := .s2
         entering := false }) s
     else updPower (fun p => { p with
         state := .s3
         target := .s3 }) (coldState s)) s

/-- What a tile lost in S2 (R464, R468): scratchpad, program memories, streams, residency list. -/
def s2Tile (t : Tile) : Tile :=
  { t with
    context := none
    spad := []
    streams := []
    prog := none
    progMem := []
    progFor := none
    nextMem := []
    shadow := []
    preload := none
    resident := []
    ramp := .idle }

/-- WAKE_COMPLETE: the wake from S2 ends; admission resumes with the next beat. -/
def execWakeComplete (s : State) : Res :=
  doWhen (s.power.state == .s2 && s.power.waking)
    (let s := { s with tiles := smMap s.tiles fun _ t => s2Tile t }
     updBeat (fun b => { b with
       paused := true
       inHead := false }) (updPower (fun p => { p with
       state := .s0
       target := .s0
       waking := false }) s)) s

/-! ### Clover's comparators (02 R56, R57) -/

/-- Exit from S3 by a comparator: the boot begins; time, temperature and supply assert WAKE# (18 R469). -/
def exitS3 (code : Nat) (s : State) : State :=
  updPower (fun p => { p with
    state := .s0
    target := .s0
    ready := false
    lastReset := 5
    lastWake := code
    wakePin := p.wakePin || code < 6 }) s

def cloverEn (s : State) (k : Nat) : Bool := s.clover.ctrl.toNat.testBit k
def cloverFired (s : State) (k : Nat) : Bool := s.clover.fired.toNat.testBit k
/-- A comparator is armed: enabled and not fired since its arming, with Clover powered. -/
def cloverArmed (s : State) (k : Nat) : Bool := cloverEn s k && !cloverFired s k && s.power.rails != .none_

/-- A comparator fires: its event, its bit, then its wake and its interrupt. -/
def cloverFire (k code : Nat) (s : State) : State :=
  let s := emit 0 evCloverFired devPart [(20, 1, k)] (updClover (fun c => { c with fired := c.fired ||| BitVec.ofNat 32 (2 ^ k) }) s)
  let irq := cloverEn s (16 + k) && s.power.state == .s0 && s.power.rails == .on
  let s := if irq then msix 0 0 s else s
  if !cloverEn s (8 + k) then s
  else if s.power.state == .s3 && s.power.rails == .on then exitS3 code s
  else wake code s

def execCloverWakeFire (n : Nat) (s : State) : Res :=
  doWhen (n < 4 && cloverArmed s n) (cloverFire n 3 (advance (smGet s.clover.wake 0 n).toNat s)) s

def execCloverTempFire (n : Nat) (celsius : Nat) (s : State) : Res :=
  doWhen (n < 2 && cloverArmed s (4 + n) && (if n = 0 then s.clover.temp0 else s.clover.temp1) ≤ celsius)
    (cloverFire (4 + n) 4 s) s

def execCloverSupplyFire (quarterVolts : Nat) (s : State) : Res :=
  doWhen (cloverArmed s 6 && quarterVolts < s.clover.supply) (cloverFire 6 5 s) s

def execCloverLinkFire (source : Nat) (s : State) : Res :=
  doWhen (cloverArmed s 7 && source == s.clover.link) (cloverFire 7 6 s) s

/-- CLOVER.FIRED written: 1 clears a bit and arms its comparator again. -/
def firedWrite (v : U32) (s : State) : State := updClover (fun c => { c with fired := c.fired &&& ~~~v }) s
def execCloverFiredWrite (value : BitVec 32) (s : State) : Res := .next (hostAccess (firedWrite value) s)

/-! ### Supply and heat (19 R481, R485 to R487) -/

/-- Every rail but Clover's goes. -/
def railsOff (r : Rails) (s : State) : State := updPower (fun p => { p with rails := r }) (coldState s)

def execSupplyUndervoltage (quarterVolts : Nat) (s : State) : Res :=
  doWhen (s.power.rails == .on && (quarterVolts < 176 || 228 < quarterVolts))
    (updPower (fun p => { p with
      uvTrip := true
      input := min 255 quarterVolts }) (railsOff .uvOff s)) s

def execSupplyRecovery (quarterVolts : Nat) (s : State) : Res :=
  doWhen (s.power.rails == .uvOff && 188 ≤ quarterVolts)
    (updPower (fun p => { p with input := min 255 quarterVolts }) (coldReset 1 s)) s

/-- THERMAL_PROTECT_ENTRY: a compute die at 95 °C or above (R486). -/
def execThermalProtectEntry (die : Nat) (milliC : Int) (s : State) : Res :=
  doWhen (cpOn s && die < 4 && 95000 ≤ milliC && !protect s die)
    (emit srcPower evThermalProtect devPart [(20, 1, die), (21, 1, 1), (24, 4, unsignedOf 32 milliC)]
      (updPower (fun p => { p with protect := p.protect ||| BitVec.ofNat 32 (2 ^ die) }) s)) s

/-- JUNCTION_LIMIT: an event with the reading, for a compute die or (die 4) the hub (R485; log 55). -/
def execJunctionLimit (die : Nat) (milliC : Int) (s : State) : Res :=
  doWhen (cpOn s && die < 5 && 105000 ≤ milliC)
    (emit srcPower evThermalProtect devPart [(20, 1, die), (21, 1, 1), (24, 4, unsignedOf 32 milliC)] s) s

/-- A tripped die loses its tiles' state and its four stacks' contents. -/
def dieLost (d : Nat) (s : State) : State :=
  let inDie (pa : Nat) : Bool := stackOf pa / 4 == d
  let s := { s with tiles := smMap s.tiles fun t w => if t / 32 = d then flashTile w else w }
  updMem (fun m => { m with
    cells := m.cells.filter fun x => !inDie x.1
    keyTag := smFilter m.keyTag fun g _ => !inDie (64 * g)
    zeroed := smFilter m.zeroed fun f _ => !inDie (f * frameBytes)
    errors := smFilter m.errors fun g _ => !inDie (64 * g)
    poison := m.poison.filter fun g => !inDie (64 * g)
    channels := smMap m.channels fun c w => if c / 64 = d then { w with
      queue := []
      last := none } else w }) s

/-- The cause that a die trip's MODULE_FAULT event names: R424 lists none for it, a free value. -/
def tripCause (d : Nat) : Nat := (Config.unstated 23 (BitVec.ofNat 32 d) 0).toNat % 256

/-- DIE_TRIP: the die and its stacks lose power, and the hub acts as for a module fault (R487). -/
def execDieTrip (die : Nat) (milliC : Int) (s : State) : Res :=
  doWhen (s.power.rails == .on && s.power.state != .s3 && die < 4 && 110000 ≤ milliC)
    (dieLost die (moduleFault (tripCause die) srcPower
      (updPower (fun p => { p with dieTrip := p.dieTrip ||| BitVec.ofNat 32 (2 ^ die) }) s))) s

/-- HUB_TRIP: every rail except Clover goes (R487). -/
def execHubTrip (milliC : Int) (s : State) : Res :=
  doWhen (s.power.rails == .on && 110000 ≤ milliC)
    (updPower (fun p => { p with hubTrip := true }) (railsOff .hubOff s)) s

def execHubTripRecovery (milliC : Int) (s : State) : Res :=
  doWhen (s.power.rails == .hubOff && milliC < 85000) (coldReset 1 s) s

/-- INPUT_POWER_LOSS: Clover stops as well; all but flash is lost until POWER_ON (R481). -/
def execInputPowerLoss (s : State) : Res :=
  .next (updPower (fun p => { p with rails := .none_ }) (powerLost s))

end Sys2Proof.Machine
end

