-- ==== Sys2Proof/Machine/Registers.lean ====
section
/-! DEFINITION. Writes to the registers of BAR0 (13 R344 to R346, 01 R6 and R7): each register's fields with their clamps, the
registers whose writes act (fault queues, billing ring, PWR.CTRL, queue control), and the token buckets' refill (12 R334). -/

namespace Sys2Proof.Machine

/-! ### Fault queues and the billing ring (09 R255 to R259, 12 R336) -/

/-- BASE written: the region is translated at once. -/
def ringBaseWrite (s : State) (part : Option Nat) (v : Nat) (r : Ring) : Ring :=
  let ctx := clampBlock s part 4096 (v / 2 ^ 48)
  let r := { r with base := BitVec.ofNat 64 (v % 2 ^ 48 + 2 ^ 48 * ctx) }
  if (checkRange s ctx (ringVa r) 262144 false true).isNone then { r with
    valid := true
    head := 0
    tail := 0 }
  else { r with valid := false }

/-- HEAD written: clamped to at most TAIL. -/
def ringHead (r : Ring) (v : Nat) : Nat :=
  let d := (v + 2 ^ 32 - r.tail) % 2 ^ 32
  if 0 < d && d < 2 ^ 31 then r.tail else v % 2 ^ 32

/-- The FAULTQ_OVERFLOW record that a freed slot brings (R257). -/
def afterHead (p : Option Nat) (s : State) : State :=
  let r := getFaultq s p
  if r.dropped != 0 && (r.tail + 2 ^ 32 - r.head) % 2 ^ 32 < 4096 then
    faultPut p (overflowRec s r.dropped) (setFaultq p { r with dropped := 0 } s)
  else s

/-- The fault queue that a function's FAULTQ block shows: the operator's, or that of the partition it is primary for. -/
def faultqOf (s : State) (operator : Bool) (func : Nat) : Option (Option Nat) :=
  if operator then (if func = 0 then some none else none)
  else match funcPart s func with
    | some p => if primaryFunc s p = func then some (some p) else none
    | none => none

def faultqBase (operator : Bool) (func v : Nat) (s : State) : State := match faultqOf s operator func with
  | some p => setFaultq p (ringBaseWrite s p v (getFaultq s p)) s
  | none => s

def faultqHead (operator : Bool) (func v : Nat) (s : State) : State := match faultqOf s operator func with
  | some p => afterHead p (setFaultq p { getFaultq s p with head := ringHead (getFaultq s p) v } s)
  | none => s

def faultqCtrl (operator : Bool) (func v : Nat) (s : State) : State := match faultqOf s operator func with
  | some p => setFaultq p { getFaultq s p with
      vector := min (vecCount func - 1) (bits v 10 0)
      irqEn := bit v 11 } s
  | none => s

def billBase (v : Nat) (s : State) : State := updMem (fun m => { m with bill := ringBaseWrite s none v m.bill }) s
def billHead (v : Nat) (s : State) : State := updMem (fun m => { m with bill := { m.bill with head := ringHead m.bill v } }) s

def execFaultqBaseWrite (operator : Bool) (func : Nat) (value : BitVec 64) (s : State) : Res :=
  .next (hostAccess (fun s => if barDead s func then s else faultqBase operator func value.toNat s) s)

def execFaultqHeadWrite (operator : Bool) (func : Nat) (value : BitVec 32) (s : State) : Res :=
  .next (hostAccess (fun s => if barDead s func then s else faultqHead operator func value.toNat s) s)

def execBillBaseWrite (value : BitVec 64) (s : State) : Res := .next (hostAccess (billBase value.toNat) s)
def execBillHeadWrite (value : BitVec 32) (s : State) : Res := .next (hostAccess (billHead value.toNat) s)

/-- SCHED.CTRL: in force from step 5 of the next beat head (12 R322). -/
def schedCtrlWrite (v : U32) (s : State) : State := updSched (fun c => { c with ctrlNext := some v }) s
def execSchedCtrlWrite (value : BitVec 32) (s : State) : Res := .next (hostAccess (schedCtrlWrite value) s)

/-! ### PWR.CTRL (18 R465) -/

/-- PWR.CTRL written: its RW fields, then the reset or the target it names. -/
def pwrCtrl (v : Nat) (s : State) : State :=
  let s := updPower (fun p => { p with
    autoS1 := bit v 2
    idleUs := clampN 1 65535 (bits v 31 16) }) s
  if bit v 5 then coldReset 1 s
  else if bit v 4 then warmReset 3 true s
  else match bits v 1 0 with
    | 0 => targetS0 s
    | 1 => if s.power.state == .s0 && moduleIdle s then
        enterS1 (updPower (fun p => { p with
          target := .s1
          entering := false }) s)
      else updPower (fun p => { p with
        target := .s1
        entering := false }) s
    | 2 => startEntry .s2 s
    | _ => startEntry .s3 s

/-! ### Queue registers (10 R261, 13 R345) -/

def qctxCfg (f v : Nat) (w : Queue) : Queue :=
  let size (x : Nat) : Nat := if x = 0 then 0 else max 6 x
  { w with
    sqSize := size (bits v 3 0)
    cqSize := size (bits v 7 4)
    sqHost := bit v 8 && !bit v 10
    cqHost := bit v 9
    netFed := bit v 10
    onFail := bit v 11
    depth := clampN 1 256 (bits v 20 12)
    vector := min (vecCount f - 1) (bits v 31 21) }

/-- A ring register's value, its context clamped into the partition's block. -/
def qctxRing (s : State) (q v : Nat) : U64 :=
  BitVec.ofNat 64 (v % 2 ^ 48 + 2 ^ 48 * clampBlock s (queueOwner s q) 4096 (v / 2 ^ 48))

/-- A write within a queue's register set, each register at its own width. -/
def queueRegWrite (f q off size v : Nat) (s : State) : State :=
  let off_ := (getQueue s q).life == .disabled
  if size = 8 then
    match off with
    | 0x00 => if off_ then updQueue q (fun w => { w with sq := qctxRing s q v }) s else s
    | 0x08 => if off_ then updQueue q (fun w => { w with cq := qctxRing s q v }) s else s
    | 0x10 => if off_ then updQueue q (fun w => { w with shadow := qctxRing s q v }) s else s
    | _ => s
  else match off with
    | 0x18 => if off_ then updQueue q (qctxCfg f v) s else s
    | 0x1C => if bit v 1 then startQueueReset q s else if bit v 0 then enableQueue q s else disableQueue q s
    | _ => s

/-! ### The other registers -/

/-- Merge the written half of a 64-bit register with its present value. -/
def merge64 (old off size v : Nat) : Nat :=
  if size = 8 then v % 2 ^ 64
  else if off % 8 = 0 then old / 2 ^ 32 * 2 ^ 32 + v % 2 ^ 32
  else v % 2 ^ 32 * 2 ^ 32 + old % 2 ^ 32

/-- MSI-X table: address, data, mask (13 R350). -/
def msixWrite (f vec word v : Nat) (s : State) : State :=
  let x := smGet (getFunc s f).msix {} vec
  let put (x : Vector_) (s : State) : State := updFunc f (fun g => { g with msix := smSet g.msix vec x }) s
  match word with
  | 0 => put { x with addr := BitVec.ofNat 64 (x.addr.toNat / 2 ^ 32 * 2 ^ 32 + v) } s
  | 1 => put { x with addr := BitVec.ofNat 64 (v * 2 ^ 32 + x.addr.toNat % 2 ^ 32) } s
  | 2 => put { x with data := BitVec.ofNat 32 v } s
  | _ => if bit v 0 then put { x with masked := true } s else msixUnmask f vec s

/-- HOST.APERTURE, its context clamped into the function's partition (R347). -/
def apertureWrite (f v : Nat) (s : State) : State :=
  updFunc f (fun g => { g with
    aperture := BitVec.ofNat 64 (v % 2 ^ 48 + 2 ^ 48 * clampBlock s (funcPart s f) 4096 (v / 2 ^ 48)) }) s

/-- The basic page: 64-bit registers by their base offset. -/
def basic64 (f off size v : Nat) (s : State) : State :=
  if off / 8 = 0x10 / 8 then apertureWrite f (merge64 (getFunc s f).aperture.toNat off size v) s
  else if off / 8 = 0x200 / 8 then match faultqOf s false f with
    | some p => faultqBase false f (merge64 (getFaultq s p).base.toNat off size v) s
    | none => s
  else s

def timeCtrl (v : Nat) : U32 :=
  BitVec.ofNat 32 (min 2 (bits v 1 0) + 4 * bits v 13 2 + 2 ^ 14 * min 2 (bits v 15 14) + 2 ^ 16 * bits v 16 16)

/-- CLOVER registers of 32 bits at 0x02_0120 (02 R56). -/
def cloverWrite (i v : Nat) (s : State) : State := match i with
  | 0 => updClover (fun c => { c with temp0 := v % 256 }) s
  | 1 => updClover (fun c => { c with temp1 := v % 256 }) s
  | 2 => updClover (fun c => { c with supply := v % 256 }) s
  | 3 => updClover (fun c => { c with link := min 0x10 (v % 32) }) s
  | 4 => updClover (fun c => { c with ctrl := BitVec.ofNat 32 (v % 2 ^ 24) }) s
  | 5 => firedWrite (BitVec.ofNat 32 (v % 256)) s
  | _ => s

/-- MEM.MAPOUT_CTRL (08 R233). -/
def mapoutCtrl (v : Nat) (s : State) : State := updMem (fun m => { m with
  thresh := clampN 16 65535 (bits v 15 0)
  auto := bit v 16
  rate := clampN 1 100 (bits v 31 24) }) s

/-- HOST.PF_CTRL (R347). -/
def pfCtrl (v : Nat) (s : State) : State := updLink (fun k => { k with
  perstMode := bit v 0
  biTimeoutMs := clampN 1 1000 (bits v 25 16) }) s

/-- MOD registers (19 R488): trips clear by 1, PPS delays. -/
def modWrite (i v : Nat) (s : State) : State := match i with
  | 0 => updPower (fun p => { p with
      dieTrip := p.dieTrip &&& ~~~(BitVec.ofNat 32 (bits v 7 4))
      hubTrip := p.hubTrip && !bit v 8 }) s
  | 1 => updPower (fun p => { p with uvTrip := p.uvTrip && !bit v 9 }) s
  | 2 => updPower (fun p => { p with modPps := BitVec.ofNat 32 v }) s
  | _ => s

def netCtrl (v : Nat) (s : State) : State := updNet (fun n => { n with
  udpPort := bits v 15 0
  rtoUs := clampN 5 1000 (bits v 25 16)
  retryMax := clampN 1 31 (bits v 30 26) }) s

def netCc (v : Nat) (s : State) : State := updNet (fun n => { n with
  tHighUs := clampN 5 255 (bits v 7 0)
  ai := clampN 1 255 (bits v 15 8)
  rateMin := clampN 1 255 (bits v 23 16)
  gshift := clampN 1 8 (bits v 27 24) }) s

/-- One half of NET.SUBk.IP. -/
def ipWrite (high : Bool) (off size v : Nat) (w : Sub) : Sub :=
  let lo := w.ip.toNat % 2 ^ 64
  let hi := w.ip.toNat / 2 ^ 64
  { w with ip := BitVec.ofNat 128 (if high then merge64 hi off size v * 2 ^ 64 + lo else hi * 2 ^ 64 + merge64 lo off size v) }

/-- The sub-port block (14 R370). -/
def subWrite (k off size v : Nat) (s : State) : State :=
  match off / 8 with
  | 0 => updSub k (fun w => { w with mac := BitVec.ofNat 64 (merge64 w.mac.toNat off size v % 2 ^ 61) }) s
  | 1 => updSub k (fun w => { w with gw := BitVec.ofNat 64 (merge64 w.gw.toNat off size v % 2 ^ 48) }) s
  | 2 => updSub k (ipWrite false off size v) s
  | 3 => updSub k (ipWrite true off size v) s
  | 5 => if off % 8 = 0 then updSub k (fun w => { w with asym := BitVec.ofNat 32 v }) s else s
  | _ => s

/-- Registers of 32 bits in the physical function's expert page. -/
def operatorWrite (off v : Nat) (s : State) : State :=
  if off = 0x020000 then updClock (fun c => { c with ctrl := timeCtrl v }) s
  else if 0x020120 ≤ off && off < 0x020138 then cloverWrite ((off - 0x020120) / 4) v s
  else if off = 0x020200 then { s with dbgEn := BitVec.ofNat 32 (v % 2 ^ 16) }
  else if off = 0x020300 then updMem (fun m => { m with eccMode := min 2 (v % 4) }) s
  else if off = 0x020304 then mapoutCtrl v s
  else if off = 0x020308 then mapoutCmd v s
  else if off = 0x020400 then schedCtrlWrite (BitVec.ofNat 32 v) s
  else if off = 0x020510 then billHead v s
  else if off = 0x020608 then faultqCtrl true 0 v s
  else if off = 0x020610 then faultqHead true 0 v s
  else if off = 0x020700 then pfCtrl v s
  else if off = 0x020C00 then pwrCtrl v s
  else if 0x020D00 ≤ off && off < 0x020D0C then modWrite ((off - 0x020D00) / 4) v s
  else if off = 0x021000 then netCtrl v s
  else if off = 0x021004 then netCc v s
  else if 0x021010 ≤ off && off < 0x021050 then
    (if off % 16 = 0 then updPort ((off - 0x021010) / 16) (portCtrl v) s
     else if off % 16 = 8 then updPort ((off - 0x021010) / 16) (fun p => { p with qos := BitVec.ofNat 32 (v % 2 ^ 27) }) s
     else s)
  else s

/-- Registers of 64 bits in the physical function's expert page. -/
def operator64 (off size v : Nat) (s : State) : State :=
  if 0x020100 ≤ off && off < 0x020120 then
    (let i := (off - 0x020100) / 8
     let x := BitVec.ofNat 64 (merge64 (smGet s.clover.wake 0 i).toNat off size v)
     updClover (fun c => { c with wake := smSet c.wake i x }) s)
  else if off / 8 = 0x020500 / 8 then billBase (merge64 s.mem.bill.base.toNat off size v) s
  else if off / 8 = 0x020600 / 8 then faultqBase true 0 (merge64 s.mem.opFaultq.base.toNat off size v) s
  else if 0x021100 ≤ off && off < 0x021500 then subWrite ((off - 0x021100) / 64) ((off - 0x021100) % 64) size v s
  else s

/-- A register of 64 bits lies here. -/
def is64 (off : Nat) : Bool :=
  off / 8 == 0x10 / 8 || off / 8 == 0x200 / 8 || (0x020100 ≤ off && off < 0x020120) || off / 8 == 0x020500 / 8 ||
  off / 8 == 0x020600 / 8 || (0x021100 ≤ off && off < 0x021500)

/-- The partition expert page (04 R103). -/
def expertWrite (f off v : Nat) (s : State) : State :=
  let granted := match (funcPart s f).bind (findPart s) with
    | some w => w.expert
    | none => false
  if !granted then s
  else if off = 0x010000 then
    let s := updFunc f (fun g => { g with dbgTile := bits v 6 0 }) s
    let s := if bit v 8 then dbgResume f s else s
    if bit v 9 then dbgAbort f s else s
  else if off = 0x010004 then updFunc f (fun g => { g with dbgRow := BitVec.ofNat 32 (v % 2 ^ 10) }) s
  else s

/-- A 4-byte write outside the queue registers and the 64-bit registers. -/
def write32 (f off v : Nat) (s : State) : State :=
  if 0x900000 ≤ off && off < 0x900000 + 16 * vecCount f then msixWrite f ((off - 0x900000) / 16) (off % 16 / 4) v s
  else if off = 0x108 then
    (if f = 0 then updClock (fun c => { c with stepOccurred := c.stepOccurred && !bit v 4 }) s else s)
  else if off = 0x208 then faultqCtrl false f v s
  else if off = 0x210 then faultqHead false f v s
  else if 0x010000 ≤ off && off < 0x020000 then expertWrite f off v s
  else if 0x020000 ≤ off && off < 0x022000 && f = 0 then operatorWrite off v s
  else s

/-- A write into BAR0 (R346): 4 or 8 bytes, naturally aligned; anything else writes nothing. -/
def regWrite (f off size v : Nat) (s : State) : State :=
  if !(size == 4 || size == 8) || off % size != 0 || 2 ^ 24 ≤ off then s
  else if 0x100000 ≤ off && off < 0x900000 then
    match localQueue s f ((off - 0x100000) / 128) with
    | some q => queueRegWrite f q (off % 128) size v s
    | none => s
  else if is64 off then
    (if off < 0x020000 then basic64 f off size v s else if f = 0 then operator64 off size v s else s)
  else if size = 4 then write32 f off (v % 2 ^ 32) s
  else write32 f (off + 4) (v / 2 ^ 32 % 2 ^ 32) (write32 f off (v % 2 ^ 32) s)

/-- REGISTER_WRITE: a host write into a function's BAR0. A write to a virtual function shows that VF Enable is set (log 33). -/
def execRegisterWrite (func : Nat) (off size : Nat) (value : BitVec 64) (s : State) : Res :=
  .next (hostAccess (fun s =>
    if 255 < func || barDead s func || barUnbound s func then s
    else
      let s := if func = 0 then s else updLink (fun k => { k with vfEnable := true }) s
      regWrite func off size value.toNat s) s)

/-! ### Token buckets (12 R334) -/

/-- Requests that wait are issued in order while the bucket holds min(bytes, BURST). -/
def bucketServe (b : Bucket) : List Nat → Bucket
  | [] => { b with waiting := [] }
  | n :: l =>
    if ((min n b.burst : Nat) : Int) ≤ b.tokens then bucketServe { b with tokens := b.tokens - (n : Nat) } l
    else { b with waiting := n :: l }

/-- RATE counts 100 MB/s, which is a tenth of a byte per ns. -/
def bucketRefill (ns : Nat) (b : Bucket) : Bucket :=
  bucketServe { b with tokens := min (b.burst : Nat) (b.tokens + ((b.rate * ns / 10 : Nat) : Int)) } b.waiting

/-- REGULATOR_REFILL: `ns` have passed since the bucket's last refill. -/
def execRegulatorRefill (part res ns : Nat) (s : State) : Res :=
  doWhen (res < 4) (updPart part (fun w => { w with regs := smSet w.regs res (bucketRefill ns (bucketOf w res)) }) s) s

end Sys2Proof.Machine
end

