-- ==== Sys2Proof/Machine/Dispatch.lean ====
section
/-! DEFINITION. The effect of each command on everything but the queue: one arm per command. -/

namespace Sys2Proof.Machine

def exec (i : Instr) (s : State) : Host.Outcome State Fault Refusal :=
  match i with
  | .ptpMessage sub domain transport source => Sys2Proof.Machine.execPtpMessage sub domain transport source s
  | .todMessage bytes => Sys2Proof.Machine.execTodMessage bytes s
  | .ppsEdge => Sys2Proof.Machine.execPpsEdge s
  | .measurementTimeout => Sys2Proof.Machine.execMeasurementTimeout s
  | .unlockedGroupTimeout => Sys2Proof.Machine.execUnlockedGroupTimeout s
  | .ppsOutEdge => Sys2Proof.Machine.execPpsOutEdge s
  | .todTransmit => Sys2Proof.Machine.execTodTransmit s
  | .tscLowRead func => Sys2Proof.Machine.execTscLowRead func s
  | .beatEdge devEnergyUj => Sys2Proof.Machine.execBeatEdge devEnergyUj s
  | .admissionResume => Sys2Proof.Machine.execAdmissionResume s
  | .beatHeadEnd => Sys2Proof.Machine.execBeatHeadEnd s
  | .beatPeriodSwitch => Sys2Proof.Machine.execBeatPeriodSwitch s
  | .cloverWakeFire n => Sys2Proof.Machine.execCloverWakeFire n s
  | .cloverTempFire n celsius => Sys2Proof.Machine.execCloverTempFire n celsius s
  | .cloverSupplyFire quarterVolts => Sys2Proof.Machine.execCloverSupplyFire quarterVolts s
  | .cloverLinkFire source => Sys2Proof.Machine.execCloverLinkFire source s
  | .cloverFiredWrite value => Sys2Proof.Machine.execCloverFiredWrite value s
  | .instanceStart tile flight inst => Sys2Proof.Machine.execInstanceStart tile flight inst s
  | .setvl tile src => Sys2Proof.Machine.execSetvl tile src s
  | .vloop tile bodyLen => Sys2Proof.Machine.execVloop tile bodyLen s
  | .vend tile => Sys2Proof.Machine.execVend tile s
  | .loop tile src bodyLen => Sys2Proof.Machine.execLoop tile src bodyLen s
  | .lend tile => Sys2Proof.Machine.execLend tile s
  | .sop tile op dst a b => Sys2Proof.Machine.execSop tile op dst a b s
  | .swait tile stream n => Sys2Proof.Machine.execSwait tile stream n s
  | .swaitMet tile => Sys2Proof.Machine.execSwaitMet tile s
  | .sadv tile stream n => Sys2Proof.Machine.execSadv tile stream n s
  | .gq tile stream off cnt => Sys2Proof.Machine.execGq tile stream off cnt s
  | .sdrain tile stream => Sys2Proof.Machine.execSdrain tile stream s
  | .sdrainDone tile => Sys2Proof.Machine.execSdrainDone tile s
  | .mma tile d => Sys2Proof.Machine.execMma tile d s
  | .mwait tile => Sys2Proof.Machine.execMwait tile s
  | .fsig tile fence value => Sys2Proof.Machine.execFsig tile fence value s
  | .fwait tile fence value => Sys2Proof.Machine.execFwait tile fence value s
  | .fwaitMet tile => Sys2Proof.Machine.execFwaitMet tile s
  | .bar tile group members => Sys2Proof.Machine.execBar tile group members s
  | .barGroupComplete die group => Sys2Proof.Machine.execBarGroupComplete die group s
  | .end_ tile => Sys2Proof.Machine.execEnd tile s
  | .instanceEnd tile => Sys2Proof.Machine.execInstanceEnd tile s
  | .arith tile op bf16 m d a b c => Sys2Proof.Machine.execArith tile op bf16 m d a b c s
  | .int tile op m d a b => Sys2Proof.Machine.execInt tile op m d a b s
  | .cmp tile op m d a b => Sys2Proof.Machine.execCmp tile op m d a b s
  | .maskop tile op d a b => Sys2Proof.Machine.execMaskop tile op d a b s
  | .cvt tile op m d a => Sys2Proof.Machine.execCvt tile op m d a s
  | .trans tile fn m d a => Sys2Proof.Machine.execTrans tile fn m d a s
  | .div tile sqrt m d a b => Sys2Proof.Machine.execDiv tile sqrt m d a b s
  | .perm tile op m d a => Sys2Proof.Machine.execPerm tile op m d a s
  | .reduce tile op bf16 m d a => Sys2Proof.Machine.execReduce tile op bf16 m d a s
  | .ldv tile m d addr => Sys2Proof.Machine.execLdv tile m d addr s
  | .stv tile m a addr => Sys2Proof.Machine.execStv tile m a addr s
  | .matrixInstanceEnd tile => Sys2Proof.Machine.execMatrixInstanceEnd tile s
  | .guardReplayDone tile => Sys2Proof.Machine.execGuardReplayDone tile s
  | .debugHalt tile => Sys2Proof.Machine.execDebugHalt tile s
  | .dbgResume func => Sys2Proof.Machine.execDbgResume func s
  | .dbgAbort func => Sys2Proof.Machine.execDbgAbort func s
  | .arrayRampDown tile => Sys2Proof.Machine.execArrayRampDown tile s
  | .kernelComplete flight => Sys2Proof.Machine.execKernelComplete flight s
  | .durationOverrun tile => Sys2Proof.Machine.execDurationOverrun tile s
  | .longInstanceCheck tile duplicateTile => Sys2Proof.Machine.execLongInstanceCheck tile duplicateTile s
  | .checkAgeExpiry tile => Sys2Proof.Machine.execCheckAgeExpiry tile s
  | .checkWatermarkTick => Sys2Proof.Machine.execCheckWatermarkTick s
  | .provisionalExpiry => Sys2Proof.Machine.execProvisionalExpiry s
  | .quarantineTestDone tile r => Sys2Proof.Machine.execQuarantineTestDone tile r s
  | .testSlotStart tile => Sys2Proof.Machine.execTestSlotStart tile s
  | .testSlotEnd tile r => Sys2Proof.Machine.execTestSlotEnd tile r s
  | .calibrationTimer => Sys2Proof.Machine.execCalibrationTimer s
  | .scratchpadEccError tile doubleBit => Sys2Proof.Machine.execScratchpadEccError tile doubleBit s
  | .hubSramEccError doubleBit => Sys2Proof.Machine.execHubSramEccError doubleBit s
  | .lockstepMismatch => Sys2Proof.Machine.execLockstepMismatch s
  | .flitCrcError link replayed => Sys2Proof.Machine.execFlitCrcError link replayed s
  | .trngHealthFail => Sys2Proof.Machine.execTrngHealthFail s
  | .streamResponse tile engine bytes hostData => Sys2Proof.Machine.execStreamResponse tile engine bytes hostData s
  | .storeAck tile engine index => Sys2Proof.Machine.execStoreAck tile engine index s
  | .channelRequest context who write pa len data nibbles teasel lc background => Sys2Proof.Machine.execChannelRequest context who write pa len data nibbles teasel lc background s
  | .channelServe channel errorSymbols => Sys2Proof.Machine.execChannelServe channel errorSymbols s
  | .guardWindowStart channel => Sys2Proof.Machine.execGuardWindowStart channel s
  | .refresh channel => Sys2Proof.Machine.execRefresh channel s
  | .retrainSlot => Sys2Proof.Machine.execRetrainSlot s
  | .retrainDone channel ok => Sys2Proof.Machine.execRetrainDone channel ok s
  | .zeroFillDone stack => Sys2Proof.Machine.execZeroFillDone stack s
  | .scrubRead channel corrected uncorrectable => Sys2Proof.Machine.execScrubRead channel corrected uncorrectable s
  | .scrubPriorityTimeout channel => Sys2Proof.Machine.execScrubPriorityTimeout channel s
  | .ceHourRollover => Sys2Proof.Machine.execCeHourRollover s
  | .mapoutStart stack => Sys2Proof.Machine.execMapoutStart stack s
  | .mapoutCmd value => Sys2Proof.Machine.execMapoutCmd value s
  | .mapoutFrameStaged stack slot => Sys2Proof.Machine.execMapoutFrameStaged stack slot s
  | .mapoutFrameWritten stack slot => Sys2Proof.Machine.execMapoutFrameWritten stack slot s
  | .cxlMemRead dpa exclusive => Sys2Proof.Machine.execCxlMemRead dpa exclusive s
  | .cxlMemWrite dpa data => Sys2Proof.Machine.execCxlMemWrite dpa data s
  | .birsp line data => Sys2Proof.Machine.execBirsp line data s
  | .biTimeout line => Sys2Proof.Machine.execBiTimeout line s
  | .hostSnoop line => Sys2Proof.Machine.execHostSnoop line s
  | .hostReadCompletion id data => Sys2Proof.Machine.execHostReadCompletion id data s
  | .hostWriteGo id => Sys2Proof.Machine.execHostWriteGo id s
  | .hostAccessReject id => Sys2Proof.Machine.execHostAccessReject id s
  | .bar4Read func off len => Sys2Proof.Machine.execBar4Read func off len s
  | .bar4Write func off data => Sys2Proof.Machine.execBar4Write func off data s
  | .linkLoss cause => Sys2Proof.Machine.execLinkLoss cause s
  | .linkUp width speed cxl => Sys2Proof.Machine.execLinkUp width speed cxl s
  | .perstAssert => Sys2Proof.Machine.execPerstAssert s
  | .functionLevelReset func => Sys2Proof.Machine.execFunctionLevelReset func s
  | .ideIntegrityFail func => Sys2Proof.Machine.execIdeIntegrityFail func s
  | .ideKm func => Sys2Proof.Machine.execIdeKm func s
  | .tdispRequest func req => Sys2Proof.Machine.execTdispRequest func req s
  | .msixUnmask func vector => Sys2Proof.Machine.execMsixUnmask func vector s
  | .getVersion transport => Sys2Proof.Machine.execGetVersion transport s
  | .getCapabilities transport => Sys2Proof.Machine.execGetCapabilities transport s
  | .negotiateAlgorithms transport supported => Sys2Proof.Machine.execNegotiateAlgorithms transport supported s
  | .getDigests transport => Sys2Proof.Machine.execGetDigests transport s
  | .getCertificate transport slot off len => Sys2Proof.Machine.execGetCertificate transport slot off len s
  | .challenge transport nonce => Sys2Proof.Machine.execChallenge transport nonce s
  | .getMeasurements transport index nonce => Sys2Proof.Machine.execGetMeasurements transport index nonce s
  | .keyExchange transport peerKey => Sys2Proof.Machine.execKeyExchange transport peerKey s
  | .finish transport session ok => Sys2Proof.Machine.execFinish transport session ok s
  | .heartbeat transport session => Sys2Proof.Machine.execHeartbeat transport session s
  | .keyUpdate transport session => Sys2Proof.Machine.execKeyUpdate transport session s
  | .endSession transport session => Sys2Proof.Machine.execEndSession transport session s
  | .vendorDefinedRequest transport code func nonce => Sys2Proof.Machine.execVendorDefinedRequest transport code func nonce s
  | .mctpControl code eid => Sys2Proof.Machine.execMctpControl code eid s
  | .getPdr handle => Sys2Proof.Machine.execGetPdr handle s
  | .getPdrRepositoryInfo => Sys2Proof.Machine.execGetPdrRepositoryInfo s
  | .getSensorReading sensor => Sys2Proof.Machine.execGetSensorReading sensor s
  | .getSensorThresholds sensor => Sys2Proof.Machine.execGetSensorThresholds sensor s
  | .setSensorThresholds sensor lowCrit upWarn upCrit => Sys2Proof.Machine.execSetSensorThresholds sensor lowCrit upWarn upCrit s
  | .setEventReceiver receiver => Sys2Proof.Machine.execSetEventReceiver receiver s
  | .pldmFirmwareUpdate image => Sys2Proof.Machine.execPldmFirmwareUpdate image s
  | .queueEnable func q => Sys2Proof.Machine.execQueueEnable func q s
  | .queueDisable func q => Sys2Proof.Machine.execQueueDisable func q s
  | .queueReset func q => Sys2Proof.Machine.execQueueReset func q s
  | .queueResetDone queue => Sys2Proof.Machine.execQueueResetDone queue s
  | .sqDb func q value => Sys2Proof.Machine.execSqDb func q value s
  | .cqDb func q value => Sys2Proof.Machine.execCqDb func q value s
  | .resumeCompletions func q gen rejectAt => Sys2Proof.Machine.execResumeCompletions func q gen rejectAt s
  | .reissue func q gen => Sys2Proof.Machine.execReissue func q gen s
  | .clearHalt func q gen => Sys2Proof.Machine.execClearHalt func q gen s
  | .slotFetch queue hostData => Sys2Proof.Machine.execSlotFetch queue hostData s
  | .slotReread queue hostData => Sys2Proof.Machine.execSlotReread queue hostData s
  | .doorbellSweep hostData => Sys2Proof.Machine.execDoorbellSweep hostData s
  | .fenceCheckTick => Sys2Proof.Machine.execFenceCheckTick s
  | .fenceTimeout queue seq => Sys2Proof.Machine.execFenceTimeout queue seq s
  | .waitMapTimeout queue => Sys2Proof.Machine.execWaitMapTimeout queue s
  | .deadlineExpiry queue => Sys2Proof.Machine.execDeadlineExpiry queue s
  | .commandCompletion flight measuredUj rejected => Sys2Proof.Machine.execCommandCompletion flight measuredUj rejected s
  | .nop queue => Sys2Proof.Machine.execNop queue s
  | .fenceWait queue => Sys2Proof.Machine.execFenceWait queue s
  | .fenceSignal queue => Sys2Proof.Machine.execFenceSignal queue s
  | .barrier queue => Sys2Proof.Machine.execBarrier queue s
  | .marker queue => Sys2Proof.Machine.execMarker queue s
  | .copyH2d queue => Sys2Proof.Machine.execCopyH2d queue s
  | .copyD2h queue => Sys2Proof.Machine.execCopyD2h queue s
  | .copyD2d queue => Sys2Proof.Machine.execCopyD2d queue s
  | .copyNet queue => Sys2Proof.Machine.execCopyNet queue s
  | .launchKernel queue streams => Sys2Proof.Machine.execLaunchKernel queue streams s
  | .launchGraph queue => Sys2Proof.Machine.execLaunchGraph queue s
  | .graphNodeDispatch flight node streams => Sys2Proof.Machine.execGraphNodeDispatch flight node streams s
  | .streamRearm queue => Sys2Proof.Machine.execStreamRearm queue s
  | .tableCreate queue => Sys2Proof.Machine.execTableCreate queue s
  | .tableLoad queue hostRows => Sys2Proof.Machine.execTableLoad queue hostRows s
  | .tablePrepare queue => Sys2Proof.Machine.execTablePrepare queue s
  | .tableCommit queue => Sys2Proof.Machine.execTableCommit queue s
  | .tableRetire queue => Sys2Proof.Machine.execTableRetire queue s
  | .gather queue => Sys2Proof.Machine.execGather queue s
  | .updateApply queue => Sys2Proof.Machine.execUpdateApply queue s
  | .publishRows queue => Sys2Proof.Machine.execPublishRows queue s
  | .extentMap queue => Sys2Proof.Machine.execExtentMap queue s
  | .extentUnmap queue => Sys2Proof.Machine.execExtentUnmap queue s
  | .retireContext queue => Sys2Proof.Machine.execRetireContext queue s
  | .retireContextDrained context => Sys2Proof.Machine.execRetireContextDrained context s
  | .windowOpen queue => Sys2Proof.Machine.execWindowOpen queue s
  | .windowClose queue => Sys2Proof.Machine.execWindowClose queue s
  | .configStage queue => Sys2Proof.Machine.execConfigStage queue s
  | .configArm queue => Sys2Proof.Machine.execConfigArm queue s
  | .partitionSet queue => Sys2Proof.Machine.execPartitionSet queue s
  | .classSet queue => Sys2Proof.Machine.execClassSet queue s
  | .regulatorSet queue => Sys2Proof.Machine.execRegulatorSet queue s
  | .powerSet queue => Sys2Proof.Machine.execPowerSet queue s
  | .beatSet queue => Sys2Proof.Machine.execBeatSet queue s
  | .samplingSet queue => Sys2Proof.Machine.execSamplingSet queue s
  | .testRun queue => Sys2Proof.Machine.execTestRun queue s
  | .checkStatus queue => Sys2Proof.Machine.execCheckStatus queue s
  | .monitorArm queue => Sys2Proof.Machine.execMonitorArm queue s
  | .monitorRead queue => Sys2Proof.Machine.execMonitorRead queue s
  | .recorderArm queue => Sys2Proof.Machine.execRecorderArm queue s
  | .recorderStop queue => Sys2Proof.Machine.execRecorderStop queue s
  | .query queue => Sys2Proof.Machine.execQuery queue s
  | .groupJoin queue => Sys2Proof.Machine.execGroupJoin queue s
  | .groupLeave queue => Sys2Proof.Machine.execGroupLeave queue s
  | .groupState queue => Sys2Proof.Machine.execGroupState queue s
  | .attest queue => Sys2Proof.Machine.execAttest queue s
  | .keyDomainCreate queue => Sys2Proof.Machine.execKeyDomainCreate queue s
  | .keyDomainErase queue => Sys2Proof.Machine.execKeyDomainErase queue s
  | .flowKey queue => Sys2Proof.Machine.execFlowKey queue s
  | .yarrowBatchDone flight die violation => Sys2Proof.Machine.execYarrowBatchDone flight die violation s
  | .collectionClose part => Sys2Proof.Machine.execCollectionClose part s
  | .updateMergeDone part die => Sys2Proof.Machine.execUpdateMergeDone part die s
  | .applyWindowStart part => Sys2Proof.Machine.execApplyWindowStart part s
  | .applyWindowEnd part => Sys2Proof.Machine.execApplyWindowEnd part s
  | .schedCtrlWrite value => Sys2Proof.Machine.execSchedCtrlWrite value s
  | .faultqBaseWrite operator func value => Sys2Proof.Machine.execFaultqBaseWrite operator func value s
  | .faultqHeadWrite operator func value => Sys2Proof.Machine.execFaultqHeadWrite operator func value s
  | .billBaseWrite value => Sys2Proof.Machine.execBillBaseWrite value s
  | .billHeadWrite value => Sys2Proof.Machine.execBillHeadWrite value s
  | .frameReceive f => Sys2Proof.Machine.execFrameReceive f s
  | .arpRequest sub target => Sys2Proof.Machine.execArpRequest sub target s
  | .neighbourSolicitation sub target => Sys2Proof.Machine.execNeighbourSolicitation sub target s
  | .pfcFrame port paused => Sys2Proof.Machine.execPfcFrame port paused s
  | .portLinkChange sub up locked => Sys2Proof.Machine.execPortLinkChange sub up locked s
  | .portModeWrite port value => Sys2Proof.Machine.execPortModeWrite port value s
  | .packetTransmit sub => Sys2Proof.Machine.execPacketTransmit sub s
  | .rtoExpiry peer psn => Sys2Proof.Machine.execRtoExpiry peer psn s
  | .ackTimer peer => Sys2Proof.Machine.execAckTimer peer s
  | .ccTick => Sys2Proof.Machine.execCcTick s
  | .configNackResend peer mseq => Sys2Proof.Machine.execConfigNackResend peer mseq s
  | .dataWrite p => Sys2Proof.Machine.execDataWrite p s
  | .dataReadReq p => Sys2Proof.Machine.execDataReadReq p s
  | .dataReadResp p => Sys2Proof.Machine.execDataReadResp p s
  | .send p => Sys2Proof.Machine.execSend p s
  | .atomicAddF32 p => Sys2Proof.Machine.execAtomicAddF32 p s
  | .checkClear p => Sys2Proof.Machine.execCheckClear p s
  | .retract p => Sys2Proof.Machine.execRetract p s
  | .beatSync p => Sys2Proof.Machine.execBeatSync p s
  | .joinReq p => Sys2Proof.Machine.execJoinReq p s
  | .joinAccept p => Sys2Proof.Machine.execJoinAccept p s
  | .joinRefuse p => Sys2Proof.Machine.execJoinRefuse p s
  | .configPush p => Sys2Proof.Machine.execConfigPush p s
  | .memberUp p => Sys2Proof.Machine.execMemberUp p s
  | .leave p => Sys2Proof.Machine.execLeave p s
  | .groupMismatch p => Sys2Proof.Machine.execGroupMismatch p s
  | .versionQuery p => Sys2Proof.Machine.execVersionQuery p s
  | .versionReply p => Sys2Proof.Machine.execVersionReply p s
  | .versionReplyTimeout table => Sys2Proof.Machine.execVersionReplyTimeout table s
  | .ack p => Sys2Proof.Machine.execAck p s
  | .nack p => Sys2Proof.Machine.execNack p s
  | .sensorSample values => Sys2Proof.Machine.execSensorSample values s
  | .eventArrival => Sys2Proof.Machine.execEventArrival s
  | .pwrTargetS0 => Sys2Proof.Machine.execPwrTargetS0 s
  | .pwrTargetS1 => Sys2Proof.Machine.execPwrTargetS1 s
  | .pwrTargetS2 => Sys2Proof.Machine.execPwrTargetS2 s
  | .pwrTargetS3 => Sys2Proof.Machine.execPwrTargetS3 s
  | .idleTimeout => Sys2Proof.Machine.execIdleTimeout s
  | .powerEntryDrained => Sys2Proof.Machine.execPowerEntryDrained s
  | .wakeComplete => Sys2Proof.Machine.execWakeComplete s
  | .warmReset hubIntact => Sys2Proof.Machine.execWarmReset hubIntact s
  | .coldReset => Sys2Proof.Machine.execColdReset s
  | .powerOn straps => Sys2Proof.Machine.execPowerOn straps s
  | .bootReady okA okB svnA svnB minA minB digest components regionOk => Sys2Proof.Machine.execBootReady okA okB svnA svnB minA minB digest components regionOk s
  | .minSvnUpdate writeOk => Sys2Proof.Machine.execMinSvnUpdate writeOk s
  | .testUnlock signatureOk svn bind nonce => Sys2Proof.Machine.execTestUnlock signatureOk svn bind nonce s
  | .supplyUndervoltage quarterVolts => Sys2Proof.Machine.execSupplyUndervoltage quarterVolts s
  | .supplyRecovery quarterVolts => Sys2Proof.Machine.execSupplyRecovery quarterVolts s
  | .thermalProtectEntry die milliC => Sys2Proof.Machine.execThermalProtectEntry die milliC s
  | .junctionLimit die milliC => Sys2Proof.Machine.execJunctionLimit die milliC s
  | .dieTrip die milliC => Sys2Proof.Machine.execDieTrip die milliC s
  | .hubTrip milliC => Sys2Proof.Machine.execHubTrip milliC s
  | .hubTripRecovery milliC => Sys2Proof.Machine.execHubTripRecovery milliC s
  | .registerWrite func off size value => Sys2Proof.Machine.execRegisterWrite func off size value s
  | .holdover => Sys2Proof.Machine.execHoldover s
  | .agingSummary => Sys2Proof.Machine.execAgingSummary s
  | .yarrowProgress flight die records => Sys2Proof.Machine.execYarrowProgress flight die records s
  | .regulatorRefill part res ns => Sys2Proof.Machine.execRegulatorRefill part res ns s
  | .inputPowerLoss => Sys2Proof.Machine.execInputPowerLoss s

end Sys2Proof.Machine
end

