-- ==== Sys2Proof/Machine/RegRead.lean ====
section
/-! DEFINITION. What a read of BAR0 returns (00 R6, 13 R344 to R347): every register's value in a state. Reads have no side
effect but the latch of TIME.TSC (02 R36), which is the row TSC_LOW_READ. -/

namespace Sys2Proof.Machine

/-- The 32-bit half of a 64-bit register that an offset names. -/
def half (off v : Nat) : Nat := v / 2 ^ (32 * (off % 8 / 4)) % 2 ^ 32

/-! ### Basic page -/

/-- HOST.FUNC (13 R347). -/
def hostFunc (s : State) (f : Nat) : Nat :=
  let p := funcPart s f
  let tdi := match (getFunc s f).tdi with
    | .unlocked => 0
    | .locked => 1
    | .run => 2
    | .error => 3
  f % 256 + 2 ^ 8 * p.getD 0 + 2 ^ 12 * b2n p.isSome + 2 ^ 13 * b2n ((p.bind (findPart s)).any (·.expert)) + 2 ^ 14 * tdi +
    2 ^ 32 * (256 * (funcBlocks s f).length)

/-- HOST.LINK (13 R347). -/
def hostLink (s : State) (f : Nat) : Nat :=
  s.link.width + 2 ^ 5 * s.link.speed + 2 ^ 8 * b2n s.link.cxl + 2 ^ 9 * b2n s.link.flit + 2 ^ 10 * b2n (getFunc s f).ideSecure +
    2 ^ 16 * (s.link.attach.epoch % 2 ^ 16)

/-- TIME.STATUS (02 R49). -/
def timeStatus (s : State) : Nat :=
  let c := s.clock
  lockCode c.lock + 4 * b2n c.everLocked + 8 * b2n c.holdover + 16 * b2n c.stepOccurred + 2 ^ 8 * c.goodCount

/-- The time and beat registers by their place from 0x100 on (02 R49). -/
def timeReg (s : State) : Nat → Nat
  | 0 => now s
  | 1 => timeStatus s
  | 2 => s.beat.periodUs
  | 3 => s.beat.headUs
  | 4 => beatNo s
  | 5 => (s.beat.switch.map (·.at_)).getD 0
  | _ => 0

/-- A fault queue's block by its places; the billing ring's has no CTRL (09 R259, 12 R336). -/
def ringReg (ctrl : Bool) (r : Ring) : Nat → Nat
  | 0 => r.base.toNat
  | 1 => if ctrl then r.vector + 2 ^ 11 * b2n r.irqEn + 2 ^ 12 * b2n r.valid else 0
  | 2 => r.head
  | 3 => r.tail
  | 4 => r.overflow
  | 5 => r.lost
  | _ => 0

/-- The sixteenth lies in the function's partition. -/
def sees (s : State) (f i : Nat) : Bool := (funcPart s f).isSome && sixteenthOwner s i == funcPart s f

/-- ARRAY.WIDTHn, zero for a tile outside the reader's partition (04 R92). -/
def arrayWidthReg (s : State) (f t : Nat) : Nat :=
  if !sees s f (tileSixteenth t) then 0 else
  let w := getTile s t
  let lost (i : Nat) : Nat := match w.bypass[i]? with
    | some c => 128 + c
    | none => 0
  w.width + 2 ^ 8 * b2n w.retired + 2 ^ 9 * b2n w.quarantined + 2 ^ 10 * b2n w.laneFault + 2 ^ 16 * lost 0 + 2 ^ 24 * lost 1 +
    2 ^ 32 * lost 2 + 2 ^ 40 * lost 3 + 2 ^ 48 * w.gen

/-- MEM.CH_STATUSn, zero for a channel outside the reader's partition (08 R232). -/
def chStatusReg (s : State) (f c : Nat) : Nat :=
  if !sees s f (c / 16) then 0 else
  let w := getChan s c
  let st := match w.st with
    | .active => 0
    | .retraining => 1
    | .mappedOut => 2
    | .dead => 3
  st + 4 * b2n w.candidate + 2 ^ 8 * w.ceHour + 2 ^ 32 * w.ueCount + 2 ^ 48 * w.retrainFail

/-- The frame MAPOUT_STATUS shows: in slot 0 while MOVING (where another stack's frame is in it, in slot 1; DESIGN CHOICE,
log 32), the lowest owned one while WAITING. -/
def mapoutFrame (s : State) (k : Nat) : Nat :=
  match (getStack s k).phase with
  | .moving => ((s.mem.stage.find? fun v => v.2.stack = k).map (·.2.frame)).getD 0
  | .waiting => ((getStack s k).waitFrame.map fun f => f - stackFrame k 0).getD 0
  | _ => 0

/-- MEM.MAPOUT_STATUSn: in the primary function of the stack's owner and in the physical function (08 R233). -/
def mapoutReg (s : State) (f k : Nat) : Nat :=
  let mine := match sixteenthOwner s k with
    | some p => primaryFunc s p = f
    | none => false
  if !(mine || f = 0) then 0 else
  let x := getStack s k
  let phase := match x.phase with
    | .idle => 0
    | .waiting => 1
    | .moving => 2
    | .zeroFill => 3
  phase + 4 * x.channel + 2 ^ 6 * mapoutFrame s k + 2 ^ 22 * b2n x.reduced + 2 ^ 23 * b2n x.retired

/-- TEASEL.COALESCEDn: for the owner of the whole die and the operator (17 R462). -/
def coalescedReg (s : State) (f d : Nat) : Nat :=
  let mine := (List.range 4).all fun i => sees s f (4 * d + i)
  if mine || f = 0 then (smGet s.mem.coalesced 0 d).toNat else 0

/-- TELE.SORREL_SKIPPED of the function's partition (17 R462). -/
def skippedReg (s : State) (f : Nat) : Nat := match (funcPart s f).bind (findPart s) with
  | some p => p.skipped.toNat
  | none => 0

/-- A 32-bit word of the basic page. -/
def basicWord (s : State) (f off : Nat) : Nat :=
  if off < 0x08 then half off (hostFunc s f)
  else if off < 0x10 then half off (hostLink s f)
  else if off < 0x18 then half off (getFunc s f).aperture.toNat
  else if 0x100 ≤ off && off < 0x130 then half off (timeReg s ((off - 0x100) / 8))
  else if 0x200 ≤ off && off < 0x230 then (match faultqOf s false f with
    | some p => half off (ringReg true (getFaultq s p) ((off - 0x200) / 8))
    | none => 0)
  else if 0x400 ≤ off && off < 0x800 then half off (arrayWidthReg s f ((off - 0x400) / 8))
  else if 0x800 ≤ off && off < 0x1000 then half off (chStatusReg s f ((off - 0x800) / 8))
  else if 0x1000 ≤ off && off < 0x1040 then mapoutReg s f ((off - 0x1000) / 4)
  else if 0x1100 ≤ off && off < 0x1120 then half off (coalescedReg s f ((off - 0x1100) / 8))
  else if 0x1120 ≤ off && off < 0x1128 then half off (skippedReg s f)
  else 0

/-! ### The partition expert page (04 R103) -/

/-- ARRAY.DBG_CTRL: TILE and HALTED; its commands read zero. -/
def dbgCtrlReg (s : State) (f : Nat) : Nat := (getFunc s f).dbgTile + 2 ^ 10 * b2n (haltedTile s f).isSome

/-- ARRAY.DBG_STATE of the halted instance. -/
def dbgStateReg (s : State) (f : Nat) : Nat :=
  match (haltedTile s f).bind fun x => (getTile s x.1).matrix with
  | some m => m.chunks % 2 ^ 24 + 2 ^ 24 * m.runPos
  | none => 0

/-- Word i of ARRAY.DBG_DATA: the row that DBG_ROW selects in the file of the selected tile, while it is halted. -/
def dbgDataWord (s : State) (f i : Nat) : Nat :=
  if (haltedTile s f).isNone then 0 else
  let w := getTile s (getFunc s f).dbgTile
  let v := (getFunc s f).dbgRow.toNat
  let at_ (m : SMap U32) (c : Nat) : Nat := (smGet m 0 (v % 256 * 128 + c)).toNat
  if bit v 9 then (if i < 64 then at_ w.accPart (2 * i) % 2 ^ 16 + 2 ^ 16 * (at_ w.accPart (2 * i + 1) % 2 ^ 16) else 0)
  else at_ (if bit v 8 then w.accLo else w.accHi) i

def expertWord (s : State) (f off : Nat) : Nat :=
  let granted := match (funcPart s f).bind (findPart s) with
    | some w => w.expert
    | none => false
  if !granted then 0
  else if off = 0x010000 then dbgCtrlReg s f
  else if off = 0x010004 then (getFunc s f).dbgRow.toNat
  else if off = 0x010008 then dbgStateReg s f
  else if 0x010200 ≤ off && off < 0x010400 then dbgDataWord s f ((off - 0x010200) / 4)
  else 0

/-! ### The physical function's expert page -/

/-- CLOVER.TEMP0 to FIRED (02 R56). -/
def cloverReg (c : Clover) : Nat → Nat
  | 0 => c.temp0
  | 1 => c.temp1
  | 2 => c.supply
  | 3 => c.link
  | 4 => c.ctrl.toNat
  | 5 => c.fired.toNat
  | _ => 0

/-- SEC.STATUS (16 R439). -/
def secStatus (s : State) : Nat :=
  let used := (s.sec.keyDomains.filter fun k => k.2 != 0).length
  s.sec.slot + 2 * b2n s.sec.recovery + 4 * b2n s.sec.testPort + 8 * s.sec.trng + 2 ^ 8 * min 255 (1024 - used) + 2 ^ 32 * s.sec.svn

/-- REC registers (17 R459). -/
def recReg (t : Tele) : Nat → Nat
  | 0 => b2n t.armed + 2 * b2n t.full + 2 ^ 8 * t.gen
  | 1 => t.baseSeq
  | 2 => t.count
  | 3 => t.overflow
  | 4 => t.suppressed
  | 5 => t.capacity
  | _ => 0

/-- BG registers (17 R461). -/
def bgReg (t : Tele) (i : Nat) : Nat :=
  if i = 0 then t.scrubPos + 2 ^ 32 * t.scrubPasses
  else if i < 5 then smGet t.calNext 0 (i - 1) + 2 ^ 8 * smGet t.calWorst 255 (i - 1) + 2 ^ 32 * smGet t.calRot 0 (i - 1)
  else if i = 5 then t.maxErase + 2 ^ 32 * t.spareBlocks + 2 ^ 48 * (t.maxErase * 100 / 100000 % 256)
  else if i < 10 then (smGet t.aging (0, 0) (i - 6)).1 + 2 ^ 32 * (smGet t.aging (0, 0) (i - 6)).2
  else 0

def stateNo : PState → Nat
  | .s0 => 0
  | .s1 => 1
  | .s2 => 2
  | .s3 => 3

/-- PWR.CTRL and PWR.STATUS (18 R465). -/
def pwrReg (p : Power) : Nat → Nat
  | 0 => stateNo p.target + 4 * b2n p.autoS1 + 2 ^ 16 * p.idleUs
  | 1 => stateNo p.state + 4 * b2n p.entering + 8 * b2n p.ready + 16 * p.lastWake + 2 ^ 8 * p.lastReset + 2 ^ 32 * p.warmResets
  | _ => 0

/-- MOD registers (19 R488). -/
def modReg (p : Power) : Nat → Nat
  | 0 => p.protect.toNat + 16 * p.dieTrip.toNat + 2 ^ 8 * b2n p.hubTrip
  | 1 => p.input + 2 ^ 8 * b2n p.brownout + 2 ^ 9 * b2n p.uvTrip
  | 2 => p.modPps.toNat
  | 3 => p.strap
  | _ => 0

def netCtrlReg (n : Net) : Nat := n.udpPort + 2 ^ 16 * n.rtoUs + 2 ^ 26 * n.retryMax
def netCcReg (n : Net) : Nat := n.tHighUs + 2 ^ 8 * n.ai + 2 ^ 16 * n.rateMin + 2 ^ 24 * n.gshift
def portCtrlReg (p : Port) : Nat := p.mode + 4 * p.subEn + 64 * b2n p.pfcEn + 128 * p.pfcMask + 2 ^ 16 * p.mtu

/-- The sub-port block (14 R370, 17 R462). -/
def subReg (w : Sub) : Nat → Nat
  | 0 => w.mac.toNat
  | 1 => w.gw.toNat
  | 2 => w.ip.toNat % 2 ^ 64
  | 3 => w.ip.toNat / 2 ^ 64
  | 4 => b2n w.linkUp + 2 * b2n w.pcs + 2 ^ 16 * w.fec + 2 ^ 32 * w.authDrop
  | 5 => w.asym.toNat
  | 6 => w.rxDrop % 2 ^ 64
  | _ => 0

/-- The boot recorder as it is read: entries 0 to 127 and the ring, each by age (17 R460). -/
def bootWord (t : Tele) (i : Nat) : Nat :=
  let e := if i / 16 < 128 then t.bootFirst.getD (i / 16) [] else t.bootRing.getD (i / 16 - 128) []
  num e (i % 16 * 4) 4

/-- A 32-bit word of the physical function's expert page. -/
def operatorWord (s : State) (off : Nat) : Nat :=
  if off = 0x020000 then s.clock.ctrl.toNat
  else if off = 0x020004 then unsignedOf 32 s.clock.offset
  else if 0x020100 ≤ off && off < 0x020120 then half off (smGet s.clover.wake 0 ((off - 0x020100) / 8)).toNat
  else if 0x020120 ≤ off && off < 0x020138 then cloverReg s.clover ((off - 0x020120) / 4)
  else if off = 0x020200 then s.dbgEn.toNat
  else if off = 0x020300 then s.mem.eccMode
  else if off = 0x020304 then s.mem.thresh + 2 ^ 16 * b2n s.mem.auto + 2 ^ 24 * s.mem.rate
  else if off = 0x020400 then (match s.sched.ctrlNext with
    | some v => v.toNat % 2 ^ 17
    | none => schedCtrl s)
  else if 0x020500 ≤ off && off < 0x020530 then half off (ringReg false s.mem.bill ((off - 0x020500) / 8))
  else if 0x020600 ≤ off && off < 0x020630 then half off (ringReg true s.mem.opFaultq ((off - 0x020600) / 8))
  else if off = 0x020700 then b2n s.link.perstMode + 2 ^ 16 * s.link.biTimeoutMs
  else if 0x020800 ≤ off && off < 0x020840 then num (attachBytes s.link.attach) (off - 0x020800) 4
  else if 0x020900 ≤ off && off < 0x020908 then half off (secStatus s)
  else if 0x020A00 ≤ off && off < 0x020A30 then half off (recReg s.tele ((off - 0x020A00) / 8))
  else if 0x020B00 ≤ off && off < 0x020B50 then half off (bgReg s.tele ((off - 0x020B00) / 8))
  else if 0x020C00 ≤ off && off < 0x020C10 then half off (pwrReg s.power ((off - 0x020C00) / 8))
  else if 0x020D00 ≤ off && off < 0x020D10 then modReg s.power ((off - 0x020D00) / 4)
  else if off = 0x021000 then netCtrlReg s.net
  else if off = 0x021004 then netCcReg s.net
  else if 0x021010 ≤ off && off < 0x021050 then
    (if off % 16 = 0 then portCtrlReg (getPort s ((off - 0x021010) / 16))
     else if off % 16 = 8 then (getPort s ((off - 0x021010) / 16)).qos.toNat else 0)
  else if 0x021100 ≤ off && off < 0x021500 then half off (subReg (getSub s ((off - 0x021100) / 64)) ((off - 0x021100) % 64 / 8))
  else if 0x02C000 ≤ off && off < 0x030000 then bootWord s.tele ((off - 0x02C000) / 4)
  else 0

/-! ### Queue registers and MSI-X -/

/-- A queue's register, at its own width (13 R345). -/
def queueRegRead (s : State) (q off size : Nat) : Nat :=
  let wide := off < 0x18 || off = 0x38 || off = 0x40
  if off % size = 0 && (wide == (size == 8)) then num (queueBytes s q) off size else 0

/-- MSI-X table and pending bits (13 R350). -/
def msixWord (s : State) (f off : Nat) : Nat :=
  let x := smGet (getFunc s f).msix {} (off / 16)
  match off % 16 / 4 with
  | 0 => x.addr.toNat % 2 ^ 32
  | 1 => x.addr.toNat / 2 ^ 32
  | 2 => x.data.toNat
  | _ => b2n x.masked

def pbaWord (s : State) (f i : Nat) : Nat :=
  (List.range 32).foldl (fun n b => n + 2 ^ b * b2n ((smGet (getFunc s f).msix {} (32 * i + b)).pending)) 0

/-- What configuration space reports of a function: vendor, device, class code, revision (13 R341). -/
def configIds (f : Nat) : Nat × Nat × Nat × Nat := (0x1F4B, if f = 0 then 0x0800 else 0x0801, 0x120000, 0x01)

/-- A read of the doorbell page, at any offset and size (10 R265). -/
def doorbellRead (_ _ : Nat) : Nat := 0

/-- The word at a 4-byte aligned offset; zero where no register lies. -/
def regWord (s : State) (f off : Nat) : Nat :=
  if off < 0x010000 then basicWord s f off
  else if off < 0x020000 then expertWord s f off
  else if off < 0x030000 then (if f = 0 then operatorWord s off else 0)
  else if 0x900000 ≤ off && off < 0x900000 + 16 * vecCount f then msixWord s f (off - 0x900000)
  else if 0x908000 ≤ off && off < 0x908000 + vecCount f / 8 then pbaWord s f ((off - 0x908000) / 4)
  else 0

/-- What a read of a function's BAR0 returns (R346): 4 or 8 bytes, naturally aligned, else zero; bits [63:32] of TIME.TSC as 4
bytes are the half that the last read of bits [31:0] latched for the function (02 R36). -/
def regRead (s : State) (f off size : Nat) : Nat :=
  if 255 < f || barDead s f || barUnbound s f then 0
  -- in recovery only HOST.FUNC and HOST.LINK are present (16 R436)
  else if s.sec.recovery && 0x10 ≤ off then 0
  else if !(size == 4 || size == 8) || off % size != 0 || 2 ^ 24 ≤ off then 0
  else if 0x100000 ≤ off && off < 0x900000 then
    (match localQueue s f ((off - 0x100000) / 128) with
    | some q => queueRegRead s q (off % 128) size
    | none => 0)
  else if size = 4 then (if off = 0x104 then (smGet s.clock.latch 0 f).toNat else regWord s f off)
  else regWord s f off + 2 ^ 32 * regWord s f (off + 4)

/-- The MOD_PWRGD pin: released while every rail of the current power state is good; the rails of a tripped die are not (19
R477, R487). -/
def modPwrgd (s : State) : Bool := s.power.rails == .on && s.power.dieTrip == 0

end Sys2Proof.Machine
end

