-- ==== Sys2Proof/Safety.lean ====
section
/-! DEFINITION. The terms of the statements: a command that runs, a safe step, and a submitted command that its queue may
dispatch. -/

namespace Sys2Proof
open Machine

/-- The command runs to a next state with the property. -/
abbrev Runs (i : Instr) (s : State) (P : State → Prop) : Prop := ∃ t, exec i s = .next t ∧ P t

/-- The host reaches the module, which is not in S2: what it writes and reads takes effect. -/
abbrev Reachable (s : State) : Prop := hostReach s = true ∧ s.power.state ≠ .s2

/-- Firmware runs, with the dies and HBM powered: S0 or S1. -/
abbrev Working (s : State) : Prop :=
  s.power.ready = true ∧ s.power.rails = .on ∧ (s.power.state = .s0 ∨ s.power.state = .s1)

/-- `t` is `s` with one tile changed as `f` says. -/
abbrev TileStep (tile : Nat) (f : Tile → Tile) (s t : State) : Prop :=
  t = { s with tiles := smSet s.tiles tile (f (getTile s tile)) }

/-- The tile's instance runs, and its sequencer waits for nothing. -/
abbrev Issues (s : State) (tile : Nat) : Prop := (getTile s tile).run.isSome = true ∧ (getTile s tile).stall = .none_

/-- Comparator `k` fired: its bit is set and it is no longer armed; one event is written; nothing of memory, queues,
commands or tiles changes. -/
abbrev ComparatorFired (k : Nat) (s t : State) : Prop :=
  t.clover = { s.clover with fired := s.clover.fired ||| BitVec.ofNat 32 (2 ^ k) } ∧ cloverArmed t k = false ∧
  (∃ e, t.tele.events = s.tele.events ++ [e] ∧ e.code = evCloverFired ∧ num e.data 0 1 = k) ∧
  t.mem = s.mem ∧ t.queues = s.queues ∧ t.flights = s.flights ∧ t.tiles = s.tiles ∧ t.sched = s.sched ∧ t.tables = s.tables ∧
  t.net = s.net ∧ t.integ = s.integ ∧ t.fences = s.fences ∧ t.sec = s.sec ∧ t.beat = s.beat

/-- A step that neither faults nor refuses. -/
def SafeStep (s : State) : Prop := ∃ t, step s = .next t

/-- `c`, with opcode `op`, is the head of queue `q`, ready as `y` and admitted, and the conditions of 10 R272 hold. -/
abbrev HeadReady (s : State) (q op : Nat) (c : Cmd) (y : Ready) : Prop :=
  (getQueue s q).fetched.head? = some c ∧ hOpcode c.bytes = op ∧ mayDispatch s q c.bytes = true ∧
  (getQueue s q).ready = some y ∧ y.admitted = true ∧ s.beat.paused = false ∧ deadlinePast s y.slot = .ok ∧
  (usesCtx op y.slot && retiringCtx s (hContext y.slot)) = false

/-- The command as its checks and its effect see it: the slot and blocks after indirection (11 R301). -/
def readyReq (s : State) (q : Nat) (c : Cmd) (y : Ready) : Req :=
  { headReq s q c with
    slot := y.slot
    expert := y.expert
    mats := y.mats }

/-- The state at a dispatch: the head has left its queue, and its flight, numbered `s.nextFlight`, runs. -/
def dispatched (s : State) (q : Nat) (c : Cmd) (y : Ready) : State :=
  addFlight (newFlight s (readyReq s q c y) c y.charge y.lc true) (popHead q s)

/-- The packet arrives in S0 on a working sub-port, with the header of this protocol and a tag that verifies. -/
abbrev Arrives (s : State) (p : Packet) : Prop :=
  subUp s p.sub = true ∧ num p.header 0 1 = 1 ∧ authentic s p = true ∧ s.power.state = .s0

end Sys2Proof
end

