-- ==== Sys2Proof/WellFormed.lean ====
section
/-! DEFINITION. Which commands are well formed: every number of a queue, a function, a tile, a channel and so on is one
the block has (00 R9, 01 R13 to R25, 10 R260), and byte strings have the length the spec gives them. -/

namespace Sys2Proof

/-- Queues of the device (10 R260). -/
abbrev queueCount : Nat := 65536
/-- PCIe functions (13 R341). -/
abbrev funcCount : Nat := 256
/-- Tiles: die × 32 + tile (01 R15). -/
abbrev tileCount : Nat := 128

/-- A header of 72 bytes, a payload of at most 8,192 bytes, a real sub-port (14 R372, R373). -/
def Packet.wf (p : Packet) : Bool := p.header.length = 72 && p.payload.length ≤ 8192 && p.sub < 16

/-- A 64-byte stream descriptor for a real engine of a real tile (05 R133). -/
def StreamDesc.wf (d : StreamDesc) : Bool := d.tile < tileCount && d.engine < 8 && d.bytes.length = 64

def Instr.wf : Instr → Bool
  | .ptpMessage sub _ _ _ => sub < 16
  | .todMessage bytes => bytes.length = 16
  | .ppsEdge => true
  | .measurementTimeout => true
  | .unlockedGroupTimeout => true
  | .ppsOutEdge => true
  | .todTransmit => true
  | .tscLowRead func => func < funcCount
  | .beatEdge _ => true
  | .admissionResume => true
  | .beatHeadEnd => true
  | .beatPeriodSwitch => true
  | .cloverWakeFire n => n < 4
  | .cloverTempFire n _ => n < 2
  | .cloverSupplyFire _ => true
  | .cloverLinkFire _ => true
  | .cloverFiredWrite _ => true
  | .instanceStart tile _ _ => tile < tileCount
  | .setvl tile _ => tile < tileCount
  | .vloop tile bodyLen => tile < tileCount && bodyLen < 8192
  | .vend tile => tile < tileCount
  | .loop tile _ bodyLen => tile < tileCount && bodyLen < 8192
  | .lend tile => tile < tileCount
  | .sop tile _ _ _ _ => tile < tileCount
  | .swait tile stream _ => tile < tileCount && stream < 8
  | .swaitMet tile => tile < tileCount
  | .sadv tile stream _ => tile < tileCount && stream < 8
  | .gq tile stream _ _ => tile < tileCount && stream < 8
  | .sdrain tile stream => tile < tileCount && stream < 8
  | .sdrainDone tile => tile < tileCount
  | .mma tile _ => tile < tileCount
  | .mwait tile => tile < tileCount
  | .fsig tile _ _ => tile < tileCount
  | .fwait tile _ _ => tile < tileCount
  | .fwaitMet tile => tile < tileCount
  | .bar tile _ members => tile < tileCount && members.all (· < tileCount)
  | .barGroupComplete die _ => die < 4
  | .end_ tile => tile < tileCount
  | .instanceEnd tile => tile < tileCount
  | .arith tile _ _ _ _ _ _ _ => tile < tileCount
  | .int tile _ _ _ _ _ => tile < tileCount
  | .cmp tile _ _ _ _ _ => tile < tileCount
  | .maskop tile _ _ _ _ => tile < tileCount
  | .cvt tile _ _ _ _ => tile < tileCount
  | .trans tile _ _ _ _ => tile < tileCount
  | .div tile _ _ _ _ _ => tile < tileCount
  | .perm tile _ _ _ _ => tile < tileCount
  | .reduce tile _ _ _ _ _ => tile < tileCount
  | .ldv tile _ _ _ => tile < tileCount
  | .stv tile _ _ _ => tile < tileCount
  | .matrixInstanceEnd tile => tile < tileCount
  | .guardReplayDone tile => tile < tileCount
  | .debugHalt tile => tile < tileCount
  | .dbgResume func => func < funcCount
  | .dbgAbort func => func < funcCount
  | .arrayRampDown tile => tile < tileCount
  | .kernelComplete _ => true
  | .durationOverrun tile => tile < tileCount
  | .longInstanceCheck tile duplicateTile => tile < tileCount && duplicateTile < tileCount
  | .checkAgeExpiry tile => tile < tileCount
  | .checkWatermarkTick => true
  | .provisionalExpiry => true
  | .quarantineTestDone tile _ => tile < tileCount
  | .testSlotStart tile => tile < tileCount
  | .testSlotEnd tile _ => tile < tileCount
  | .calibrationTimer => true
  | .scratchpadEccError tile _ => tile < tileCount
  | .hubSramEccError _ => true
  | .lockstepMismatch => true
  | .flitCrcError _ _ => true
  | .trngHealthFail => true
  | .streamResponse tile engine _ _ => tile < tileCount && engine < 8
  | .storeAck tile engine _ => tile < tileCount && engine < 8
  | .channelRequest context _ _ _ _ _ _ _ _ _ => context < 65536
  | .channelServe channel _ => channel < 256
  | .guardWindowStart channel => channel < 256
  | .refresh channel => channel < 256
  | .retrainSlot => true
  | .retrainDone channel _ => channel < 256
  | .zeroFillDone stack => stack < 16
  | .scrubRead channel _ _ => channel < 256
  | .scrubPriorityTimeout channel => channel < 256
  | .ceHourRollover => true
  | .mapoutStart stack => stack < 16
  | .mapoutCmd _ => true
  | .mapoutFrameStaged stack slot => stack < 16 && slot < 2
  | .mapoutFrameWritten stack slot => stack < 16 && slot < 2
  | .cxlMemRead _ _ => true
  | .cxlMemWrite _ data => data.length = 64
  | .birsp _ _ => true
  | .biTimeout _ => true
  | .hostSnoop _ => true
  | .hostReadCompletion _ _ => true
  | .hostWriteGo _ => true
  | .hostAccessReject _ => true
  | .bar4Read func _ _ => func < funcCount
  | .bar4Write func _ _ => func < funcCount
  | .linkLoss _ => true
  | .linkUp _ _ _ => true
  | .perstAssert => true
  | .functionLevelReset func => func < funcCount
  | .ideIntegrityFail func => func.all (· < funcCount)
  | .ideKm func => func.all (· < funcCount)
  | .tdispRequest func _ => func < funcCount
  | .msixUnmask func _ => func < funcCount
  | .getVersion transport => transport < 3
  | .getCapabilities transport => transport < 3
  | .negotiateAlgorithms transport _ => transport < 3
  | .getDigests transport => transport < 3
  | .getCertificate transport _ _ _ => transport < 3
  | .challenge transport _ => transport < 3
  | .getMeasurements transport _ _ => transport < 3
  | .keyExchange transport _ => transport < 3
  | .finish transport _ _ => transport < 3
  | .heartbeat transport _ => transport < 3
  | .keyUpdate transport _ => transport < 3
  | .endSession transport _ => transport < 3
  | .vendorDefinedRequest transport _ func _ => transport < 3 && func < funcCount
  | .mctpControl _ _ => true
  | .getPdr _ => true
  | .getPdrRepositoryInfo => true
  | .getSensorReading _ => true
  | .getSensorThresholds _ => true
  | .setSensorThresholds _ _ _ _ => true
  | .setEventReceiver _ => true
  | .pldmFirmwareUpdate _ => true
  | .queueEnable func q => func < funcCount && q < queueCount
  | .queueDisable func q => func < funcCount && q < queueCount
  | .queueReset func q => func < funcCount && q < queueCount
  | .queueResetDone queue => queue < queueCount
  | .sqDb func q _ => func < funcCount && q < queueCount
  | .cqDb func q _ => func < funcCount && q < queueCount
  | .resumeCompletions func q gen _ => func < funcCount && q < queueCount && gen < 65536
  | .reissue func q gen => func < funcCount && q < queueCount && gen < 65536
  | .clearHalt func q gen => func < funcCount && q < queueCount && gen < 65536
  | .slotFetch queue _ => queue < queueCount
  | .slotReread queue _ => queue < queueCount
  | .doorbellSweep _ => true
  | .fenceCheckTick => true
  | .fenceTimeout queue _ => queue < queueCount
  | .waitMapTimeout queue => queue < queueCount
  | .deadlineExpiry queue => queue < queueCount
  | .commandCompletion _ _ _ => true
  | .nop queue => queue < queueCount
  | .fenceWait queue => queue < queueCount
  | .fenceSignal queue => queue < queueCount
  | .barrier queue => queue < queueCount
  | .marker queue => queue < queueCount
  | .copyH2d queue => queue < queueCount
  | .copyD2h queue => queue < queueCount
  | .copyD2d queue => queue < queueCount
  | .copyNet queue => queue < queueCount
  | .launchKernel queue streams => queue < queueCount && streams.all StreamDesc.wf
  | .launchGraph queue => queue < queueCount
  | .graphNodeDispatch _ _ streams => streams.all StreamDesc.wf
  | .streamRearm queue => queue < queueCount
  | .tableCreate queue => queue < queueCount
  | .tableLoad queue _ => queue < queueCount
  | .tablePrepare queue => queue < queueCount
  | .tableCommit queue => queue < queueCount
  | .tableRetire queue => queue < queueCount
  | .gather queue => queue < queueCount
  | .updateApply queue => queue < queueCount
  | .publishRows queue => queue < queueCount
  | .extentMap queue => queue < queueCount
  | .extentUnmap queue => queue < queueCount
  | .retireContext queue => queue < queueCount
  | .retireContextDrained context => context < 65536
  | .windowOpen queue => queue < queueCount
  | .windowClose queue => queue < queueCount
  | .configStage queue => queue < queueCount
  | .configArm queue => queue < queueCount
  | .partitionSet queue => queue < queueCount
  | .classSet queue => queue < queueCount
  | .regulatorSet queue => queue < queueCount
  | .powerSet queue => queue < queueCount
  | .beatSet queue => queue < queueCount
  | .samplingSet queue => queue < queueCount
  | .testRun queue => queue < queueCount
  | .checkStatus queue => queue < queueCount
  | .monitorArm queue => queue < queueCount
  | .monitorRead queue => queue < queueCount
  | .recorderArm queue => queue < queueCount
  | .recorderStop queue => queue < queueCount
  | .query queue => queue < queueCount
  | .groupJoin queue => queue < queueCount
  | .groupLeave queue => queue < queueCount
  | .groupState queue => queue < queueCount
  | .attest queue => queue < queueCount
  | .keyDomainCreate queue => queue < queueCount
  | .keyDomainErase queue => queue < queueCount
  | .flowKey queue => queue < queueCount
  | .yarrowBatchDone _ die _ => die < 4
  | .collectionClose part => part < 16
  | .updateMergeDone part die => part < 16 && die < 4
  | .applyWindowStart part => part < 16
  | .applyWindowEnd part => part < 16
  | .schedCtrlWrite _ => true
  | .faultqBaseWrite _ func _ => func < funcCount
  | .faultqHeadWrite _ func _ => func < funcCount
  | .billBaseWrite _ => true
  | .billHeadWrite _ => true
  | .frameReceive f => f.sub < 16
  | .arpRequest sub _ => sub < 16
  | .neighbourSolicitation sub _ => sub < 16
  | .pfcFrame port _ => port < 4
  | .portLinkChange sub _ _ => sub < 16
  | .portModeWrite port _ => port < 4
  | .packetTransmit sub => sub < 16
  | .rtoExpiry peer _ => peer < 65535
  | .ackTimer peer => peer < 65535
  | .ccTick => true
  | .configNackResend peer _ => peer < 65535
  | .dataWrite p => p.wf
  | .dataReadReq p => p.wf
  | .dataReadResp p => p.wf
  | .send p => p.wf
  | .atomicAddF32 p => p.wf
  | .checkClear p => p.wf
  | .retract p => p.wf
  | .beatSync p => p.wf
  | .joinReq p => p.wf
  | .joinAccept p => p.wf
  | .joinRefuse p => p.wf
  | .configPush p => p.wf
  | .memberUp p => p.wf
  | .leave p => p.wf
  | .groupMismatch p => p.wf
  | .versionQuery p => p.wf
  | .versionReply p => p.wf
  | .versionReplyTimeout table => table < 4096
  | .ack p => p.wf
  | .nack p => p.wf
  | .sensorSample _ => true
  | .eventArrival => true
  | .pwrTargetS0 => true
  | .pwrTargetS1 => true
  | .pwrTargetS2 => true
  | .pwrTargetS3 => true
  | .idleTimeout => true
  | .powerEntryDrained => true
  | .wakeComplete => true
  | .warmReset _ => true
  | .coldReset => true
  | .powerOn _ => true
  | .bootReady _ _ _ _ _ _ _ _ _ => true
  | .minSvnUpdate _ => true
  | .testUnlock _ _ _ _ => true
  | .supplyUndervoltage _ => true
  | .supplyRecovery _ => true
  | .thermalProtectEntry die _ => die < 4
  | .junctionLimit die _ => die < 5
  | .dieTrip die _ => die < 4
  | .hubTrip _ => true
  | .hubTripRecovery _ => true
  | .registerWrite func _ size _ => func < funcCount && (size = 4 || size = 8)
  | .holdover => true
  | .agingSummary => true
  | .yarrowProgress _ die _ => die < 4
  | .regulatorRefill part _ _ => part < 16
  | .inputPowerLoss => true

end Sys2Proof
end

