-- ==== Sys2Proof/Certificates/Slice0/Obligations.lean ====
section
/-! DEFINITION. The statements for the provers. -/

open Sys2Proof Sys2Proof.Machine

/-! ### The step -/

/-- A step with a command at the front of the queue is exec of that command on the state with the queue's rest. -/
def Obligations.StepRunsFrontCommand : Prop :=
  ∀ (c : Instr) (rest : List Instr) (s : State), s.pending = c :: rest → step s = exec c { s with pending := rest }

/-- On an empty queue the block only lets time pass (the model's choice, log 2): nothing but the clock changes, and without
input power nothing at all. -/
def Obligations.EmptyQueueOnlyTicks : Prop :=
  ∀ s : State, s.pending = [] →
    (∃ c, step s = .next { s with clock := c }) ∧ (s.power.rails = .none_ → step s = .next s)

/-- Every step takes exactly the front command: none is lost, repeated or moved. -/
def Obligations.QueueIsFirstInFirstOut : Prop :=
  ∀ s t : State, step s = .next t → t.pending = s.pending.tail

/-- Invariant: memory keeps its canonical form in every step. -/
def Obligations.MemoryFormKept : Prop :=
  ∀ s t : State, Memory.wf s.mem → step s = .next t → Memory.wf t.mem

/-- The state after reset is in canonical form and has no command waiting. -/
def Obligations.ResetIsCanonical : Prop :=
  Memory.wf State.reset.mem ∧ State.reset.pending = [] ∧ State.reset.mem.cells = []

/-- Reset values that the spec states. -/
def Obligations.ResetValues : Prop :=
  let s := State.reset
  s.clock.tsc = 0 ∧ s.clock.lock = .unlocked ∧ s.clock.ctrl = 0 ∧ s.beat.periodUs = 250 ∧ s.beat.headUs = 10 ∧
  s.clover.temp0 = 0x5F ∧ s.clover.temp1 = 0x5F ∧ s.clover.supply = 0xB4 ∧ s.clover.link = 0x10 ∧ s.clover.ctrl = 0 ∧
  (∀ q, (getQueue s q).life = .disabled ∧ (getQueue s q).sqSize = 6 ∧ (getQueue s q).cqSize = 6 ∧ (getQueue s q).depth = 64 ∧
    (getQueue s q).gen = 0) ∧
  (∀ f, fenceVal s f = 0) ∧ (∀ w, smFind s.mem.windows w = none) ∧ (∀ i, smFind s.mem.owners i = none) ∧
  (∀ p, findPart s p = none) ∧
  (∀ t, (getTile s t).width = 128 ∧ (getTile s t).vl = 128 ∧ (getTile s t).retired = false) ∧
  (∀ c, (getChan s c).st = .active ∧ (getChan s c).ceHour = 0) ∧
  s.mem.eccMode = 0 ∧ s.mem.thresh = 4096 ∧ s.mem.auto = true ∧ s.mem.rate = 40 ∧
  s.sched.beMaxUs = 100 ∧ s.sched.spareEn = true ∧ s.sched.limitW = 1800 ∧
  s.net.udpPort = 41870 ∧ s.net.rtoUs = 20 ∧ s.net.retryMax = 10 ∧ s.net.tHighUs = 30 ∧ s.net.ai = 50 ∧ s.net.rateMin = 10 ∧
  s.net.gshift = 4 ∧ (∀ p, (getPort s p).mtu = 9000 ∧ (getPort s p).mode = 0) ∧
  s.link.biTimeoutMs = 10 ∧ s.link.perstMode = false ∧ s.power.idleUs = 100 ∧ s.power.ready = false ∧
  s.power.state = .s0 ∧ s.power.lastReset = 0 ∧ s.net.group.gstate = 0 ∧ s.net.group.device = 0xFFFF

/-! ### Memory -/

/-- A byte read after a write of `bs` at `a` is the written one inside the range and the old one outside it. -/
def Obligations.ReadAfterWrite : Prop :=
  ∀ (cells : List Host.Cell) (a : Nat) (bs : List Byte) (b : Nat), cellsWf cells →
    cellGet (cellsPut cells a bs) b = if a ≤ b ∧ b < a + bs.length then bs.getD (b - a) 0 else cellGet cells b

/-! ### Time (02) -/

/-- Measurements and their absence: each command changes the clock, and but for it only the events. -/
def Obligations.TimeMeasurements : Prop :=
  ∀ s : State,
  (∀ sub domain transport source, ctlSource s = 1 → sub = ctlPort s → domain = ctlDomain s → transport = ctlTransport s →
    (s.power.state = .s0 ∨ s.power.state = .s1) →
    ∃ c e, exec (.ptpMessage sub domain transport source) s = .next { s with
        clock := c
        tele := e } ∧
      c.offset = satOffset (offsetTo s (ptpSource sub source s)) ∧ c.measured = true ∧ c.holdover = false ∧ c.lastValid = c.tsc) ∧
  (∀ m : Tod, ctlSource s = 2 → s.clock.tod = some m → m.arrived + 100000000 ≤ now s → now s ≤ m.arrived + 900000000 →
    ∃ c e, exec .ppsEdge s = .next { s with
        clock := c
        tele := e } ∧
      c.offset = satOffset (offsetTo s (m.taiSec * secNs) - ppsInDelay s) ∧ c.tod = none ∧ c.lastValid = c.tsc ∧
      c.measured = true ∧ c.utcOffset = m.utcOffset ∧ c.todFlags = m.flags) ∧
  (∀ b : List Byte, ctlSource s = 2 → b.length = 16 → num b 0 2 = 0x3CC3 → num b 2 1 = 1 →
    exec (.todMessage b) s = .next { s with clock := { s.clock with
      tod := todKept b (now s) } } ∧
    (crc16 (b.take 14) ≠ num b 14 2 → todKept b (now s) = none) ∧
    (crc16 (b.take 14) = num b 14 2 → todKept b (now s) =
      some { taiSec := num b 3 8, utcOffset := num b 11 2, flags := num b 13 1, arrived := now s })) ∧
  (s.clock.lock ≠ .unlocked →
    ∃ c e, exec .measurementTimeout s = .next { s with
        clock := c
        tele := e } ∧
      c.lock = .unlocked ∧ c.goodCount = 0 ∧ c.tsc = max (now s) (s.clock.lastValid + 2000000000) ∧ c.unlockedSince = c.tsc) ∧
  exec .holdover s = .next { s with clock := { (advance (s.clock.lastValid + 1000000000) s).clock with
      holdover := true } } ∧
  (s.clock.lock = .unlocked → 2 ≤ s.net.group.gstate → s.net.group.leave = none →
    exec .unlockedGroupTimeout s = .next { advance (s.clock.unlockedSince + 10000000000) s with
      net := { s.net with group := { s.net.group with
        gstate := 3
        leave := some none } } })

/-- The 1PPS and ToD outputs, and TIME.TSC's two halves: a read of the low one answers bits [31:0] and latches the rest, which
the function's 4-byte read of the high half returns and a later change of the TSC does not touch (R36, R41; the layout of a ToD
message is R39's). -/
def Obligations.TimeOutputs : Prop :=
  ∀ s : State,
  (ppsOutEn s = true →
    ∃ t, exec .ppsOutEdge s = .next t ∧
      t = { s with clock := { (advance (nextPps s) s).clock with ppsEdge := some (nextPps s) } } ∧
      (now s ≤ nextPps s → ppsOutHigh t = true) ∧
      (∀ u : State, u.clock.ppsEdge = some (nextPps s) → (ppsOutHigh u = true ↔ now u < nextPps s + 100000000))) ∧
  (bits s.power.modPps.toNat 31 16 = 0 → nextPps s % 1000000000 = 0 ∧ now s ≤ nextPps s) ∧
  (ppsOutEn s = true →
    ∃ b : List Byte, b.length = 16 ∧ num b 0 2 = 0x3CC3 ∧ num b 3 8 = todSecond s / secNs % 2 ^ 64 ∧
      exec .todTransmit s = .next { advance (nextTodTx s) s with
        out := { s.out with tod := s.out.tod ++ [b] } }) ∧
  (∀ func, ∃ t, exec (.tscLowRead func) s = .next t ∧ t = { s with
      clock := { s.clock with latch := smSet s.clock.latch func (BitVec.ofNat 32 (now s / 2 ^ 32)) }
      out := { s.out with reads := s.out.reads ++ [(func, BitVec.ofNat 32 (now s))] } } ∧
    (∀ u : State, u.clock.latch = t.clock.latch → func ≤ 255 → barDead u func = false → barUnbound u func = false →
      u.sec.recovery = false → regRead u func 0x104 4 = now s / 2 ^ 32 % 2 ^ 32))

/-- R42 and R43. After the first measurement the TSC never moves back, and it steps only forward and only outside a group.
LOCKED needs eight good measurements in a row, and an offset above 2 µs always unlocks. -/
def Obligations.MeasurementRules : Prop :=
  (∀ (member : Bool) (tsc : Nat) (off : Int) (t : Nat) (c : Correction) (b : Bool),
      correctionOf false member tsc off = (t, c, b) →
      (b = true ↔ off < -1000000 ∧ member = false) ∧ (b = false → t = tsc) ∧
      ((tsc : Int) - off < 2 ^ 64 → tsc ≤ t) ∧ (b = true → (t : Int) = ((tsc : Int) - off) % 2 ^ 64 ∧ c = .none) ∧
      (b = false → off ≠ 0 → c = if 1000000 < off ∧ member = false then .halfRate off else .slew off)) ∧
  (∀ (l : LockState) (good : Nat) (off : Int),
      (2000 < off.natAbs → lockAfter l (if off.natAbs ≤ 250 then min 255 (good + 1) else 0) off = .unlocked) ∧
      (off.natAbs ≤ 250 → lockAfter l (min 255 (good + 1)) off = if 8 ≤ good + 1 then .locked else l) ∧
      (250 < off.natAbs → off.natAbs ≤ 2000 → lockAfter l 0 off = if l = .locked then .degraded else l))

/-- Clover's comparators fire while armed, once per arming, whatever their WAKE and IRQ bits (R56, R57). -/
def Obligations.ComparatorsFire : Prop :=
  ∀ s : State,
  (∀ n, n < 4 → cloverArmed s n = true →
    Runs (.cloverWakeFire n) s fun t => ComparatorFired n s t ∧ (smGet s.clover.wake 0 n).toNat ≤ now t) ∧
  (∀ n c, n < 2 → cloverArmed s (4 + n) = true → (if n = 0 then s.clover.temp0 else s.clover.temp1) ≤ c →
    Runs (.cloverTempFire n c) s fun t => ComparatorFired (4 + n) s t ∧ t.clock = s.clock) ∧
  (∀ v, cloverArmed s 6 = true → v < s.clover.supply →
    Runs (.cloverSupplyFire v) s fun t => ComparatorFired 6 s t ∧ t.clock = s.clock) ∧
  (cloverArmed s 7 = true → Runs (.cloverLinkFire s.clover.link) s fun t => ComparatorFired 7 s t ∧ t.clock = s.clock) ∧
  (∀ v : BitVec 32, Reachable s →
    exec (.cloverFiredWrite v) s = .next { s with clover := { s.clover with fired := s.clover.fired &&& ~~~v } })

/-! ### Beats (02, 12) -/

/-- BEAT_EDGE runs the steps of the beat head in their order: the edge and its records, configuration, budgets of the beat,
the table actions; then the heads of R46 and the switch of R47 and R48, after which messages that named beats of the new
period act. -/
def Obligations.BeatRows : Prop :=
  ∀ s : State, Working s →
  (∀ uj s1 s2, switchFirst s (nextEdge s) = false → s1 = edgePower (nextEdge s) (edgeBegin (nextEdge s) s) →
    s2 = openBudgets (energyPart s1 uj) (edgeConfig (nextEdge s) s1) →
    exec (.beatEdge uj) s = .next (settle (tablesStep6 (advance (nextEdge s + 1500) { s2 with
      tele := { s2.tele with hot := [] } })))) ∧
  (∀ e, s.beat.edge = some e → s.beat.paused = true →
    exec .admissionResume s = .next (admitReady { advance (e + 2000) s with
      beat := { s.beat with paused := false } })) ∧
  (∀ e, s.beat.edge = some e → s.beat.inHead = true → s.beat.paused = false →
    exec .beatHeadEnd s = .next (releaseGathers (overrunEvents { advance (e + headNs s) s with
      beat := { s.beat with inHead := false } }))) ∧
  (∀ w, s.beat.switch = some w → w.at_ ≤ nextEdge s →
    ∃ t, exec .beatPeriodSwitch s = .next (t.net.flows.foldl (fun u f => runEffects f.1 66 u) t) ∧
      t.beat.periodUs = w.periodUs ∧ t.beat.switch = none ∧ w.at_ ≤ now t ∧
      t.beat.lastSwitch = some (w.at_, beatNs s) ∧
      (s.sched.sets = [] → s.tele.monitors = [] → t.mem = s.mem ∧ t.tiles = s.tiles ∧ t.queues = s.queues))

/-- R48: at a switch instant a future beat becomes the first new one that starts at or after it. -/
def Obligations.ConvertedBeatIsFirst : Prop :=
  ∀ old new at_ b : Nat, 0 < new → at_ ≤ b * old →
    b * old ≤ convBeat old new at_ b * new ∧ (∀ c, b * old ≤ c * new → convBeat old new at_ b ≤ c) ∧
    at_ ≤ convBeat old new at_ b * new

/-- R323 and R324: a partition's budget is its share, never more than E_part, and its available energy and debt together
fall by the debt paid. -/
def Obligations.BudgetOfABeat : Prop :=
  ∀ (s : State) (e p b : Nat) (w : Part),
    (sixteenthsView s p w).2 ≠ 0 → viewShare s p w ≤ max 4096 (sumShares s) → budgetOf s e p w ≤ e ∧
    (openBudget b w).budget = b ∧ (openBudget b w).reserve = b * w.lcPercent / 100 ∧ 0 ≤ (openBudget b w).avail ∧
    (w.carry = false → (openBudget b w).avail = b - min w.debt b) ∧ (openBudget b w).avail ≤ max b (4 * b) ∧
    (openBudget b w).debt ≤ w.debt ∧
    (w.carry = true → 0 ≤ w.avail → w.debt = 0 → (openBudget b w).avail = min (4 * b : Int) (b + w.avail))

/-! ### Tiles: the sequencer (05) -/

/-- What a sequencer instruction does to its tile: registers, streams and flags, with the pc on the next one. A stream that the kernel has
not defined has nothing to advance (the model's choice, log 14). -/
def Obligations.SequencerRows : Prop :=
  ∀ (s : State) (tile : Nat), Issues s tile →
  (∀ op d a b, Runs (.sop tile op d a b) s (TileStep tile (fun t => { t with
      sreg := smSet t.sreg d.val (BitVec.ofNat 64 (sopVal op (sval t a) (sval t b)))
      pc := t.pc + 1 }) s)) ∧
  (∀ st n x, findStream (getTile s tile) st = some x →
    Runs (.sadv tile st n) s (TileStep tile (fun t => { t with
      streams := smSet t.streams st (advStream (tileConv s tile) (sval t n) x t)
      flags := t.flags ||| (if x.kind = 1 then streamFlag (tileConv s tile) x x.pos (sval t n) else 0)
      pc := t.pc + 1 }) s)) ∧
  (∀ st off cnt x, findStream (getTile s tile) st = some x →
    Runs (.gq tile st off cnt) s (TileStep tile (fun t => { t with
      streams := smSet t.streams st { x with
        idx := x.idx ++ (List.range (sval t cnt)).map (fun i =>
          num (spadRead t (tileConv s tile) (sval t off) (8 * sval t cnt)) (8 * i) 8) }
      flags := t.flags ||| spadFlag (tileConv s tile) (sval t off) (8 * sval t cnt)
      pc := t.pc + 1 }) s)) ∧
  (∀ st n off cnt, findStream (getTile s tile) st = none →
    Runs (.sadv tile st n) s (TileStep tile (fun t => { t with pc := t.pc + 1 }) s) ∧
    Runs (.gq tile st off cnt) s (TileStep tile (fun t => { t with pc := t.pc + 1 }) s)) ∧
  Runs (.end_ tile) s (TileStep tile (fun t => { t with stall := .ending }) s)

/-- R114, word for word. -/
def Obligations.SetvlRule : Prop :=
  ∀ (s : State) (tile : Nat) (src : SOp), Issues s tile →
    ∃ f, Runs (.setvl tile src) s (TileStep tile f s) ∧
      let v := sval (getTile s tile) src
      let t' := f (getTile s tile)
      t'.pc = (getTile s tile).pc + 1 ∧
      (v = 0 → t'.vl = (getTile s tile).vl ∧ vStrips t' = 0 ∧ t'.flags = (getTile s tile).flags) ∧
      (8192 < v → t'.vl = 8192 ∧ vStrips t' = 64 ∧ t'.flags = (getTile s tile).flags ||| fVlClamped) ∧
      (0 < v → v ≤ 8192 → t'.vl = v ∧ vStrips t' = (v + 127) / 128 ∧ t'.flags = (getTile s tile).flags) ∧
      t' = { getTile s tile with
        vl := t'.vl
        vlZero := t'.vlZero
        flags := t'.flags
        pc := t'.pc } ∧
      (∀ n u, v = 0 → (getTile s tile).vloop = none → TileStep tile f s u →
        Runs (.vloop tile n) u (TileStep tile (fun w => { w with
          vlZero := false
          pc := w.pc + n + 2 }) u))

/-- Loops: LOOP runs its body COUNT times and VLOOP once for each strip; an ill-formed nest stops by name (log 14). -/
def Obligations.LoopRows : Prop :=
  ∀ (s : State) (tile n : Nat), Issues s tile →
  ((getTile s tile).vloop = none → vStrips (getTile s tile) ≠ 0 →
    Runs (.vloop tile n) s (TileStep tile (fun t => { t with
      vloop := some { body := t.pc + 1, strip := 0, strips := vStrips t }
      vlZero := false
      pc := t.pc + 1 }) s)) ∧
  ((getTile s tile).vloop = none → vStrips (getTile s tile) = 0 →
    Runs (.vloop tile n) s (TileStep tile (fun t => { t with
      vlZero := false
      pc := t.pc + n + 2 }) s)) ∧
  (∀ v, (getTile s tile).vloop = some v →
    (v.strip + 1 < v.strips → Runs (.vend tile) s (TileStep tile (fun t => { t with
      vloop := some { v with strip := v.strip + 1 }
      pc := v.body }) s)) ∧
    (v.strips ≤ v.strip + 1 → Runs (.vend tile) s (TileStep tile (fun t => { t with
      vloop := none
      pc := t.pc + 1 }) s)) ∧
    exec (.vloop tile n) s = .fault .loopInVloop ∧ (∀ src, exec (.loop tile src n) s = .fault .loopInVloop) ∧
    exec (.lend tile) s = .fault .lendWithoutLoop) ∧
  ((getTile s tile).vloop = none → exec (.vend tile) s = .fault .vendWithoutVloop) ∧
  (∀ src, (getTile s tile).vloop = none → (getTile s tile).loops.length < 8 →
    (sval (getTile s tile) src % 2 ^ 32 = 0 → Runs (.loop tile src n) s (TileStep tile (fun t => { t with
      pc := t.pc + n + 2 }) s)) ∧
    (sval (getTile s tile) src % 2 ^ 32 ≠ 0 → Runs (.loop tile src n) s (TileStep tile (fun t => { t with
      loops := { body := t.pc + 1, left := sval t src % 2 ^ 32 } :: t.loops
      pc := t.pc + 1 }) s))) ∧
  (∀ src, (getTile s tile).vloop = none → 8 ≤ (getTile s tile).loops.length → exec (.loop tile src n) s = .fault .loopDepth) ∧
  (∀ l rest, (getTile s tile).vloop = none → (getTile s tile).loops = l :: rest →
    (1 < l.left → Runs (.lend tile) s (TileStep tile (fun t => { t with
      loops := { l with left := l.left - 1 } :: rest
      pc := l.body }) s)) ∧
    (l.left ≤ 1 → Runs (.lend tile) s (TileStep tile (fun t => { t with
      loops := rest
      pc := t.pc + 1 }) s))) ∧
  ((getTile s tile).vloop = none → (getTile s tile).loops = [] → exec (.lend tile) s = .fault .lendWithoutLoop)

/-- Only an ill-formed nest of loops stops the machine: every other command answers a next state, and none is refused. -/
def Obligations.OnlyLoopsStop : Prop :=
  ∀ (i : Instr) (s : State), (∃ t, exec i s = .next t) ∨
    ∃ (tile : Nat) (f : Fault), exec i s = .fault f ∧ Issues s tile ∧
      (i = .vend tile ∨ i = .lend tile ∨ (∃ n, i = .vloop tile n) ∨ ∃ src n, i = .loop tile src n)

/-- SWAIT, SDRAIN, MWAIT and FWAIT go on when their condition holds and wait otherwise; the row that ends the wait goes on. A
foreign fence is not waited for (the model's choice, log 15). -/
def Obligations.WaitRows : Prop :=
  ∀ (s : State) (tile : Nat),
  (Issues s tile →
    (∀ st n x, findStream (getTile s tile) st = some x → Runs (.swait tile st n) s (TileStep tile (fun t =>
      if swaitMet x (sval t n) then { t with pc := t.pc + 1 } else { t with stall := .swait st (sval t n) }) s)) ∧
    (∀ st n, findStream (getTile s tile) st = none →
      Runs (.swait tile st n) s (TileStep tile (fun t => { t with stall := .swait st (sval t n) }) s)) ∧
    (∀ st, Runs (.sdrain tile st) s (TileStep tile (fun t =>
      if drainedStream t st then { t with pc := t.pc + 1 } else { t with stall := .sdrain st }) s)) ∧
    Runs (.mwait tile) s (TileStep tile (fun t =>
      if matrixBusy t then { t with stall := .mwait } else { t with pc := t.pc + 1 }) s) ∧
    (∀ fe v, fenceOwner s (sval (getTile s tile) fe % 2 ^ 18) = runPart s tile →
      Runs (.fwait tile fe v) s (TileStep tile (fun t =>
        if sval t v ≤ fenceVal s (sval t fe % 2 ^ 18) then { t with pc := t.pc + 1 }
        else { t with stall := .fwait (sval t fe % 2 ^ 18) (sval t v) (now s) }) s)) ∧
    (∀ fe v, fenceOwner s (sval (getTile s tile) fe % 2 ^ 18) ≠ runPart s tile →
      Runs (.fwait tile fe v) s (TileStep tile (fun t => { t with pc := t.pc + 1 }) s))) ∧
  (swaitReady (getTile s tile) = true → Runs (.swaitMet tile) s (TileStep tile (fun t => { t with
      stall := .none_
      pc := t.pc + 1 }) s)) ∧
  (sdrainReady (getTile s tile) = true → Runs (.sdrainDone tile) s (TileStep tile (fun t => { t with
      stall := .none_
      pc := t.pc + 1 }) s)) ∧
  (∀ f v since, (getTile s tile).stall = .fwait f v since → v ≤ fenceVal s f →
    Runs (.fwaitMet tile) s (TileStep tile (fun t => { t with
      stall := .none_
      pc := t.pc + 1 }) s))

/-- FSIG waits for its stores and raises a fence of its own partition, at once unless the run's stores are held, and raises
nothing in a duplicate; BAR gathers its group (its members are the model's choice, log 95), and a full group goes on together. -/
def Obligations.FenceAndBarrierRows : Prop :=
  ∀ (s : State) (tile : Nat),
  (Issues s tile → storesDone s tile = true →
    ∀ fe v, isPrimary (getTile s tile) = true → fenceOwner s (sval (getTile s tile) fe % 2 ^ 18) = runPart s tile →
      exec (.fsig tile fe v) s = .next (updTile tile (fun t => { t with pc := t.pc + 1 })
        (runFence tile (sval (getTile s tile) fe % 2 ^ 18) (sval (getTile s tile) v) s))) ∧
  (Issues s tile → ∀ fe v,
    (storesDone s tile = false → exec (.fsig tile fe v) s = .next s) ∧
    (storesDone s tile = true → isPrimary (getTile s tile) = false →
      Runs (.fsig tile fe v) s (TileStep tile (fun t => { t with pc := t.pc + 1 }) s))) ∧
  (∀ f v, (∀ u r, runAt s tile = some u → (getTile s u).run = some r → r.hold = false) →
    runFence tile f v s = fenceRaise false f v s) ∧
  (Issues s tile →
    ∀ g ms, exec (.bar tile g ms) s = .next { s with
      tiles := smSet s.tiles tile { getTile s tile with stall := .bar g.val }
      barriers := smSet s.barriers (barKey tile g ms)
        ((smGet s.barriers (ms, []) (barKey tile g ms)).1, (smGet s.barriers (ms, []) (barKey tile g ms)).2 ++ [tile]) }) ∧
  (∀ die g, barFull s (die * 64 + Fin.val (n := 64) g) = true →
    exec (.barGroupComplete die g) s = .next
      ((smGet s.barriers ([], []) (die * 64 + g.val)).2.eraseDups.foldl (fun s t => updTile t (fun w =>
        if w.stall == .bar g.val then proceed w else w) s)
        { s with barriers := smDel s.barriers (die * 64 + g.val) }))

/-- A fence that is raised never falls (an addition saturates at 2⁶⁴ − 1), and no other fence, byte or tile changes with it. -/
def Obligations.FenceOnlyRises : Prop :=
  ∀ (sat : Bool) (f v : Nat) (s : State) (g : Nat),
    (sat = false → fenceVal (fenceRaise sat f v s) f = max (fenceVal s f) v) ∧
    (sat = true → fenceVal (fenceRaise sat f v s) f = min (fenceVal s f + v) (2 ^ 64 - 1)) ∧
    ((sat = true → fenceVal s f < 2 ^ 64) → fenceVal s g ≤ fenceVal (fenceRaise sat f v s) g) ∧ (g ≠ f → fenceVal (fenceRaise sat f v s) g = fenceVal s g) ∧
    (fenceRaise sat f v s).mem = s.mem ∧ (fenceRaise sat f v s).tiles = s.tiles

/-! ### Tiles: the vector unit (05) -/

/-- Every vector instruction does to its tile what its operation says, on the current strip, and nothing elsewhere. -/
def Obligations.VectorRows : Prop :=
  ∀ (s : State) (tile : Nat), Issues s tile →
  (∀ op h m d a b c, Runs (.arith tile op h m d a b c) s (TileStep tile (fun t => nextPc (vArith op h m d a b c t)) s)) ∧
  (∀ op m d a b, Runs (.int tile op m d a b) s (TileStep tile (fun t => nextPc (vInt op m d a b t)) s)) ∧
  (∀ op m d a b, Runs (.cmp tile op m d a b) s (TileStep tile (fun t => nextPc (vCmp op m d a b t)) s)) ∧
  (∀ op d a b, Runs (.maskop tile op d a b) s (TileStep tile (fun t => nextPc (vMaskop op d a b t)) s)) ∧
  (∀ op m d a, Runs (.cvt tile op m d a) s (TileStep tile (fun t => nextPc (vCvt op m d a t)) s)) ∧
  (∀ fn m d a, Runs (.trans tile fn m d a) s (TileStep tile (fun t => nextPc (vTrans fn m d a t)) s)) ∧
  (∀ r m d a b, Runs (.div tile r m d a b) s (TileStep tile (fun t => nextPc (vDiv r m d a b t)) s)) ∧
  (∀ op m d a, Runs (.perm tile op m d a) s (TileStep tile (fun t => nextPc (vPerm op m d a t)) s)) ∧
  (∀ op h m d a, Runs (.reduce tile op h m d a) s (TileStep tile (fun t => nextPc (vReduce op h m d a t)) s)) ∧
  (∀ m d x, Runs (.ldv tile m d x) s (TileStep tile (fun t => nextPc (vLdv (tileConv s tile) m d (sval t x) t)) s)) ∧
  (∀ m a x, Runs (.stv tile m a x) s (TileStep tile (fun t => nextPc
    (dropResident ((sval t x + 512 * curStrip t) % 2 ^ 23) 512 (vStv (tileConv s tile) m a (sval t x) t))) s))

/-- R118 and R119 of a register written lane by lane: an active lane takes its result, an inactive lane +0 or its old value,
and every other register keeps its lanes. -/
def Obligations.LanesOfAWrite : Prop :=
  ∀ (m : VMask) (d : Fin 32) (res : Nat → U32 × U32) (t : Tile),
  (∀ l, l < 128 → active t m (curStrip t) l = true → vget (vwrite m d res t) d l = (res l).1) ∧
  (∀ l k, l < 128 → active t m (curStrip t) l = false → m = .zero k → vget (vwrite m d res t) d l = 0) ∧
  (∀ l k, l < 128 → active t m (curStrip t) l = false → m = .merge k →
    vget (vwrite m d res t) d l = if isLc t then 0 else vget t d l) ∧
  (∀ kv : Nat × U32, kv.1 / 128 ≠ d.val → (kv ∈ (vwrite m d res t).vreg ↔ kv ∈ t.vreg)) ∧
  vwrite m d res t = { t with
    vreg := (vwrite m d res t).vreg
    flags := (vwrite m d res t).flags } ∧
  ((∀ l, l < 128 → active t m (curStrip t) l = true → (res l).2 = 0) → mergeFlag t m = 0 →
    (vwrite m d res t).flags = t.flags)

/-! ### Tiles: matrix instances and kernels (04, 05) -/

/-- MMA starts a matrix instance; its end writes the output or begins a guard replay; debug mode halts it, and the function's
registers resume or abort it. -/
def Obligations.MatrixRows : Prop :=
  ∀ (s : State) (tile : Nat),
  (∀ d r f k b, (getTile s tile).run = some r → (getTile s tile).stall = .none_ → matrixBusy (getTile s tile) = false →
    kernelOf s r.flight = some (f, k) → b = spadRead (getTile s tile) (kernConv k) (sval (getTile s tile) d) 256 →
    exec (.mma tile d) s = .next (updTile tile (fun t =>
        nextPc (orFlags (spadFlag (kernConv k) (sval t d) 256) (startMatrix (addMma s f b k) (sval t d) b t)))
      (updKernel f.num (addMma s f b) (haltCheck tile f (parseMDesc k.level b) (rampUp tile s))))) ∧
  (∀ r f k m, matrixAt s tile = some (r, f, k, m) → m.ended = false → m.replay = false →
    (m.halted = false ∨ m.resumed = true) → mayHalt s r f k m = false →
    exec (.matrixInstanceEnd tile) s = .next (matrixEnd tile r f k m s)) ∧
  (∀ r f k m d o, matrixAt s tile = some (r, f, k, m) → m.ended = false → m.replay = true →
    d = parseMDesc k.level m.bytes → o = matrixOut (heldReader m.held) d r.inst (scaleOfDesc k m d) none →
    exec (.guardReplayDone tile) s = .next (deliver tile r f m d (matrixOut (heldReader m.held) d r.inst
      (scaleOfDesc k m d) (some (derive d.qc.fmt (scaleKind d.qc) o.amax).1)) qReplayed 1 s)) ∧
  (∀ r f k m, matrixAt s tile = some (r, f, k, m) → m.ended = false → m.replay = false → mayHalt s r f k m = true →
    Runs (.debugHalt tile) s fun t => (∃ m', (getTile t tile).matrix = some m' ∧ m'.halted = true ∧ m'.bytes = m.bytes ∧
        m'.ended = false ∧ m'.chunks = (parseMDesc k.level m.bytes).halt.getD 0 + 1) ∧
      t.mem = s.mem ∧ t.flights = s.flights ∧ t.queues = s.queues ∧ t.clock = s.clock) ∧
  (∀ func r, haltedTile s func = some (tile, r) →
    Runs (.dbgResume func) s (TileStep tile (fun t => { t with matrix := t.matrix.map fun m => { m with
        resumed := true
        halted := false } }) s) ∧
    exec (.dbgAbort func) s = .next (abortFlight (topOf s r.flight) stInstanceAborted s)) ∧
  (matrixBusy (getTile s tile) = false → runAt s tile = none → instancePends s tile = false →
    Runs (.arrayRampDown tile) s (TileStep tile (fun t => { t with ramp := .idle }) s)) ∧
  (∀ u, runAt s tile = some u → matrixBusy (getTile s u) = false → instancePends s tile = false →
    exec (.arrayRampDown tile) s = .next ((runTiles s u).foldl (fun s v => updTile v (fun t => { t with ramp := .idle }) s) s))

/-- Instances start where their kernel and their checks want them, and end after their stores; the kernel completes when all
have ended; the overrun is reported once. -/
def Obligations.InstanceRows : Prop :=
  ∀ s : State,
  (∀ tile fl inst f k, kernelOf s fl = some (f, k) → f.done = none →
    (s.integ.checks.find? fun c => c.2.flight = fl && c.2.inst = inst && checkWants s tile c.2) = none →
    exec (.instanceStart tile fl inst) s = .next (primaryStart f k tile inst s)) ∧
  (∀ tile fl inst f k c x, kernelOf s fl = some (f, k) → f.done = none →
    (s.integ.checks.find? fun c => c.2.flight = fl && c.2.inst = inst && checkWants s tile c.2) = some (c, x) →
    arrayFree s k.shape tile = true → exec (.instanceStart tile fl inst) s = .next (checkStart f k c x tile s)) ∧
  (∀ tile r, (getTile s tile).run.isSome = true → (getTile s tile).stall = .ending → storesDone s tile = true →
    (getTile (gatherFences tile s) tile).run = some r →
    exec (.instanceEnd tile) s = .next (endRun tile r (gatherFences tile s))) ∧
  (∀ fl f k, kernelOf s fl = some (f, k) → kernelOver f k = true →
    exec (.kernelComplete fl) s = .next (completeKernel f k s)) ∧
  (∀ tile r f, (getTile s tile).run = some r → findFlight s r.flight = some f → r.overrun = false →
    r.start + r.durationUs * 1000 < now s →
    Runs (.durationOverrun tile) s fun t =>
      (∃ e, t.tele.events = s.tele.events ++ [e] ∧ e.code = evDurationOverrun ∧ e.part = f.part) ∧
      t.mem = s.mem ∧ t.flights = s.flights ∧ t.queues = s.queues ∧ t.clock = s.clock ∧
      t.tiles = smSet s.tiles tile { getTile s tile with run := some { r with overrun := true } }) ∧
  (∀ tile dup r f k c s1 x, (getTile s tile).run = some r → kernelOf s r.flight = some (f, k) → r.role = .primary →
    r.check = none → r.start + 4000000 ≤ now s → (c, s1) = addCheck f r.inst 3 tile false false s →
    smFind (setCheck c (fun x => { x with start := r.start }) (updTile tile (fun w => { w with
      run := some { r with check := some c } }) s1)).integ.checks c = some x →
    let s2 := setCheck c (fun x => { x with start := r.start }) (updTile tile (fun w => { w with
      run := some { r with check := some c } }) s1)
    (dupArrays s2 x k).contains dup = true →
    exec (.longInstanceCheck tile dup) s = .next (if arrayFree s2 k.shape dup then checkStart f k c x dup s2
      else updTile dup (fun w => { w with reserved := some c }) s2))

/-! ### Device memory (08) -/

/-- A request becomes pieces of its channels; a served one leaves its channel's queue and is written or read; refresh, guard
windows, retraining and scrub act on the channel they name. -/
def Obligations.ChannelRows : Prop :=
  ∀ s : State, Working s →
  (∀ ctx who w pa len data tl lc bg, ∃ r : ChanReq, r.write = w ∧ r.pa = pa ∧ r.len = len ∧ r.bytes = data ∧ r.arrived = now s ∧
    r.mode = s.mem.eccMode ∧ (r.context = none ∨ r.context = some ctx) ∧
    exec (.channelRequest ctx who w pa len data [] tl lc bg) s = .next (issueTags { s with mem := { s.mem with
      tagWaits := s.mem.tagWaits ++ (if r.teasel = true then pieces pa len else chunks pa len).map (reqPart r) } })) ∧
  (∀ r : ChanReq, stackDead s (stackOf r.pa) = false → (∀ c, r.context = some c → admits s c r.write (frameOf r.pa) = true) →
    (r.write = true ∨ stagedFrame s r.pa = false) →
    enqueueReq r s = { s with mem := { s.mem with
      nextId := s.mem.nextId + 1
      channels := smSet s.mem.channels (chanOf s r.pa) { getChan s (chanOf s r.pa) with
        queue := (getChan s (chanOf s r.pa)).queue ++ [{ r with
          id := s.mem.nextId
          arrived := now s
          mode := s.mem.eccMode }] } } }) ∧
  (∀ c e r u, pickReq s c = some r → (getChan s c).st = .active → r.teasel = false → (r.write = true ∨ r.cls = .background) →
    u = findErrors r.pa r.len e (takeReq c r s) →
    (isScrub r = true → exec (.channelServe c e) s = .next (killsDue (issueTags (serveScrub c r u)))) ∧
    (isWriteBack r = true → exec (.channelServe c e) s = .next (killsDue (issueTags (serveWriteBack r u)))) ∧
    (r.who ≠ .scrub → r.write = true → exec (.channelServe c e) s = .next (killsDue (issueTags (serveWrite r u)))) ∧
    (r.who ≠ .scrub → r.write = false → exec (.channelServe c e) s = .next (killsDue (issueTags (coalesce c r (serveRead r u)))))) ∧
  (∀ c e r, pickReq s c = some r → (getChan s c).st = .active → r.teasel = false → r.write = false → r.cls ≠ .background →
    r.who ≠ .scrub → ∃ n u, u = findErrors r.pa r.len e (monSample 2 c n (takeReq c r s)) ∧
      exec (.channelServe c e) s = .next (killsDue (issueTags (coalesce c r (serveRead r u))))) ∧
  (∀ c w, w = (if (getChan s c).window < now s / 10000 * 10000 then now s / 10000 * 10000 else now s / 10000 * 10000 + 10000) →
    exec (.guardWindowStart c) s = .next (killsDue (updChan c (fun x => { x with
      window := w
      beGuard := 500 * 3840
      bgGuard := 200 * 3840 }) (advance w s)))) ∧
  (∀ c, (getChan s c).st = .active → exec (.refresh c) s = .next { s with mem := { s.mem with
      channels := smSet s.mem.channels c { getChan s c with refreshes := (getChan s c).refreshes + 1 } } }) ∧
  (∀ n, s.beat.inHead = false → n = max (2 * now s / 390625) (s.mem.trainSlot + 1) →
    exec .retrainSlot s = .next (takeSlot n (advance (ceilDiv (n * 390625) 2) s))) ∧
  (∀ c, (getChan s c).st = .retraining → exec (.retrainDone c true) s = .next { s with mem := { s.mem with
      channels := smSet s.mem.channels c { getChan s c with
        st := .active
        failRun := 0 } } }) ∧
  (∀ c co un pa u, chanPa s c (2048 * s.tele.scrubPos) = some pa → (getChan s c).st ≠ .mappedOut → stackDead s (c / 16) = false →
    c ≠ 255 → u = scrubErrors pa co un s →
    ∃ r : ChanReq, r.id = s.mem.nextId ∧ r.context = none ∧ r.write = false ∧ r.len = 2048 ∧ r.cls = .background ∧
      r.who = .scrub ∧ r.pa = pa ∧
      exec (.scrubRead c co un) s = .next { u with mem := { u.mem with
        nextId := s.mem.nextId + 1
        channels := smSet s.mem.channels c { getChan s c with queue := (getChan s c).queue ++ [r] } } }) ∧
  (∀ c r, (getChan s c).queue.find? isScrub = some r →
    Runs (.scrubPriorityTimeout c) s fun t => t = advance (r.arrived + 1000001) s ∧ r.arrived + 1000001 ≤ now t) ∧
  Runs .ceHourRollover s fun t => (∀ x ∈ t.mem.channels, x.2.ceHour = 0) ∧ now t = (now s / 3600000000000 + 1) * 3600000000000 ∧
    t.mem.cells = s.mem.cells ∧ t.mem.channels.map (·.1) = s.mem.channels.map (·.1)

/-- Map-out of a channel, and the zero-fill of a dead stack (R225 to R231). -/
def Obligations.MapOutRows : Prop :=
  ∀ s : State, Working s →
  (∀ k c, candidateOf s k = some c → exec (.mapoutStart k) s = .next (mapoutTry c false s)) ∧
  (∀ v : BitVec 32, v.toNat.testBit 8 = true → (getChan s (v.toNat % 256)).candidate = true →
    (getStack s (v.toNat % 256 / 16)).out = none → (getStack s (v.toNat % 256 / 16)).retired = false →
    ownedFrom s (v.toNat % 256 / 16) 38400 = [] → exec (.mapoutCmd v) s = .next (mapoutBegin (v.toNat % 256) s)) ∧
  (∀ k slot v, slotOf s k slot .reading = some v → Runs (.mapoutFrameStaged k slot) s fun t => t = stageFrame k slot v s ∧
    ((∀ i, i < 16 → (getChan s (k * 16 + i)).queue = []) → smFind t.mem.stage slot = some { v with phase := .staged } ∧
      t.mem.cells = s.mem.cells ∧ t.mem.channels = s.mem.channels ∧ t.tiles = s.tiles)) ∧
  (∀ k slot v, slotOf s k slot .staged = some v → writesNext s v = true →
    Runs (.mapoutFrameWritten k slot) s fun t => t = writeFrame k slot v s ∧
    ((∀ i, i < 16 → (getChan s (k * 16 + i)).queue = []) → t.mem.cells = s.mem.cells ∧
      (v.frame ≠ 0 → (getStack t k).phase = .moving ∧ t.tele = s.tele ∧ t.mem.channels = s.mem.channels) ∧
      (v.frame = 0 → (getStack t k).phase = .idle ∧ (getStack t k).reduced = true ∧ (∀ x ∈ t.mem.stage, x.2.stack ≠ k) ∧
        (getChan t (k * 16 + (getStack s k).channel)).st = .mappedOut ∧
        (getChan t (k * 16 + (getStack s k).channel)).candidate = false))) ∧
  (∀ k slot v, slotOf s k slot .staged = some v → writesNext s v = false → exec (.mapoutFrameWritten k slot) s = .next s) ∧
  (∀ k, (getStack s k).phase = .zeroFill → Runs (.zeroFillDone k) s fun t => (getStack t k).phase = .idle ∧
      (getStack t k).reduced = true ∧ (∀ f, stackFrame k 0 ≤ f → f < stackFrame k 40960 → ∀ c ∈ t.mem.cells, c.1 / frameBytes ≠ f) ∧
      (∀ c ∈ t.mem.cells, c ∈ s.mem.cells) ∧
      (∃ e, t.tele.events = s.tele.events ++ [e] ∧ e.code = evStackReady))

/-- Bytes that arrive for a stream go to its load or gather, and an acknowledged store of a run is done; a channel that failed
meanwhile is taken out (R230). -/
def Obligations.StreamRows : Prop :=
  ∀ (s : State) (tile engine : Nat) (x : Stream), findStream (getTile s tile) engine = some x →
  (∀ f n d, tileFlight s tile = some f →
    (x.kind = 0 → exec (.streamResponse tile engine n d) s = .next (killsDue (loadDeliver tile engine n d f x s))) ∧
    (x.kind = 2 → exec (.streamResponse tile engine n d) s = .next (killsDue (gatherDeliver tile engine d f x s)))) ∧
  (∀ u r f i p, runAt s tile = some u → (getTile s u).run = some r → x.pend[i]? = some p → findFlight s r.flight = some f →
    x.kind = 1 → exec (.storeAck tile engine i) s = .next (killsDue (storeDone tile engine f u r x i p s)))

/-! ### Host link (13) -/

/-- R362: PERST# is a warm reset of the module, or with PERST_MODE 1 a reset of the host link alone. -/
def Obligations.PerstRule : Prop :=
  ∀ s : State, s.power.rails = .on → s.power.state ≠ .s3 →
  (s.link.perstMode = false → exec .perstAssert s = .next (warmReset 2 true s)) ∧
  (s.link.perstMode = true → s.link.up = true → exec .perstAssert s = .next (linkLost 2 s)) ∧
  (s.link.perstMode = true → s.link.up = false → exec .perstAssert s = .next s)

/-- A lost link ends its accesses and empties the snoop filter (R361); training brings it up again with its attachment record.
What becomes of the requests on the link that the module sent to host memory (R253, R356); a tag they free issues the next. -/
def Obligations.LinkAndHostMemoryRows : Prop :=
  (∀ s : State,
    (∀ cause, s.link.up = true → cause < 2 → exec (.linkLoss cause) s = .next (linkLost cause s)) ∧
    (∀ line b, s.link.biWaits.find? (fun b => b.line = line) = some b →
      exec (.biTimeout line) s = .next (linkLost 3 (advance (b.since + s.link.biTimeoutMs * 1000000) s))) ∧
    (∀ cause, (linkLost cause s).link.up = false ∧ (linkLost cause s).link.snoop = [] ∧ (linkLost cause s).link.biWaits = [] ∧
      (linkLost cause s).link.vfEnable = false ∧ (linkLost cause s).link.width = 0 ∧ (linkLost cause s).link.linkIde = false) ∧
    (∀ w v cxl, s.link.up = false → s.power.rails = .on → s.power.state ≠ .s3 → (w = 4 ∨ w = 8 ∨ w = 16) → v < 7 →
      Runs (.linkUp w v cxl) s fun t => t = linkTrained w v cxl s ∧ t.link.up = true ∧ t.link.width = w ∧ t.link.speed = v ∧
        t.power.wakePin = false ∧ (s.link.hostReqs = [] →
          t.link.cxl = (cxl && decide (4 ≤ v) && !s.sec.recovery) ∧ t.link.attach.epoch = (s.link.attach.epoch + 1) % 2 ^ 32 ∧
          t.link.attach.upTsc = now s ∧ t.mem = s.mem ∧ t.queues = s.queues ∧ t.flights = s.flights ∧ t.tiles = s.tiles))) ∧
  (∀ (s : State) (id : Nat) (q : HostReq), findReq s id = some q →
    (∀ d, q.write = false → s.link.up = true → q.dest = none →
      exec (.hostReadCompletion id d) s = .next (issueHosts (hostData q d s))) ∧
    (∀ d pa, q.write = false → s.link.up = true → q.dest = some pa → exec (.hostReadCompletion id d) s =
      .next (afterSnoops true [{ off := 0, pa, len := q.len }] (fun u => issueHosts (hostData q d u)) s)) ∧
    (∀ s1, q.write = true → q.posted = false → s.link.up = true →
      s1 = { s with link := { s.link with hostReqs := s.link.hostReqs.filter fun x => x.id != id } } →
      exec (.hostWriteGo id) s = .next (issueHosts (trySignal q.flight (touchDone q.flight
        (updFlight q.flight (fun f => { f with hosts := f.hosts - 1 }) s1))))) ∧
    exec (.hostAccessReject id) s = .next (issueHosts (rejectReq q s)))

/-- The host's accesses to device memory: BAR4 and CXL.mem, within HDM decoding or answered as poison, and the snoop filter's
waits. A write to a frame that map-out holds waits (R228). -/
def Obligations.HostAccessRows : Prop :=
  ∀ s : State,
  (Reachable s → ∀ f off n, exec (.bar4Read f off n) s = .next (barRead f off n s)) ∧
  (Reachable s → ∀ f off d, exec (.bar4Write f off d) s = .next (barWrite f off d s)) ∧
  (Reachable s → s.link.cxl = true → ∀ dpa ex d, dpa < 1280 * 2 ^ 30 → hdmOk s (dpaPa (dpa / 64 * 64)) = true →
    exec (.cxlMemRead dpa ex) s = .next (cxlRequest (dpaPa (dpa / 64 * 64) / 64) ex none s) ∧
    (writeHeld s [{ off := 0, pa := dpaPa (dpa / 64 * 64), len := 64 }] = false →
      exec (.cxlMemWrite dpa d) s = .next (cxlRequest (dpaPa (dpa / 64 * 64) / 64) false (some d) s))) ∧
  (Reachable s → s.link.cxl = true → ∀ dpa ex d, 1280 * 2 ^ 30 ≤ dpa ∨ hdmOk s (dpaPa (dpa / 64 * 64)) = false →
    exec (.cxlMemRead dpa ex) s = .next { s with out := { s.out with
      cxl := s.out.cxl ++ [(dpaPa (dpa / 64 * 64), true, zeros 64)] } } ∧
    (writeHeld s [{ off := 0, pa := dpaPa (dpa / 64 * 64), len := 64 }] = false →
      Runs (.cxlMemWrite dpa d) s fun t => t = cxlBlocked (dpaPa (dpa / 64 * 64)) s)) ∧
  (∀ dpa d, writeHeld s [{ off := 0, pa := dpaPa (dpa / 64 * 64), len := 64 }] = true → s.power.state ≠ .s2 →
    exec (.cxlMemWrite dpa d) s = .next s) ∧
  (∀ line b d s1, s.link.biWaits.find? (fun b => b.line = line) = some b → b.host = none →
    s1 = { s with link := { s.link with biWaits := s.link.biWaits.filter fun x => x.line != line } } →
    (b.inv = true → exec (.birsp line none) s = .next (filterDel line s1)) ∧
    (b.inv = false → exec (.birsp line none) s = .next (filterPut line false s1)) ∧
    (writeHeld s [{ off := 0, pa := 64 * line, len := 64 }] = false → exec (.birsp line (some d)) s =
      .next ((if b.inv = true then filterDel line else filterPut line false) (cxlStore line d s1))) ∧
    (writeHeld s [{ off := 0, pa := 64 * line, len := 64 }] = true → exec (.birsp line (some d)) s = .next s)) ∧
  (∀ line, s.link.up = true → s.link.cxl = true →
    exec (.hostSnoop line) s = .next { s with out := { s.out with snoopRsp := s.out.snoopRsp ++ [line] } })

/-- R354: a request that would add a line to a full set waits; the way at the set's pointer is snooped out, and the pointer
advances. -/
def Obligations.FullSetEvicts : Prop :=
  ∀ (s : State) (line : Nat) (ex : Bool) (data : Option (List Byte)) (v : Nat × Bool),
    snoopFind s line = none → (snoopWays s line).length = 16 →
    (snoopWays s line)[smGet s.link.snoopPtr 0 (snoopSet line)]? = some v →
    (s.link.biWaits.any fun b => b.line == v.1) = false →
    let t := cxlRequest line ex data s
    t.out = { s.out with snoops := s.out.snoops ++ [(v.1, true)] } ∧
    smGet t.link.snoopPtr 0 (snoopSet line) = (smGet s.link.snoopPtr 0 (snoopSet line) + 1) % 16 ∧
    t.link.biWaits = s.link.biWaits ++ [{ line := v.1, inv := true, since := now s, host := some (line, ex, data) }] ∧
    t.mem = s.mem ∧ t.link.snoop = s.link.snoop ∧
    (s.link.biWaits.find? (fun b => b.line = v.1) = none →
      exec (.birsp v.1 none) t = .next (cxlRequest line ex data (filterDel v.1 { t with link := { t.link with
        biWaits := t.link.biWaits.filter fun x => x.line != v.1 } })))

/-- Functions: reset, IDE keys and their loss, the TDISP states (their codes are the model's, log 36), the interrupt vectors. -/
def Obligations.FunctionRows : Prop :=
  ∀ s : State,
  (Reachable s → ∀ f, f ≠ 0 → f < 256 → exec (.functionLevelReset f) s = .next (resetFunc f s)) ∧
  (Reachable s → ∃ u, u.link.vfEnable = false ∧ u.mem = s.mem ∧
    exec (.functionLevelReset 0) s = .next ((List.range 256).foldl (fun s f => resetFunc f s) u)) ∧
  (∀ f, (getFunc (resetFunc f s) f).tdi = .unlocked ∧ (getFunc (resetFunc f s) f).aperture = 0) ∧
  (∀ f, (getFunc s f).ideSecure = true →
    ∃ u, u = updFunc f (fun x => { x with ideSecure := false }) s ∧
      exec (.ideIntegrityFail (some f)) s = .next (if (lockedFuncs u).contains f then tdiError f u else u)) ∧
  (s.link.linkIde = true → ∃ u, u = { s with link := { s.link with linkIde := false } } ∧
    exec (.ideIntegrityFail none) s = .next ((lockedFuncs u).foldl (fun s f => tdiError f s) u)) ∧
  (sessionUp s = true → (∃ u, exec (.ideKm none) s = .next (answer 0x40 [] u) ∧ u = { s with link := { s.link with linkIde := true } }) ∧
    ∀ f, exec (.ideKm (some f)) s = .next (answer 0x40 [] (updFunc f (fun x => { x with
      ideSecure := true
      ideKeySet := x.ideKeySet + 1 }) s))) ∧
  (∀ f, 0 < f → f < 256 →
    ((getFunc s f).tdi = .unlocked → Runs (.tdispRequest f 0x83) s fun t => (getFunc t f).tdi = .locked) ∧
    ((getFunc s f).tdi = .locked → Runs (.tdispRequest f 0x86) s fun t => (getFunc t f).tdi = .run) ∧
    Runs (.tdispRequest f 0x87) s (fun t => (getFunc t f).tdi = .unlocked) ∧
    ((getFunc s f).tdi ≠ .locked → Runs (.tdispRequest f 0x86) s fun t => t.link = s.link ∧ t.mem = s.mem)) ∧
  (Reachable s → ∀ f v, v < vecCount f → barUnbound s f = false → Runs (.msixUnmask f v) s fun t =>
    (smGet (getFunc t f).msix {} v).masked = false ∧ (smGet (getFunc t f).msix {} v).pending = false ∧
    t.out.msix = s.out.msix ++ (if (smGet (getFunc s f).msix {} v).pending = true then [(f, v, now s)] else []) ∧
    t.mem = s.mem ∧ t.queues = s.queues)

/-! ### SPDM, MCTP and PLDM (16, 17, 19) -/

/-- The connection on a transport: version, capabilities, algorithms, then what needs them; any of them too early is an error
(the codes are the model's, log 38). Sessions are opened by KEY_EXCHANGE, established by FINISH, their keys updated, ended. -/
def Obligations.SpdmRows : Prop :=
  (∀ (s : State) (tr : Nat), spdmHeard s tr = true → spdmRefused s = true →
    exec (.getVersion tr) s = .next (answer ansError [] s)) ∧
  (∀ (s : State) (tr : Nat), spdmHeard s tr = true → spdmRefused s = false →
    exec (.getVersion tr) s = .next (answer 0x04 [0x13] (setStage tr 1 s)) ∧
    (1 ≤ spdmStage s tr → exec (.getCapabilities tr) s = .next (answer 0x61 [] (setStage tr (max 2 (spdmStage s tr)) s))) ∧
    (2 ≤ spdmStage s tr → exec (.negotiateAlgorithms tr true) s = .next (answer 0x63 [] (setStage tr 3 s)) ∧
      exec (.negotiateAlgorithms tr false) s = .next (answer ansError [] s)) ∧
    (3 ≤ spdmStage s tr →
      exec (.getDigests tr) s = .next (answer 0x01 (chainDigest s) s) ∧
      (∀ off n, exec (.getCertificate tr 0 off n) s = .next (answer 0x02 (certBytes s off n) s)) ∧
      (∀ nonce, ∃ n, exec (.challenge tr nonce) s = .next (answer 0x03 (chainDigest s ++ n ++
        aliasSign s (chainDigest s ++ n ++ nonce)) (fresh32 s).2)) ∧
      (∀ i b nonce, i ≠ 0 → i ≠ 0xFF → measurement s i = some b →
        exec (.getMeasurements tr i nonce) s = .next (answer 0x60 (le 1 i ++ b ++ aliasSign s (le 1 i ++ b ++ nonce)) s)) ∧
      (∀ f p nonce, funcPart s f = some p →
        exec (.vendorDefinedRequest tr 1 f nonce) s = .next (answer 0x7E (report s (some p) f nonce) s))) ∧
    (spdmStage s tr < 3 → exec (.getDigests tr) s = .next (answer ansError [] s) ∧
      (∀ k, exec (.keyExchange tr k) s = .next (answer ansError [] s)))) ∧
  (∀ (s : State) (tr : Nat), spdmHeard s tr = true → spdmRefused s = false → 3 ≤ spdmStage s tr →
    (∀ k i, freeSession (sessionsOf s tr) = some i → Runs (.keyExchange tr k) s fun t =>
      sessionsOf t tr = sessionsOf s tr ++ [(i, false, 0)] ∧ t.mem = s.mem ∧ t.link = s.link) ∧
    (∀ i, hasSession s tr i false = true →
      Runs (.finish tr i true) s (fun t => sessionsOf t tr =
        (sessionsOf s tr).map fun x => if x.1 = i then (x.1, true, x.2.2) else x) ∧
      Runs (.finish tr i false) s (fun t => sessionsOf t tr = (sessionsOf s tr).filter fun x => x.1 != i)) ∧
    (∀ i, hasSession s tr i true = true →
      exec (.heartbeat tr i) s = .next (answer 0x68 [] s) ∧
      Runs (.keyUpdate tr i) s (fun t => sessionsOf t tr =
        (sessionsOf s tr).map fun x => if x.1 = i then (x.1, x.2.1, x.2.2 + 1) else x) ∧
      Runs (.endSession tr i) s (fun t => sessionsOf t tr = (sessionsOf s tr).filter fun x => x.1 != i)))

/-- MCTP control and PLDM: the sensors of 17 R449 and R463, their thresholds, the receiver, and a firmware image for the other slot,
or in recovery for the one that failed (the codes are the model's, log 38; which slot outside recovery, log 39). -/
def Obligations.PldmRows : Prop :=
  ∀ s : State, sideOn s = true →
  (∀ eid, exec (.mctpControl 1 eid) s = .next (answer 1 (le 1 (eid % 256)) { s with sec := { s.sec with mctpEid := eid % 256 } })) ∧
  (∀ eid, exec (.mctpControl 2 eid) s = .next (answer 2 (le 1 s.sec.mctpEid) s)) ∧
  (∀ img, s.power.state ≠ .s3 → s.sec.recovery = false → exec (.pldmFirmwareUpdate img) s =
    .next (answer 0x05 [] { s with sec := { s.sec with images := smSet s.sec.images (1 - s.sec.slot) img } })) ∧
  (∀ img, s.power.state ≠ .s3 → s.sec.recovery = true → exec (.pldmFirmwareUpdate img) s =
    .next (answer 0x05 [] { s with sec := { s.sec with
      images := smSet s.sec.images (s.sec.failedSlot.getD 1) img } })) ∧
  (s.sec.recovery = false →
    (∀ h i, h ≠ 0 → sensorList[h - 1]? = some i → exec (.getPdr h) s =
      .next (answer 0x51 (le 4 h ++ le 2 (0x1000 + i) ++ le 1 (sensorUnit i) ++ le 1 (unsignedOf 8 (-3))) s)) ∧
    exec .getPdrRepositoryInfo s = .next (answer 0x50 (le 4 sensorList.length) s) ∧
    (∀ i, sensorDefined i = true → sensorReads s i = true → exec (.getSensorReading (0x1000 + i)) s = .next
      (answer 0x11 (0x00 :: (le 1 (smGet s.tele.threshState 0 i) ++ le 4 (unsignedOf 32 (smGet s.tele.sensors 0 i)))) s)) ∧
    (∀ i, sensorDefined i = true → sensorReads s i = false →
      exec (.getSensorReading (0x1000 + i)) s = .next (answer 0x11 [0x01] s)) ∧
    (∀ i, sensorDefined i = true → exec (.getSensorThresholds (0x1000 + i)) s = .next (answer 0x13
      (optBytes (thresholdsOf s i).1 ++ optBytes (thresholdsOf s i).2.1 ++ optBytes (thresholdsOf s i).2.2) s)) ∧
    (∀ i a b c, sensorDefined i = true → Runs (.setSensorThresholds (0x1000 + i) a b c) s fun t =>
      t.tele = { s.tele with thresholds := smSet s.tele.thresholds i (a, b, c) } ∧ thresholdsOf t i = (a, b, c)) ∧
    (∀ r, exec (.setEventReceiver r) s = .next (answer 0x04 [] { s with tele := { s.tele with receiver := some r } })))

/-- No SPDM, MCTP or PLDM command changes memory, queues, tiles, tables, the network or the clock. -/
def Obligations.SidebandFrame : Prop :=
  ∀ (s : State) (i : Instr),
    ((∃ tr, i = .getVersion tr ∨ i = .getCapabilities tr ∨ (∃ b, i = .negotiateAlgorithms tr b) ∨ i = .getDigests tr ∨
        (∃ a b c, i = .getCertificate tr a b c) ∨ (∃ n, i = .challenge tr n) ∨ (∃ a n, i = .getMeasurements tr a n) ∨
        (∃ k, i = .keyExchange tr k) ∨ (∃ a b, i = .finish tr a b) ∨ (∃ a, i = .heartbeat tr a) ∨ (∃ a, i = .keyUpdate tr a) ∨
        (∃ a, i = .endSession tr a) ∨ ∃ a b n, i = .vendorDefinedRequest tr a b n) ∨
      (∃ a b, i = .mctpControl a b) ∨ (∃ h, i = .getPdr h) ∨ i = .getPdrRepositoryInfo ∨ (∃ a, i = .getSensorReading a) ∨
      (∃ a, i = .getSensorThresholds a) ∨ (∃ a b c d, i = .setSensorThresholds a b c d) ∨ (∃ r, i = .setEventReceiver r) ∨
      ∃ m, i = .pldmFirmwareUpdate m) →
    ∃ sec tele out fc, exec i s = .next { s with
      sec := sec
      tele := tele
      out := out
      freeCtr := fc }

/-! ### Queues (10) -/

/-- R267: CQ_DB moves CQ_HEAD on to its value, at most to CQ_TAIL and never back. -/
def Obligations.ConsumerDoorbell : Prop :=
  ∀ (s : State) (f q n : Nat) (v : BitVec 64), Reachable s → barDead s f = false → localQueue s f q = some n →
    bits v.toNat 47 32 = (getQueue s n).gen → (getQueue s n).life = .enabled → s.power.state = .s0 →
    Runs (.cqDb f q v) s fun t =>
      t = { s with queues := smSet s.queues n (getQueue t n) } ∧
      getQueue t n = { getQueue s n with cqHead := (getQueue t n).cqHead } ∧
      (ahead (v.toNat % 2 ^ 32) (getQueue s n).cqHead < 2 ^ 31 → (getQueue t n).cqHead =
        ((getQueue s n).cqHead + min (ahead (v.toNat % 2 ^ 32) (getQueue s n).cqHead)
          (ahead (getQueue s n).cqTail (getQueue s n).cqHead)) % 2 ^ 32) ∧
      (2 ^ 31 ≤ ahead (v.toNat % 2 ^ 32) (getQueue s n).cqHead → (getQueue t n).cqHead = (getQueue s n).cqHead)

/-- The doorbells and control bits of an enabled queue at its generation, in S0. A doorbell of the wrong generation, or of a
queue that is not enabled, only counts in STALE_GEN. -/
def Obligations.DoorbellRows : Prop :=
  (∀ (s : State) (f q n : Nat), Reachable s → barDead s f = false → localQueue s f q = some n → (getQueue s n).life = .enabled →
      s.power.state = .s0 →
    (∀ v : BitVec 64, bits v.toNat 47 32 = (getQueue s n).gen →
      exec (.sqDb f q v) s = .next (producer (v.toNat % 2 ^ 32) n s) ∧
      ((getQueue s n).netFed = true → exec (.sqDb f q v) s = .next s)) ∧
    (∀ r, exec (.resumeCompletions f q (getQueue s n).gen r) s = .next
      (afterSnoops true (replaySegs s n) (fun s => replayShadow n (getQueue s n).shadowRing r s) s)) ∧
    ((getQueue s n).shadowRing = [] → ∀ r, exec (.resumeCompletions f q (getQueue s n).gen r) s = .next
      { s with queues := smSet s.queues n { getQueue s n with
        blocked := false
        frozen := false } }) ∧
    exec (.reissue f q (getQueue s n).gen) s = .next
      { s with queues := smSet s.queues n { getQueue s n with reissue := (getQueue s n).waitMap.isSome } } ∧
    exec (.clearHalt f q (getQueue s n).gen) s = .next { s with queues := smSet s.queues n { getQueue s n with halted := false } }) ∧
  (∀ (s : State) (f q n : Nat), Reachable s → barDead s f = false → localQueue s f q = some n →
    let t := updQueue n (fun w => { w with staleGen := min (w.staleGen + 1) 65535 }) s
    (∀ v : BitVec 64, (bits v.toNat 47 32 ≠ (getQueue s n).gen ∨ (getQueue s n).life ≠ .enabled) →
      exec (.sqDb f q v) s = .next t ∧ exec (.cqDb f q v) s = .next t) ∧
    (∀ g r, (g ≠ (getQueue s n).gen ∨ (getQueue s n).life ≠ .enabled) →
      exec (.resumeCompletions f q g r) s = .next t ∧ exec (.reissue f q g) s = .next t ∧ exec (.clearHalt f q g) s = .next t))

/-- QUEUE_ENABLE, QUEUE_DISABLE and QUEUE_RESET, and the end of a reset: all indices are 0 and the generation is the next
one. -/
def Obligations.QueueLifeRows : Prop :=
  ∀ (s : State) (f q n : Nat), Reachable s → barDead s f = false → localQueue s f q = some n →
  ((getQueue s n).life = .disabled → ringsOk s n = true → Runs (.queueEnable f q) s fun t =>
    t = { s with queues := smSet s.queues n (getQueue t n) } ∧ (getQueue t n).life = .enabled ∧ (getQueue t n).prod = 0 ∧
    (getQueue t n).sqHead = 0 ∧ (getQueue t n).cqHead = 0 ∧ (getQueue t n).cqTail = 0 ∧ (getQueue t n).cfgErr = false ∧
    (getQueue t n).gen = (getQueue s n).gen) ∧
  ((getQueue s n).life = .disabled → ringsOk s n = false → exec (.queueEnable f q) s = .next
    { s with queues := smSet s.queues n { getQueue s n with cfgErr := true } }) ∧
  (queueState s n = 1 → exec (.queueDisable f q) s = .next
    { s with queues := smSet s.queues n { getQueue s n with life := .disabled } }) ∧
  ((getQueue s n).life ≠ .resetting → exec (.queueReset f q) s = .next (queueResetStart n s)) ∧
  ((getQueue s n).life = .resetting → queueDrained s n = true → Runs (.queueResetDone n) s fun t =>
    (getQueue t n).life = .disabled ∧ (getQueue t n).gen = ((getQueue s n).gen + 1) % 2 ^ 16 ∧ (getQueue t n).prod = 0 ∧
    (getQueue t n).sqHead = 0 ∧ (getQueue t n).cqHead = 0 ∧ (getQueue t n).cqTail = 0 ∧ (getQueue t n).fetched = [] ∧
    (getQueue t n).ready = none ∧ (getQueue t n).halted = false ∧ t.mem = s.mem ∧ t.tiles = s.tiles ∧
    (∀ m, m ≠ n → getQueue t m = getQueue s m) ∧ (∀ x ∈ t.flights, x ∈ s.flights ∧ x.queue ≠ n))

/-- A slot is fetched, from host or device memory, when its READY is the index that follows, and read again at most 8 times
before the queue parks; the sweep looks at the parked queues. -/
def Obligations.FetchRows : Prop :=
  (∀ (s : State) (q : Nat) (b : List Byte), mayFetch s q = true → (getQueue s q).sqHost = false →
    (getQueue s q).parked = false → (getQueue s q).rereads = none →
    exec (.slotFetch q b) s = .next (afterSnoops false (slotSegs s q) (fun u => updQueue q (fun w =>
      if slotValid w (slotAcc u q).data then takeSlotCmd (slotAcc u q).data (now u) w
      else { w with rereads := some (0, now u) }) (countErrors (slotAcc u q) u)) s)) ∧
  ∀ (s : State) (q : Nat) (b : List Byte), mayFetch s q = true → (getQueue s q).sqHost = true → slice b 0 256 = b →
  ((getQueue s q).parked = false → (getQueue s q).rereads = none → slotValid (getQueue s q) b = true →
    Runs (.slotFetch q b) s fun t => (getQueue t q).sqHead = ((getQueue s q).sqHead + 1) % 2 ^ 32 ∧
      (∃ c, (getQueue t q).fetched = (getQueue s q).fetched ++ [c] ∧ c.bytes = b ∧ c.seq = hReady b ∧ c.fetched = now s) ∧
      t.mem = s.mem ∧ t.tiles = s.tiles ∧ t.flights = s.flights) ∧
  ((getQueue s q).parked = false → (getQueue s q).rereads = none → slotValid (getQueue s q) b = false →
    Runs (.slotFetch q b) s fun t => (getQueue t q).rereads = some (0, now s) ∧ (getQueue t q).sqHead = (getQueue s q).sqHead ∧
      (getQueue t q).fetched = (getQueue s q).fetched ∧ t.mem = s.mem) ∧
  (∀ k u, (getQueue s q).rereads = some (k, u) → slotValid (getQueue s q) b = false →
    Runs (.slotReread q b) s fun t => u + 250 ≤ now t ∧ (getQueue t q).fetched = (getQueue s q).fetched ∧
      (k + 1 < 8 → (getQueue t q).rereads = some (k + 1, now t)) ∧
      (8 ≤ k + 1 → (getQueue t q).parked = true ∧ (getQueue t q).rereads = none ∧
        (getQueue t q).parks = min ((getQueue s q).parks + 1) 65535)) ∧
  (∀ k u, (getQueue s q).rereads = some (k, u) → slotValid (getQueue s q) b = true →
    Runs (.slotReread q b) s fun t => (getQueue t q).sqHead = ((getQueue s q).sqHead + 1) % 2 ^ 32 ∧
      (getQueue t q).rereads = none ∧ ∃ c, (getQueue t q).fetched = (getQueue s q).fetched ++ [c] ∧ c.bytes = b) ∧
  (∀ d, exec (.doorbellSweep d) s = .next ((smKeys s.queues).foldl (fun s q => sweepQueue d q s)
    (advance (nextMultiple 100000 s) s)))

/-- The timers of waiting commands: fence cycles and timeouts on whole milliseconds, WAIT_MAP, deadlines; and the end of a
command, once its conditions are met. -/
def Obligations.TimerRows : Prop :=
  ∀ s : State,
  (Working s → ∃ u, u = timeouts (advance (nextMultiple 1000000 s) s) ∧
    exec .fenceCheckTick s = .next (breakCycles (waitNodes u).length u)) ∧
  (∀ q c l u, (getQueue s q).fetched = c :: l → (getQueue s q).waitFence = some u → headUnmet s q = true →
    exec (.fenceTimeout q (hReady c.bytes)) s = .next (timeoutHead q (advance (checkAt (u + hTimeoutNs c.bytes)) s))) ∧
  (∀ q c l u, (getQueue s q).fetched = c :: l → (getQueue s q).waitMap = some u →
    exec (.waitMapTimeout q) s = .next (failUnmapped q (advance (checkAt (u + hTimeoutNs c.bytes)) s))) ∧
  (∀ q c l, (getQueue s q).fetched = c :: l → (getQueue s q).life = .enabled → hDeadline c.bytes ≠ 0 → s.clock.lock ≠ .unlocked →
    (∀ y, (getQueue s q).ready = some y → y.admitted = false) →
    exec (.deadlineExpiry q) s = .next (failHeadNow q stDeadlineExpired (advance (hDeadline c.bytes + 1) s))) ∧
  (∀ n uj rej, exec (.commandCompletion n uj rej) s = .next (completeFlight n uj rej (settle s)))

/-! ### Submitted commands (11) -/

/-- The state a dispatch leaves: the head has left its queue, and one command more is in flight, running from now. -/
def Obligations.DispatchedState : Prop :=
  ∀ (s : State) (q op : Nat) (c : Cmd) (y : Ready), HeadReady s q op c y →
    let t := dispatched s q c y
    (getQueue t q).fetched = (getQueue s q).fetched.drop 1 ∧ (getQueue t q).ready = none ∧ (getQueue t q).waitFence = none ∧
    (∀ m, m ≠ q → getQueue t m = getQueue s m) ∧ t.nextFlight = s.nextFlight + 1 ∧
    (∃ f, t.flights = s.flights ++ [f] ∧ f.num = s.nextFlight ∧ f.queue = q ∧ f.opcode = op ∧ f.start = now s ∧
      f.charge = y.charge ∧ f.status = 0 ∧ f.done = none) ∧
    t.mem = s.mem ∧ t.tiles = s.tiles ∧ t.fences = s.fences ∧ t.tables = s.tables ∧ t.net = s.net ∧ t.clock = s.clock

/-- Submitted commands of no category, copies, kernels, graphs, rearms, gathers and updates: a head that is ready and admitted
runs when its own checks pass (R302 to R312). -/
def Obligations.WorkDispatchRows : Prop :=
  (∀ (s : State) (q : Nat) (c : Cmd) (y : Ready) (r : Req), r = readyReq s q c y →
    (∀ op, HeadReady s q op c y → (op = 0 ∨ opDefined op = false) → op ≠ 3 →
      exec (.nop q) s = .next (startNow (fun _ s => s) noEcho r s.nextFlight (dispatched s q c y))) ∧
    (HeadReady s q 1 c y →
      exec (.fenceWait q) s = .next (startFenceWait r s.nextFlight (dispatched s q c y))) ∧
    (HeadReady s q 2 c y →
      exec (.fenceSignal q) s = .next (startNow signalAll noEcho r s.nextFlight (dispatched s q c y))) ∧
    (HeadReady s q 3 c y → exec (.barrier q) s = .next (startNow (fun _ s => s) noEcho r s.nextFlight
      (dispatched s q c y))) ∧
    (HeadReady s q 4 c y →
      exec (.marker q) s = .next (startNow markerEvent noEcho r s.nextFlight (dispatched s q c y))) ∧
    (HeadReady s q 0x100 c y → ownH2d s r = .ok →
      exec (.copyH2d q) s = .next (runH2d r.ctx r s.nextFlight (dispatched s q c y))) ∧
    (HeadReady s q 0x101 c y → ownD2h s r = .ok →
      exec (.copyD2h q) s = .next (runD2h r s.nextFlight (dispatched s q c y))) ∧
    (HeadReady s q 0x102 c y → ownD2d s r = .ok →
      exec (.copyD2d q) s = .next (runD2d r s.nextFlight (dispatched s q c y))) ∧
    (∀ f, HeadReady s q 0x103 c y → ownNet s r = .ok → findFlight (dispatched s q c y) s.nextFlight = some f →
      exec (.copyNet q) s = .next (runNet f.lc r s.nextFlight (dispatched s q c y)))) ∧
  (∀ (s : State) (q : Nat) (c : Cmd) (y : Ready) (r : Req), r = readyReq s q c y →
    (∀ ss, HeadReady s q 0x200 c y → ownLaunch ss s r = .ok →
      exec (.launchKernel q ss) s = .next (startKernel ss r s.nextFlight (dispatched s q c y))) ∧
    (HeadReady s q 0x201 c y → ownGraph s r = .ok →
      exec (.launchGraph q) s = .next (startGraph r s.nextFlight (dispatched s q c y))) ∧
    (HeadReady s q 0x202 c y → ownRearm s r = .ok →
      exec (.streamRearm q) s = .next (startRearm r s.nextFlight (dispatched s q c y))) ∧
    (HeadReady s q 0x305 c y → ownGather s r = .ok →
      exec (.gather q) s = .next (startGather r s.nextFlight (dispatched s q c y))) ∧
    (HeadReady s q 0x306 c y → ownUpdate s r = .ok →
      exec (.updateApply q) s = .next (startUpdate r s.nextFlight (dispatched s q c y))) ∧
    (HeadReady s q 0x307 c y → ownPublish s r = .ok →
      exec (.publishRows q) s = .next (startPublish r s.nextFlight (dispatched s q c y))))

/-- Tables and memory. -/
def Obligations.TableDispatchRows : Prop :=
  ∀ (s : State) (q : Nat) (c : Cmd) (y : Ready) (r : Req), r = readyReq s q c y →
  (HeadReady s q 0x300 c y → ownCreate s r = .ok →
    exec (.tableCreate q) s = .next (startNow createTable (fun s r => sliceSize (tableOfReq s r)) r s.nextFlight (dispatched s q c y))) ∧
  (∀ rows, HeadReady s q 0x301 c y → ownLoad s r = .ok →
    exec (.tableLoad q rows) s = .next (startLoad rows r s.nextFlight (dispatched s q c y))) ∧
  (HeadReady s q 0x302 c y → ownPrepare s r = .ok →
    exec (.tablePrepare q) s = .next (armTable 0 (laterBeat s (beatName r)) false r s.nextFlight (dispatched s q c y))) ∧
  (HeadReady s q 0x303 c y → ownCommit s r = .ok →
    exec (.tableCommit q) s = .next (startCommit r s.nextFlight (dispatched s q c y))) ∧
  (HeadReady s q 0x304 c y → ownRetire s r = .ok →
    exec (.tableRetire q) s = .next (startRetire r s.nextFlight (dispatched s q c y))) ∧
  (HeadReady s q 0x400 c y → ownMap s r = .ok →
    exec (.extentMap q) s = .next (startNow (fun r u => recheckMapouts (mapExtent r u)) (fun _ r => (mapForm r).len) r s.nextFlight (dispatched s q c y))) ∧
  (HeadReady s q 0x401 c y → ownUnmap s r = .ok →
    exec (.extentUnmap q) s = .next (startUnmap r s.nextFlight (dispatched s q c y))) ∧
  (HeadReady s q 0x402 c y →
    exec (.retireContext q) s = .next (startRetireCtx r s.nextFlight (dispatched s q c y))) ∧
  (HeadReady s q 0x403 c y → ownWindow s r = .ok →
    exec (.windowOpen q) s = .next (startNow openWindow noEcho r s.nextFlight (dispatched s q c y))) ∧
  (HeadReady s q 0x404 c y →
    exec (.windowClose q) s = .next (startClose r s.nextFlight (dispatched s q c y)))

/-- Configuration, tests, monitors and queries. -/
def Obligations.ConfigDispatchRows : Prop :=
  ∀ (s : State) (q : Nat) (c : Cmd) (y : Ready) (r : Req), r = readyReq s q c y →
  (HeadReady s q 0x500 c y → ownStage s r = .ok →
    exec (.configStage q) s = .next (startNow stageSet noEcho r s.nextFlight (dispatched s q c y))) ∧
  (HeadReady s q 0x501 c y → ownArm s r = .ok →
    exec (.configArm q) s = .next (startArm r s.nextFlight (dispatched s q c y))) ∧
  (HeadReady s q 0x502 c y → setFree s (toDevice r) = .ok → (psQmap s r).1 = .ok →
    exec (.partitionSet q) s = .next (startNow (fun r s => updSet (toDevice r) (putItem (psItem s r)) s) (fun _ r => psSixteenths r + 256 * psFirst r) r s.nextFlight (dispatched s q c y))) ∧
  (HeadReady s q 0x503 c y → setFree s (r.part.getD devSet) = .ok → need (csQueue s r).isSome stQueueNotOwned = .ok →
    exec (.classSet q) s = .next (startNow (fun r s => updSet (r.part.getD devSet) (putItem (.cls ((csQueue s r).getD 0) (num r.slot 68 1 != 0))) s) noEcho r s.nextFlight (dispatched s q c y))) ∧
  (HeadReady s q 0x504 c y → setFree s (toDevice r) = .ok →
    exec (.regulatorSet q) s = .next (startNow (fun r s => updSet (toDevice r) (putItem (.regulator (num r.slot 66 1 % 16) (rsRes r) (rsRate r) (rsBurst r))) s) (fun _ r => rsRate r) r s.nextFlight (dispatched s q c y))) ∧
  (HeadReady s q 0x505 c y → setFree s (toDevice r) = .ok →
    exec (.powerSet q) s = .next (startNow (fun r s => updSet (toDevice r) (putItem (.power (pwLimit r) (pwMax r) (min (pwMax r) (num r.slot 75 1)))) s) (fun _ r => pwLimit r) r s.nextFlight (dispatched s q c y))) ∧
  (HeadReady s q 0x506 c y → setFree s (toDevice r) = .ok →
    exec (.beatSet q) s = .next (startNow (fun r s => updSet (toDevice r) (putItem (.beat (bsPeriod r) (bsHead r))) s) (fun _ r => bsPeriod r + 2 ^ 14 * bsHead r) r s.nextFlight (dispatched s q c y))) ∧
  (HeadReady s q 0x600 c y → setFree s (setOf r) = .ok →
    exec (.samplingSet q) s = .next (startNow (fun r s => updSet (setOf r) (putItem (.sampling (num r.slot 66 1 % 16) (spFraction r))) s) (fun _ r => spFraction r) r s.nextFlight (dispatched s q c y))) ∧
  (HeadReady s q 0x601 c y → ownTest s r = .ok →
    exec (.testRun q) s = .next (startTest r s.nextFlight (dispatched s q c y))) ∧
  (HeadReady s q 0x602 c y → ownCheckStatus s r = .ok →
    exec (.checkStatus q) s = .next (startCheckStatus r s.nextFlight (dispatched s q c y))) ∧
  (HeadReady s q 0x700 c y → ownMonArm s r = .ok →
    exec (.monitorArm q) s = .next (startNow armMonitor noEcho r s.nextFlight (dispatched s q c y))) ∧
  (HeadReady s q 0x701 c y → ownMonRead s r = .ok →
    exec (.monitorRead q) s = .next (resultTo (pAddr r.slot 72) (monReadBytes (dispatched s q c y) r) r s.nextFlight (dispatched s q c y))) ∧
  (HeadReady s q 0x702 c y → ownRecArm s r = .ok →
    exec (.recorderArm q) s = .next (startNow armRecorder (fun _ r => recBytes r / 64) r s.nextFlight (dispatched s q c y))) ∧
  (HeadReady s q 0x703 c y →
    exec (.recorderStop q) s = .next (startNow (fun _ s => Machine.recorderStop s) noEcho r s.nextFlight (dispatched s q c y))) ∧
  (HeadReady s q 0x704 c y → ownQuery s r = .ok →
    exec (.query q) s = .next (startQuery r s.nextFlight (dispatched s q c y)))

/-- Groups and security. -/
def Obligations.SecurityDispatchRows : Prop :=
  ∀ (s : State) (q : Nat) (c : Cmd) (y : Ready) (r : Req), r = readyReq s q c y →
  (HeadReady s q 0x800 c y → ownJoin s r = .ok →
    exec (.groupJoin q) s = .next (startJoin r s.nextFlight (dispatched s q c y))) ∧
  (HeadReady s q 0x801 c y → isMember s = true →
    exec (.groupLeave q) s = .next (startLeave s.nextFlight (dispatched s q c y))) ∧
  (∀ s1, HeadReady s q 0x802 c y → resultOk s r (pAddr r.slot 72) 192 = .ok → s1 = dispatched s q c y →
    exec (.groupState q) s = .next (resultTo (pAddr r.slot 72) (groupBytes s1) r s.nextFlight (updFlight s.nextFlight (fun f => { f with
      echo := if isMember s1 then s1.net.group.present.length else 0 }) s1))) ∧
  (HeadReady s q 0x900 c y → ownAttest s r = .ok →
    exec (.attest q) s = .next (startAttest r s.nextFlight (dispatched s q c y))) ∧
  (HeadReady s q 0x901 c y → smGet s.sec.keyDomains 0 (kdOf r) = 0 →
    exec (.keyDomainCreate q) s = .next (startNow (fun r s => createDomain (kdOf r) s) noEcho r s.nextFlight (dispatched s q c y))) ∧
  (HeadReady s q 0x902 c y → smGet s.sec.keyDomains 0 (kdOf r) ≠ 0 →
    (s.mem.extents.any fun e => e.2.keyDomain == kdOf r) = false →
    exec (.keyDomainErase q) s = .next (startNow (fun r s => eraseDomain (kdOf r) s) noEcho r s.nextFlight (dispatched s q c y))) ∧
  (HeadReady s q 0x903 c y → ownFlowKey s r = .ok →
    exec (.flowKey q) s = .next (startNow setFlowKey noEcho r s.nextFlight (dispatched s q c y)))

/-- A row of a submitted command whose head may not be dispatched changes nothing. -/
def Obligations.HeldHeadWaits : Prop :=
  ∀ (s : State) (q : Nat) (c : Cmd), (getQueue s q).fetched.head? = some c → mayDispatch s q c.bytes = false →
    ∀ i ∈ [Instr.nop q, .fenceWait q, .fenceSignal q, .barrier q, .marker q, .copyH2d q, .copyD2h q, .copyD2d q, .copyNet q,
      .launchKernel q [], .launchGraph q, .streamRearm q, .tableCreate q, .tableLoad q [], .tablePrepare q, .tableCommit q,
      .tableRetire q, .gather q, .updateApply q, .publishRows q, .extentMap q, .extentUnmap q, .retireContext q, .windowOpen q,
      .windowClose q, .configStage q, .configArm q, .partitionSet q, .classSet q, .regulatorSet q, .powerSet q, .beatSet q,
      .samplingSet q, .testRun q, .checkStatus q, .monitorArm q, .monitorRead q, .recorderArm q, .recorderStop q, .query q,
      .groupJoin q, .groupLeave q, .groupState q, .attest q, .keyDomainCreate q, .keyDomainErase q, .flowKey q],
      exec i s = .next s

/-- What follows a dispatch without a queue: the next graph node, the end of a context's retirement, and the progress of a
gather's batches on their dies; a version query that is not answered in time marks the group diverged (18 R475). -/
def Obligations.ContinuationRows : Prop :=
  ∀ s : State,
  (∀ fl node ss g w x, findFlight s fl = some g → g.work = .graph w → g.done = none → s.beat.paused = false →
    x = parseNode node (readVa s g.context (w.addr + 64 * node) 64).data → nodeReady w node x = true →
    nodeMustWait s g x.kind = false → exec (.graphNodeDispatch fl node ss) s = .next (runNode g node x ss s)) ∧
  (∀ c l, retiringCtx s c = true → l = (s.mem.retiring.filter fun r => r.context = c).filterMap (·.flight) →
    drained s c l.head? = true → exec (.retireContextDrained c) s = .next (retireEnd c s)) ∧
  (∀ fl die, yarrowRunning s fl die = true →
    exec (.yarrowBatchDone fl die false) s = .next (yarrowDone fl die s) ∧
    ∀ n, exec (.yarrowProgress fl die n) s = .next (yarrowProgress fl die n s)) ∧
  (∀ fl die f g, yarrowRunning s fl die = true → findFlight s fl = some f → f.work = .gather g → g.reran.contains die = true →
    exec (.yarrowBatchDone fl die true) s = .next (moduleFault 3 (srcYarrow die) s)) ∧
  (∀ fl die f g, yarrowRunning s fl die = true → findFlight s fl = some f → f.work = .gather g → g.reran.contains die = false →
    exec (.yarrowBatchDone fl die true) s = .next { s with flights := s.flights.map fun w =>
      if w.num = fl then { w with work := .gather { g with reran := g.reran ++ [die] } } else w }) ∧
  (∀ q : Nat × List Nat × List Nat × Nat, s.net.group.queries.find? (fun x => x.1 = q.1) = some q → q.2.1 ≠ [] →
    q.2.2.2 + 2 ≤ s.beat.edges →
    exec (.versionReplyTimeout q.1) s = .next { s with net := { s.net with group := { s.net.group with
      diverged := true
      queries := s.net.group.queries.filter fun x => x.1 != q.1 } } })

/-! ### Updates (07) -/

/-- R186: an entry's APPLY_BEAT is the next beat when its stamp lies before the cutoff, and the one after it otherwise. -/
def Obligations.ApplyBeatRule : Prop :=
  ∀ (s : State) (t : Table) (n : Nat), n = beatNo s →
    (now s < (n + 1) * beatNs s - t.cutoff * 1000 → applyBeat s t = n + 1) ∧
    ((n + 1) * beatNs s - t.cutoff * 1000 ≤ now s → applyBeat s t = n + 2)

/-- A collection closes once, is merged die by die, and its window applies it and ends. A merge waits for the batch its die is at
work on, and no batch begins while a merge is due (R191). -/
def Obligations.UpdateRows : Prop :=
  ∀ (s : State) (p : Nat),
  ((findPart s p).isSome = true → s.tables.closed.contains (p, beatNo s + 1) = false →
    Runs (.collectionClose p) s fun t => t.tables = { s.tables with closed := s.tables.closed ++ [(p, beatNo s + 1)] } ∧
      t.mem = s.mem ∧ t.sched = s.sched ∧ t.flights = s.flights ∧ t.tiles = s.tiles ∧ now s ≤ now t ∧
      (now t = now s ∨ now t < (beatNo s + 1) * beatNs s)) ∧
  (∀ die a w, mergeBeat s p die = some a → findPart s p = some w → die < (partDies w).length →
    (yarrowBusy s p die = false → ∃ k, k = ((entriesFor s p a).filter fun e => e.die = die).length ∧
      exec (.updateMergeDone p die) s = .next (beginBatch p die (meterKeys p k (takeCharge p (keyCharge k) true { s with
        tables := { s.tables with merged := s.tables.merged ++ [(p, die, a)] } })))) ∧
    (yarrowBusy s p die = true → exec (.updateMergeDone p die) s = .next s) ∧
    beginBatch p die s = s) ∧
  (∀ a, smFind s.tables.windows p = none → windowBeat s p = some a →
    exec (.applyWindowStart p) s = .next (startWindow p a s)) ∧
  (∀ w, smFind s.tables.windows p = some w → exec (.applyWindowEnd p) s = .next (endWindow p w s))

/-! ### Network (14) -/

/-- What the ports send and count: packets in class order, retransmission, acknowledgements, frames other than Flochasel. A
received frame that is not accepted only counts as dropped; a UDP frame of Flochasel takes its room in its class's buffer. The
links of a port whose loopback test holds it down do not change (15 R426). -/
def Obligations.NetworkRows : Prop :=
  (∀ s : State,
    (∀ sub x, subUp s sub = true → pickFlow s sub 0 = some x → exec (.packetTransmit sub) s = .next (transmit sub 0 x s)) ∧
    (∀ sub x, subUp s sub = true → pickFlow s sub 0 = none → pickFlow s sub 1 = some x →
      exec (.packetTransmit sub) s = .next (transmit sub 1 x s)) ∧
    (∀ sub x, subUp s sub = true → pickFlow s sub 0 = none → pickFlow s sub 1 = none → pickFlow s sub 2 = some x →
      exec (.packetTransmit sub) s = .next (transmit sub 2 x s)) ∧
    (∀ peer psn f k u, findFlow s peer = some f → f.pkts.find? (fun q => q.psn = psn) = some k → u = advance k.due s →
      (s.net.retryMax ≤ k.tries → exec (.rtoExpiry peer psn) s = .next (giveUp peer psn u)) ∧
      (k.tries < s.net.retryMax → exec (.rtoExpiry peer psn) s = .next (updFlow peer (fun f => { f with
          pkts := f.pkts.map fun x => if x.psn = psn then { x with
            tries := k.tries + 1
            due := now u + rtoNs u * min (2 ^ (k.tries + 1)) 8 } else x }) (resend true peer k u)))) ∧
    (∀ peer f n due, findFlow s peer = some f → f.ackDue = some (n, due) →
      exec (.ackTimer peer) s = .next (sendAck peer (advance due s))) ∧
    (portsOn s = true → ∃ u, u = advance (nextMultiple 10000 s) s ∧ exec .ccTick s = .next { u with net := { u.net with
        flows := smMap u.net.flows fun _ f => ccTickFlow u f } }) ∧
    (∀ peer mseq f m at_, findFlow s peer = some f → (f.txMsgs.find? fun m => m.mseq = mseq && m.resendAt.isSome) = some m →
      m.resendAt = some at_ → m.nackCfg.getD s.beat.edges + 2 ≤ s.beat.edges →
      exec (.configNackResend peer mseq) s = .next (msgFailed peer m stNetConfigMismatch nkConfig 0 (advance at_ s))) ∧
    (∀ peer mseq f m at_, findFlow s peer = some f → (f.txMsgs.find? fun m => m.mseq = mseq && m.resendAt.isSome) = some m →
      m.resendAt = some at_ → s.beat.edges < m.nackCfg.getD s.beat.edges + 2 →
      Runs (.configNackResend peer mseq) s fun t => at_ ≤ now t ∧ t.mem = s.mem ∧ t.queues = s.queues ∧ t.flights = s.flights ∧
        ∃ g n, findFlow t peer = some g ∧ g.nextMsg = (f.nextMsg + 1) % 2 ^ 32 ∧ n ∈ g.txMsgs ∧ n.mseq = f.nextMsg ∧ n.sent = 0 ∧
          n.payload = m.payload) ∧
    (∀ sub, subUp s sub = true → subIpv4 s sub = true →
      exec (.arpRequest sub ((getSub s sub).ip.toNat % 2 ^ 32)) s = .next (putFrame sub 1
        (le 6 ((getSub s sub).mac.toNat % 2 ^ 48) ++ le 4 ((getSub s sub).ip.toNat % 2 ^ 32)) s)) ∧
    (∀ sub, subUp s sub = true → subIpv4 s sub = false →
      exec (.neighbourSolicitation sub (getSub s sub).ip.toNat) s = .next (putFrame sub 2
        (le 6 ((getSub s sub).mac.toNat % 2 ^ 48) ++ le 16 (getSub s sub).ip.toNat) s)) ∧
    (∀ k v, k < 4 → portsOn s = true → (getPort s k).pfcEn = true → Runs (.pfcFrame k v) s fun t =>
      (∀ i, i ∈ (getPort t k).paused ↔ i < 8 ∧ bit v i = true ∧ bit (getPort s k).pfcMask i = true) ∧
      (∀ j, j ≠ k → getPort t j = getPort s j) ∧ t.net.subs = s.net.subs ∧ t.net.flows = s.net.flows ∧ t.mem = s.mem) ∧
    (∀ sub up locked, sub < 16 → portsOn s = true → loopback s (sub / 4) = true →
      exec (.portLinkChange sub up locked) s = .next s) ∧
    (∀ sub up locked, sub < 16 → portsOn s = true → loopback s (sub / 4) = false → ((getSub s sub).linkUp ≠ up ∨ (getSub s sub).pcs ≠ locked) →
      Runs (.portLinkChange sub up locked) s fun t => getSub t sub = { getSub s sub with
          linkUp := up
          pcs := locked } ∧ (∃ e, t.tele.events = s.tele.events ++ [e] ∧ e.code = evLinkState) ∧ t.mem = s.mem ∧
        t.net.flows = s.net.flows ∧ t.queues = s.queues) ∧
    (∀ k v, Reachable s → k < 4 → exec (.portModeWrite k v) s = .next (updPort k (portCtrl v.toNat) s))) ∧
  (∀ (s : State) (f : Frame), portsOn s = true → f.sub < 16 →
    (frameAccepted s f = false → exec (.frameReceive f) s = .next (countDrop f.sub s)) ∧
    (frameAccepted s f = true → f.kind ≠ 2 → exec (.frameReceive f) s = .next s) ∧
    (frameAccepted s f = true → f.kind = 2 → (getPort s (f.sub / 4)).pfcEn = false →
      rxBufferBytes < rxHeld (getPort s (f.sub / 4)) + f.bytes → exec (.frameReceive f) s = .next (countDrop f.sub s)) ∧
    (frameAccepted s f = true → f.kind = 2 →
      ((getPort s (f.sub / 4)).pfcEn = true ∨ rxHeld (getPort s (f.sub / 4)) + f.bytes ≤ rxBufferBytes) →
      exec (.frameReceive f) s = .next (pfcCheck f.sub (updPort (f.sub / 4) (fun p => { p with
        rxBytes := smSet p.rxBytes (f.pcp % 8) (smGet p.rxBytes 0 (f.pcp % 8) + f.bytes) }) s))))

/-- What every authentic packet does first, and then what its class says: an ACK and a NACK act on the sender's flow, every
other packet is received reliably (R379, R386, R387). A packet whose tag does not verify is dropped and counted, and changes
nothing else: no other register, no byte. -/
def Obligations.PacketRows : Prop :=
  (∀ (s : State) (p : Packet), Arrives s p →
    let got (k : Nat) (s : State) : State := noteAuth p (drainRx p.sub k p.payload.length s)
    let cls := if ctlType (pType p) = true then 0 else if bit (pFlags p) 0 = true then 1 else 2
    (pType p = tyAck → exec (.ack p) s = .next (afterSnoops (segTouch s p).1 (segTouch s p).2
      (fun s => takeAck (pSrc p) p.header (got cls s)) s)) ∧
    (pType p = tyNack → exec (.nack p) s = .next (afterSnoops (segTouch s p).1 (segTouch s p).2
      (fun s => takeNack (pSrc p) p.header (got cls s)) s)) ∧
    (∀ i ty, (i, ty) ∈ [(Instr.dataWrite p, tyWrite), (.dataReadReq p, tyReadReq), (.dataReadResp p, tyReadResp), (.send p, tySend),
        (.atomicAddF32 p, tyAtomic), (.checkClear p, tyClear), (.retract p, tyRetract), (.beatSync p, tyBeatSync)] →
      pType p = ty → exec i s = .next (afterSnoops (segTouch s p).1 (segTouch s p).2 (fun s => reliablePacket p (got cls s)) s)) ∧
    (∀ i k, (i, k) ∈ [(Instr.joinReq p, 0), (.joinAccept p, 1), (.joinRefuse p, 2), (.configPush p, 3), (.memberUp p, 4),
        (.leave p, 5), (.groupMismatch p, 6), (.versionQuery p, 7), (.versionReply p, 8)] →
      ofGroup k p = true → pType p ≠ tyAck → pType p ≠ tyNack →
      exec i s = .next (afterSnoops (segTouch s p).1 (segTouch s p).2 (fun s => reliablePacket p (got cls s)) s))) ∧
  (∀ (s : State) (p : Packet), subUp s p.sub = true → num p.header 0 1 = 1 → authentic s p = false → s.power.state = .s0 →
      pType p = tyWrite →
      exec (.dataWrite p) s = .next { s with net := { s.net with subs := smSet s.net.subs p.sub { getSub s p.sub with
        authDrop := min ((getSub s p.sub).authDrop + 1) (2 ^ 32 - 1) } } })

/-! ### Integrity and tests (15) -/

/-- Faults that a detector reports: a double-bit error withdraws a tile, the others fault the module, and single ones are
counted. A module fault is taken once: the first one's cause stays, and admission stops. -/
def Obligations.DetectorRows : Prop :=
  (∀ s : State,
    exec .lockstepMismatch s = .next (moduleFault 0 srcCmd s) ∧
    exec (.hubSramEccError true) s = .next (moduleFault 2 srcCmd s) ∧ exec (.hubSramEccError false) s = .next s ∧
    (∀ t, t < 128 → exec (.scratchpadEccError t true) s = .next (quarantine t s) ∧
      exec (.scratchpadEccError t false) s = .next s) ∧
    (∀ l, exec (.flitCrcError l false) s = .next { s with integ := { s.integ with flitFails := smSet s.integ.flitFails l 0 } }) ∧
    (∀ l, smGet s.integ.flitFails 0 l < 2 → exec (.flitCrcError l true) s = .next { s with integ := { s.integ with
      flitFails := smSet s.integ.flitFails l (smGet s.integ.flitFails 0 l + 1) } }) ∧
    (∀ l, 2 ≤ smGet s.integ.flitFails 0 l → exec (.flitCrcError l true) s = .next (moduleFault 1 srcCmd { s with
      integ := { s.integ with flitFails := smSet s.integ.flitFails l (smGet s.integ.flitFails 0 l + 1) } })) ∧
    (s.sec.trngFails = 0 → exec .trngHealthFail s = .next { s with
      freeCtr := s.freeCtr + 1
      sec := { s.sec with
        trngFails := 1
        trng := 1 } }) ∧
    (1 ≤ s.sec.trngFails → exec .trngHealthFail s = .next (moduleFault 4 srcCmd { s with
      freeCtr := s.freeCtr + 1
      sec := { s.sec with
        trngFails := s.sec.trngFails + 1
        trng := 2 } }))) ∧
  (∀ (s : State) (c u : Nat), (s.power.moduleFault = none → (moduleFault c u s).power.moduleFault = some c) ∧
      (s.power.moduleFault ≠ none → moduleFault c u s = s) ∧ (∀ q b, mayDispatch (moduleFault c u s) q b = false))

/-- The timers of the integrity checks, and the tests of tiles and other units. -/
def Obligations.TestRows : Prop :=
  ∀ s : State,
  (∀ t, t < 128 → exec (.checkAgeExpiry t) s = .next { advance ((getTile s t).ageStart + 12000000) s with
    tiles := smSet s.tiles t { getTile s t with forced := true } }) ∧
  exec .checkWatermarkTick s = .next (watermarkTick s) ∧
  exec .provisionalExpiry s = .next (provFailed (s.integ.prov.filter fun x => x.edge + 3 ≤ s.beat.edges) s) ∧
  (∀ t r, t < 128 → (getTile s t).withdrawn = some .quarantine → (getTile s t).returning = false → (getTile s t).widthNext = none →
    exec (.quarantineTestDone t r) s = .next (quarantineDone t r s)) ∧
  (∀ t w, slotMayStart s t = true → slotFor s t = some w →
    exec (.testSlotStart t) s = .next { s with tiles := smSet s.tiles t { getTile s t with withdrawn := some w } }) ∧
  (∀ t r, t < 128 → exec (.testSlotEnd t r) s = .next (slotEnd t r s)) ∧
  (∀ t r, 128 ≤ t → exec (.testSlotEnd t r) s = .next (unitEnd t r s)) ∧
  (∀ t r, t < 128 → (getTile s t).withdrawn = some .selfTest → r.fault = false → Runs (.testSlotEnd t r) s fun u =>
    (getTile u t).withdrawn = none ∧ (getTile u t).forced = false ∧ (getTile u t).lastPass = now s ∧ u.mem = s.mem ∧
    u.flights = s.flights ∧ ∀ j, j ≠ t → getTile u j = getTile s j) ∧
  Runs .calibrationTimer s (fun u => s.integ.calAt ≤ now u ∧ u.integ.calAt = s.integ.calAt + 60000000000 ∧
    u.tiles = s.tiles ∧ u.mem = s.mem ∧ ∀ d i, d < 4 → i < 32 → (getTile s (d * 32 + i)).retired = false →
      i ∈ smGet u.integ.calib [] d)

/-! ### Telemetry (17) -/

/-- Events reach the recorder in order, samples the sensors that read (17 R463), and a day ends with the ages of the dies. -/
def Obligations.TelemetryRows : Prop :=
  ∀ s : State,
  (∀ e l, s.tele.events = e :: l → bootEvent e.code = false → s.tele.armed = false →
    exec .eventArrival s = .next { s with tele := { s.tele with events := l } }) ∧
  (∀ e l u, s.tele.events = e :: l → u = { s with tele := { s.tele with events := l } } →
    exec .eventArrival s = .next (recordEvent e l.length
      (if bootEvent e.code = true then bootPut (eventBytes e 0 0xB0) u else u))) ∧
  (∀ l, (∀ x ∈ l, sensorReads s x.1 = true) → exec (.sensorSample l) s = .next (l.foldl (fun s x => takeSample x s) s)) ∧
  (∀ l, (∀ x ∈ l, sensorReads s x.1 = false) → exec (.sensorSample l) s = .next s) ∧
  (∀ i v, sensorDefined i = true → smGet (takeSample (i, v) s).tele.sensors 0 i = v ∧ (takeSample (i, v) s).mem = s.mem ∧
    (takeSample (i, v) s).queues = s.queues) ∧
  Runs .agingSummary s (fun t => now t = (now s / 86400000000000 + 1) * 86400000000000 ∧ t.mem = s.mem ∧ t.tiles = s.tiles ∧
    ∃ l, t.tele.events = s.tele.events ++ l ∧ l.length = 4 ∧ ∀ e ∈ l, e.code = evAgingSummary)

/-! ### Power, resets, boot (18, 16, 19) -/

/-- Resets written by the host, power on, the boot with its self-tests (R470, but not after a warm reset), and what follows it. -/
def Obligations.ResetRows : Prop :=
  ∀ s : State,
  (Reachable s → ∀ b, exec (.warmReset b) s = .next (warmReset 3 b s)) ∧
  (Reachable s → exec .coldReset s = .next (coldReset 1 s)) ∧
  (s.power.rails = .none_ → ∀ k, Runs (.powerOn k) s fun t => t.power.rails = .on ∧ t.power.strap = k % 4 ∧ t.mem.cells = [] ∧
    t.queues = [] ∧ t.flights = [] ∧ t.clock = State.reset.clock ∧ t.clover = State.reset.clover ∧ t.pending = s.pending ∧
    t.sec.minSvn = s.sec.minSvn ∧ t.power.ready = false) ∧
  (s.power.ready = false → s.sec.recovery = false → s.power.rails = .on → s.power.state = .s0 →
    (∀ vA vB mA mB d c okB, s.sec.preferred ≠ 1 → s.sec.minSvn ≤ vA → Runs (.bootReady true okB vA vB mA mB d c true) s fun t =>
      t.power.ready = true ∧ t.sec.slot = 0 ∧ t.sec.svn = vA ∧ t.sec.fwStart = some (now s) ∧ t.mem = s.mem ∧
      t.sec.minSvn = s.sec.minSvn ∧ t.queues = s.queues ∧
      (s.power.lastReset = 2 ∨ s.power.lastReset = 3 → t.tiles = s.tiles) ∧
      (s.power.lastReset ≠ 2 → s.power.lastReset ≠ 3 → ∀ k, k < 128 → (getTile t k).lastPass = now s)) ∧
    (∀ vA vB mA mB d c, s.sec.preferred ≠ 1 → s.sec.minSvn ≤ vB → Runs (.bootReady false true vA vB mA mB d c true) s fun t =>
      t.power.ready = true ∧ t.sec.slot = 1 ∧ t.sec.svn = vB ∧ t.sec.failedSlot = some 0) ∧
    (∀ vA vB mA mB d c ok, Runs (.bootReady false false vA vB mA mB d c ok) s fun t =>
      t.power.ready = false ∧ t.sec.recovery = true ∧ t.mem = s.mem)) ∧
  (∀ t0, s.sec.fwStart = some t0 → s.power.ready = true → s.power.moduleFault = none → s.sec.svnTried = false →
    s.sec.minSvn < s.sec.manifestMinSvn → Runs (.minSvnUpdate true) s (fun t => t.sec.minSvn = s.sec.manifestMinSvn ∧
      t0 + 60000000000 ≤ now t ∧ t.mem = s.mem) ∧
    Runs (.minSvnUpdate false) s (fun t => t.sec.minSvn = s.sec.minSvn ∧ t.sec.svnTried = true ∧
      ∃ e, t.tele.events = s.tele.events ++ [e] ∧ e.code = evRollbackUpdateFailed)) ∧
  (∀ v n, s.sec.unlockMinSvn ≤ v → s.sec.fwStart.isSome = true → s.sec.unlockNonce = some n →
    exec (.testUnlock true v [] (unlockBytes n)) s = .next { s with sec := { s.sec with
      keyDomains := []
      testPort := true
      portOpen := true } })

/-- After a cold reset the module boots again: what every supply but Clover's kept is gone, Clover and the registers of R471
stay. -/
def Obligations.ColdResetKeeps : Prop :=
  ∀ (s : State) (code : Nat), let t := coldReset code s
    t.clock = s.clock ∧ t.clover = s.clover ∧ t.mem.cells = [] ∧ t.mem.owners = [] ∧ t.queues = [] ∧ t.flights = [] ∧
    t.sched.parts = [] ∧ t.fences = [] ∧ t.tables.tab = [] ∧ t.net.flows = [] ∧ t.power.ready = false ∧ t.power.state = .s0 ∧
    t.power.lastReset = code ∧ t.link.perstMode = s.link.perstMode ∧ t.link.biTimeoutMs = s.link.biTimeoutMs ∧
    t.sec.minSvn = s.sec.minSvn ∧ (∀ k, (getTile t k).width = (getTile s k).width) ∧
    ∀ k, (getStack t k).out = (getStack s k).out

/-- The power states S0 to S3 (R464 to R469). -/
def Obligations.PowerStateRows : Prop :=
  ∀ s : State,
  (hostReach s = true → exec .pwrTargetS0 s = .next (targetS0 s)) ∧
  (s.power.state = .s1 → hostReach s = true → Runs .pwrTargetS0 s fun t => t.power.state = .s0 ∧ t.mem = s.mem ∧ t.queues = s.queues) ∧
  (Reachable s → s.power.state = .s0 → moduleIdle s = true →
    Runs .pwrTargetS1 s fun t => t.power.state = .s1 ∧ t.power.target = .s1 ∧ t.mem = s.mem ∧ t.queues = s.queues ∧ t.tiles = s.tiles) ∧
  (Reachable s → (s.power.state ≠ .s0 ∨ moduleIdle s = false) →
    Runs .pwrTargetS1 s fun t => t.power.state = s.power.state ∧ t.power.target = .s1 ∧ t.mem = s.mem) ∧
  (Reachable s → exec .pwrTargetS2 s = .next (startEntry .s2 s) ∧ exec .pwrTargetS3 s = .next (startEntry .s3 s)) ∧
  (∀ p, (startEntry p s).power.entering = true ∧ (startEntry p s).power.target = p ∧ ∀ q b, mayDispatch (startEntry p s) q b = false) ∧
  (Working s → s.power.state = .s0 → s.power.entering = false → moduleIdle s = true → (s.power.autoS1 = true ∨ s.power.target = .s1) →
    Runs .idleTimeout s fun t => t.power.state = .s1 ∧ t.mem = s.mem ∧ t.queues = s.queues ∧
      (s.power.target ≠ .s1 → now t = now s + 1000 * s.power.idleUs)) ∧
  (s.power.state = .s0 → entryDrained s = true → s.power.target = .s2 → Runs .powerEntryDrained s fun t =>
    t.power.state = .s2 ∧ t.power.entering = false ∧ t.mem = s.mem ∧ t.queues = s.queues ∧ t.tiles = s.tiles) ∧
  (s.power.state = .s0 → entryDrained s = true → s.power.target = .s3 → Runs .powerEntryDrained s fun t =>
    t.power.state = .s3 ∧ t.mem.cells = [] ∧ t.queues = [] ∧ t.clock = s.clock ∧ t.clover = s.clover) ∧
  (s.power.state = .s2 → s.power.waking = true → Runs .wakeComplete s fun t => t.power.state = .s0 ∧ t.power.waking = false ∧
    t.beat.paused = true ∧ t.mem = s.mem ∧ t.queues = s.queues ∧ ∀ k, (getTile t k).spad = [] ∧ (getTile t k).vreg = (getTile s k).vreg)

/-- Supply and heat: the trips open the rails, recovery is a cold reset, and the protective state is entered at 95 °C. -/
def Obligations.SupplyAndHeatRows : Prop :=
  ∀ s : State,
  (∀ v, s.power.rails = .on → (v < 176 ∨ 228 < v) → Runs (.supplyUndervoltage v) s fun t => t.power.rails = .uvOff ∧
    t.power.uvTrip = true ∧ t.mem.cells = [] ∧ t.clock = s.clock ∧ t.clover = s.clover ∧ t.power.ready = false) ∧
  (∀ v, s.power.rails = .uvOff → 188 ≤ v → Runs (.supplyRecovery v) s fun t => t.power.rails = .on ∧ t.power.lastReset = 1 ∧
    t.power.ready = false ∧ t.clock = s.clock) ∧
  (∀ d m, Working s → d < 4 → 95000 ≤ m → protect s d = false → Runs (.thermalProtectEntry d m) s fun t =>
    protect t d = true ∧ (∃ e, t.tele.events = s.tele.events ++ [e] ∧ e.code = evThermalProtect) ∧ t.mem = s.mem ∧
    t.tiles = s.tiles ∧ t.sched = s.sched ∧ ∀ e, e < 4 → e ≠ d → protect t e = protect s e) ∧
  (∀ d m, Working s → d < 5 → 105000 ≤ m → Runs (.junctionLimit d m) s fun t =>
    (∃ e, t = { s with tele := e }) ∧ ∃ e, t.tele.events = s.tele.events ++ [e] ∧ e.code = evThermalProtect) ∧
  (∀ d m, s.power.rails = .on → s.power.state ≠ .s3 → d < 4 → 110000 ≤ m → exec (.dieTrip d m) s = .next
    (dieLost d (moduleFault (tripCause d) srcPower { s with power := { s.power with
      dieTrip := s.power.dieTrip ||| BitVec.ofNat 32 (2 ^ d) } }))) ∧
  (∀ m, s.power.rails = .on → 110000 ≤ m → Runs (.hubTrip m) s fun t => t.power.rails = .hubOff ∧ t.power.hubTrip = true ∧
    t.power.ready = false ∧ t.mem.cells = [] ∧ t.clock = s.clock) ∧
  (∀ m, s.power.rails = .hubOff → m < 85000 → exec (.hubTripRecovery m) s = .next (coldReset 1 s)) ∧
  Runs .inputPowerLoss s (fun t => t.power.rails = .none_ ∧ t.mem.cells = [] ∧ t.clock = State.reset.clock ∧ t.queues = [] ∧
    t.pending = s.pending)

/-! ### Registers and rings (08, 10, 12, 13) -/

/-- Writes of the module's registers and rings reach them from the host alone; an access of another size than 4 or 8 bytes, or not
aligned to it, or to a function that does not answer, writes nothing and reads zero (R342, R346, R360); and a regulator's
bucket fills by its rate. -/
def Obligations.RegisterRows : Prop :=
  ∀ s : State,
  (Reachable s → ∀ off size v, exec (.registerWrite 0 off size v) s =
    .next (if barDead s 0 = true then s else regWrite 0 off size v.toNat s)) ∧
  (Reachable s → ∀ f off size v, f ≠ 0 → f < 256 → barDead s f = false → barUnbound s f = false → ∃ u, u = { s with link := { s.link with vfEnable := true } } ∧
    exec (.registerWrite f off size v) s = .next (regWrite f off size v.toNat u)) ∧
  (Reachable s → ∀ f off size v, (255 < f ∨ barDead s f = true ∨ barUnbound s f = true) →
    exec (.registerWrite f off size v) s = .next s ∧ regRead s f off size = 0) ∧
  (∀ f off size v, (size ≠ 4 ∧ size ≠ 8) ∨ off % size ≠ 0 → regWrite f off size v s = s ∧ regRead s f off size = 0) ∧
  (Reachable s → ∀ v, exec (.schedCtrlWrite v) s = .next { s with sched := { s.sched with ctrlNext := some v } }) ∧
  (Reachable s → ∀ o f v, barDead s f = false → exec (.faultqBaseWrite o f v) s = .next (faultqBase o f v.toNat s) ∧
    ∀ w, exec (.faultqHeadWrite o f w) s = .next (faultqHead o f w.toNat s)) ∧
  (Reachable s → ∀ v, exec (.billBaseWrite v) s = .next { s with mem := { s.mem with
    bill := ringBaseWrite s none v.toNat s.mem.bill } }) ∧
  (Reachable s → ∀ v, exec (.billHeadWrite v) s = .next { s with mem := { s.mem with
    bill := { s.mem.bill with head := ringHead s.mem.bill v.toNat } } }) ∧
  (∀ p res ns w, res < 4 → findPart s p = some w → Runs (.regulatorRefill p res ns) s fun t =>
    t = { s with sched := { s.sched with parts := smSet s.sched.parts p { w with
      regs := smSet w.regs res (bucketRefill ns (bucketOf w res)) } } }) ∧
  (hostReach s = false → ∀ i ∈ [Instr.coldReset, .warmReset true, .pwrTargetS1, .pwrTargetS2, .pwrTargetS3, .pwrTargetS0],
    exec i s = .next s)
end

