-- ==== Sys2Proof/Laws/Get.lean ====
section
/-! SUPPORT. Reading one part of the state after an update of a part: the same part, or another one. -/

namespace Sys2Proof.Machine

/-! ### Sparse maps -/

theorem smFind_smSet {α : Type} (m : SMap α) (i j : Nat) (v : α) :
    smFind (smSet m i v) j = if j = i then some v else smFind m j := by
  induction m with
  | nil => simp [smSet, smFind]
  | cons x m ih => obtain ⟨k, w⟩ := x; simp only [smSet, smFind]; grind [smFind]

theorem smGet_smSet {α : Type} (m : SMap α) (d : α) (i j : Nat) (v : α) :
    smGet (smSet m i v) d j = if j = i then v else smGet m d j := by
  simp only [smGet, smFind_smSet]; split <;> rfl

theorem smFind_smMap {α : Type} (m : SMap α) (f : Nat → α → α) (j : Nat) : smFind (smMap m f) j = (smFind m j).map (f j) := by
  induction m with
  | nil => rfl
  | cons x m ih =>
    obtain ⟨k, w⟩ := x
    simp only [smMap, List.map_cons, smFind]
    split
    · subst_vars; rfl
    · split
      · rfl
      · exact ih

/-- What every entry and the default keep of `g`, a map of the entries keeps. -/
theorem smGet_smMap {α β : Type} (m : SMap α) (f : Nat → α → α) (d : α) (j : Nat) (g : α → β) (h : ∀ i x, g (f i x) = g x) :
    g (smGet (smMap m f) d j) = g (smGet m d j) := by
  simp only [smGet, smFind_smMap]; cases smFind m j <;> simp [h]

/-! ### The same part -/

theorem getTile_updTile (i j : Nat) (f : Tile → Tile) (s : State) :
    getTile (updTile i f s) j = if j = i then f (getTile s i) else getTile s j := by
  simp only [getTile, updTile, smGet_smSet]
theorem getQueue_updQueue (i j : Nat) (f : Queue → Queue) (s : State) :
    getQueue (updQueue i f s) j = if j = i then f (getQueue s i) else getQueue s j := by
  simp only [getQueue, updQueue, smGet_smSet]
theorem getFunc_updFunc (i j : Nat) (f : Func → Func) (s : State) :
    getFunc (updFunc i f s) j = if j = i then f (getFunc s i) else getFunc s j := by
  simp only [getFunc, updFunc, smGet_smSet]
theorem getChan_updChan (i j : Nat) (f : Channel → Channel) (s : State) :
    getChan (updChan i f s) j = if j = i then f (getChan s i) else getChan s j := by
  simp only [getChan, updChan, smGet_smSet]
theorem getStack_updStack (i j : Nat) (f : Stack → Stack) (s : State) :
    getStack (updStack i f s) j = if j = i then f (getStack s i) else getStack s j := by
  simp only [getStack, updStack, smGet_smSet]
theorem getSub_updSub (i j : Nat) (f : Sub → Sub) (s : State) :
    getSub (updSub i f s) j = if j = i then f (getSub s i) else getSub s j := by
  simp only [getSub, updSub, smGet_smSet]
theorem getPort_updPort (i j : Nat) (f : Port → Port) (s : State) :
    getPort (updPort i f s) j = if j = i then f (getPort s i) else getPort s j := by
  simp only [getPort, updPort, smGet_smSet]
theorem findFlow_updFlow (i j : Nat) (f : Flow → Flow) (s : State) :
    findFlow (updFlow i f s) j = if j = i then (findFlow s i).map f else findFlow s j := by
  unfold updFlow; cases h : findFlow s i with
  | none => simp only []; split
            · subst_vars; rw [h]; rfl
            · rfl
  | some w => simp only [findFlow, smFind_smSet] at *; split <;> rfl
theorem findPart_updPart (i j : Nat) (f : Part → Part) (s : State) :
    findPart (updPart i f s) j = if j = i then (findPart s i).map f else findPart s j := by
  unfold updPart; cases h : findPart s i with
  | none => simp only []; split
            · subst_vars; rw [h]; rfl
            · rfl
  | some w => simp only [findPart, smFind_smSet] at *; split <;> rfl
theorem findTable_updTable (i j : Nat) (f : Table → Table) (s : State) :
    findTable (updTable i f s) j = if j = i then (findTable s i).map f else findTable s j := by
  unfold updTable; cases h : findTable s i with
  | none => simp only []; split
            · subst_vars; rw [h]; rfl
            · rfl
  | some w => simp only [findTable, smFind_smSet] at *; split <;> rfl
theorem getTile_updTile_same (i : Nat) (f : Tile → Tile) (s : State) : getTile (updTile i f s) i = f (getTile s i) := by
  rw [getTile_updTile, if_pos rfl]
theorem getQueue_updQueue_same (i : Nat) (f : Queue → Queue) (s : State) : getQueue (updQueue i f s) i = f (getQueue s i) := by
  rw [getQueue_updQueue, if_pos rfl]

/-! ### Another part -/

@[simp] theorem getTile_updQueue (q : Nat) (f : Queue → Queue) (s : State) (t : Nat) : getTile (updQueue q f s) t = getTile s t := rfl
@[simp] theorem getTile_updFunc (n : Nat) (f : Func → Func) (s : State) (t : Nat) : getTile (updFunc n f s) t = getTile s t := rfl
@[simp] theorem getTile_updChan (c : Nat) (f : Channel → Channel) (s : State) (t : Nat) : getTile (updChan c f s) t = getTile s t := rfl
@[simp] theorem getTile_updStack (k : Nat) (f : Stack → Stack) (s : State) (t : Nat) : getTile (updStack k f s) t = getTile s t := rfl
@[simp] theorem getTile_updSub (k : Nat) (f : Sub → Sub) (s : State) (t : Nat) : getTile (updSub k f s) t = getTile s t := rfl
@[simp] theorem getTile_updPort (k : Nat) (f : Port → Port) (s : State) (t : Nat) : getTile (updPort k f s) t = getTile s t := rfl
@[simp] theorem getTile_updFlow (p : Nat) (f : Flow → Flow) (s : State) (t : Nat) : getTile (updFlow p f s) t = getTile s t := by unfold updFlow; split <;> rfl
@[simp] theorem getTile_updPart (p : Nat) (f : Part → Part) (s : State) (t : Nat) : getTile (updPart p f s) t = getTile s t := by unfold updPart; split <;> rfl
@[simp] theorem getTile_updFlight (n : Nat) (f : Flight → Flight) (s : State) (t : Nat) : getTile (updFlight n f s) t = getTile s t := rfl
@[simp] theorem getTile_dropFlight (n : Nat) (s : State) (t : Nat) : getTile (dropFlight n s) t = getTile s t := rfl
@[simp] theorem getTile_updTable (t : Nat) (f : Table → Table) (s : State) (t' : Nat) : getTile (updTable t f s) t' = getTile s t' := by unfold updTable; split <;> rfl
@[simp] theorem getTile_updGroup (f : Group → Group) (s : State) (t : Nat) : getTile (updGroup f s) t = getTile s t := rfl
@[simp] theorem getTile_updInteg (f : Integ → Integ) (s : State) (t : Nat) : getTile (updInteg f s) t = getTile s t := rfl
@[simp] theorem getTile_updTele (f : Tele → Tele) (s : State) (t : Nat) : getTile (updTele f s) t = getTile s t := rfl
@[simp] theorem getTile_updMem (f : Mem → Mem) (s : State) (t : Nat) : getTile (updMem f s) t = getTile s t := rfl
@[simp] theorem getTile_updTables (f : Tables → Tables) (s : State) (t : Nat) : getTile (updTables f s) t = getTile s t := rfl
@[simp] theorem getTile_updSched (f : Sched → Sched) (s : State) (t : Nat) : getTile (updSched f s) t = getTile s t := rfl
@[simp] theorem getTile_updClock (f : Clock → Clock) (s : State) (t : Nat) : getTile (updClock f s) t = getTile s t := rfl
@[simp] theorem getTile_updBeat (f : Beat → Beat) (s : State) (t : Nat) : getTile (updBeat f s) t = getTile s t := rfl
@[simp] theorem getTile_updPower (f : Power → Power) (s : State) (t : Nat) : getTile (updPower f s) t = getTile s t := rfl
@[simp] theorem getTile_updSec (f : Sec → Sec) (s : State) (t : Nat) : getTile (updSec f s) t = getTile s t := rfl
@[simp] theorem getTile_updLink (f : Link → Link) (s : State) (t : Nat) : getTile (updLink f s) t = getTile s t := rfl
@[simp] theorem getTile_updNet (f : Net → Net) (s : State) (t : Nat) : getTile (updNet f s) t = getTile s t := rfl
@[simp] theorem getTile_updOut (f : Out → Out) (s : State) (t : Nat) : getTile (updOut f s) t = getTile s t := rfl
@[simp] theorem getTile_updClover (f : Clover → Clover) (s : State) (t : Nat) : getTile (updClover f s) t = getTile s t := rfl
@[simp] theorem getQueue_updTile (t : Nat) (f : Tile → Tile) (s : State) (q : Nat) : getQueue (updTile t f s) q = getQueue s q := rfl
@[simp] theorem getQueue_updFunc (n : Nat) (f : Func → Func) (s : State) (q : Nat) : getQueue (updFunc n f s) q = getQueue s q := rfl
@[simp] theorem getQueue_updChan (c : Nat) (f : Channel → Channel) (s : State) (q : Nat) : getQueue (updChan c f s) q = getQueue s q := rfl
@[simp] theorem getQueue_updStack (k : Nat) (f : Stack → Stack) (s : State) (q : Nat) : getQueue (updStack k f s) q = getQueue s q := rfl
@[simp] theorem getQueue_updSub (k : Nat) (f : Sub → Sub) (s : State) (q : Nat) : getQueue (updSub k f s) q = getQueue s q := rfl
@[simp] theorem getQueue_updPort (k : Nat) (f : Port → Port) (s : State) (q : Nat) : getQueue (updPort k f s) q = getQueue s q := rfl
@[simp] theorem getQueue_updFlow (p : Nat) (f : Flow → Flow) (s : State) (q : Nat) : getQueue (updFlow p f s) q = getQueue s q := by unfold updFlow; split <;> rfl
@[simp] theorem getQueue_updPart (p : Nat) (f : Part → Part) (s : State) (q : Nat) : getQueue (updPart p f s) q = getQueue s q := by unfold updPart; split <;> rfl
@[simp] theorem getQueue_updFlight (n : Nat) (f : Flight → Flight) (s : State) (q : Nat) : getQueue (updFlight n f s) q = getQueue s q := rfl
@[simp] theorem getQueue_dropFlight (n : Nat) (s : State) (q : Nat) : getQueue (dropFlight n s) q = getQueue s q := rfl
@[simp] theorem getQueue_updTable (t : Nat) (f : Table → Table) (s : State) (q : Nat) : getQueue (updTable t f s) q = getQueue s q := by unfold updTable; split <;> rfl
@[simp] theorem getQueue_updGroup (f : Group → Group) (s : State) (q : Nat) : getQueue (updGroup f s) q = getQueue s q := rfl
@[simp] theorem getQueue_updInteg (f : Integ → Integ) (s : State) (q : Nat) : getQueue (updInteg f s) q = getQueue s q := rfl
@[simp] theorem getQueue_updTele (f : Tele → Tele) (s : State) (q : Nat) : getQueue (updTele f s) q = getQueue s q := rfl
@[simp] theorem getQueue_updMem (f : Mem → Mem) (s : State) (q : Nat) : getQueue (updMem f s) q = getQueue s q := rfl
@[simp] theorem getQueue_updTables (f : Tables → Tables) (s : State) (q : Nat) : getQueue (updTables f s) q = getQueue s q := rfl
@[simp] theorem getQueue_updSched (f : Sched → Sched) (s : State) (q : Nat) : getQueue (updSched f s) q = getQueue s q := rfl
@[simp] theorem getQueue_updClock (f : Clock → Clock) (s : State) (q : Nat) : getQueue (updClock f s) q = getQueue s q := rfl
@[simp] theorem getQueue_updBeat (f : Beat → Beat) (s : State) (q : Nat) : getQueue (updBeat f s) q = getQueue s q := rfl
@[simp] theorem getQueue_updPower (f : Power → Power) (s : State) (q : Nat) : getQueue (updPower f s) q = getQueue s q := rfl
@[simp] theorem getQueue_updSec (f : Sec → Sec) (s : State) (q : Nat) : getQueue (updSec f s) q = getQueue s q := rfl
@[simp] theorem getQueue_updLink (f : Link → Link) (s : State) (q : Nat) : getQueue (updLink f s) q = getQueue s q := rfl
@[simp] theorem getQueue_updNet (f : Net → Net) (s : State) (q : Nat) : getQueue (updNet f s) q = getQueue s q := rfl
@[simp] theorem getQueue_updOut (f : Out → Out) (s : State) (q : Nat) : getQueue (updOut f s) q = getQueue s q := rfl
@[simp] theorem getQueue_updClover (f : Clover → Clover) (s : State) (q : Nat) : getQueue (updClover f s) q = getQueue s q := rfl
@[simp] theorem getFunc_updTile (t : Nat) (f : Tile → Tile) (s : State) (n : Nat) : getFunc (updTile t f s) n = getFunc s n := rfl
@[simp] theorem getFunc_updQueue (q : Nat) (f : Queue → Queue) (s : State) (n : Nat) : getFunc (updQueue q f s) n = getFunc s n := rfl
@[simp] theorem getFunc_updChan (c : Nat) (f : Channel → Channel) (s : State) (n : Nat) : getFunc (updChan c f s) n = getFunc s n := rfl
@[simp] theorem getFunc_updStack (k : Nat) (f : Stack → Stack) (s : State) (n : Nat) : getFunc (updStack k f s) n = getFunc s n := rfl
@[simp] theorem getFunc_updSub (k : Nat) (f : Sub → Sub) (s : State) (n : Nat) : getFunc (updSub k f s) n = getFunc s n := rfl
@[simp] theorem getFunc_updPort (k : Nat) (f : Port → Port) (s : State) (n : Nat) : getFunc (updPort k f s) n = getFunc s n := rfl
@[simp] theorem getFunc_updFlow (p : Nat) (f : Flow → Flow) (s : State) (n : Nat) : getFunc (updFlow p f s) n = getFunc s n := by unfold updFlow; split <;> rfl
@[simp] theorem getFunc_updPart (p : Nat) (f : Part → Part) (s : State) (n : Nat) : getFunc (updPart p f s) n = getFunc s n := by unfold updPart; split <;> rfl
@[simp] theorem getFunc_updFlight (n : Nat) (f : Flight → Flight) (s : State) (n' : Nat) : getFunc (updFlight n f s) n' = getFunc s n' := rfl
@[simp] theorem getFunc_dropFlight (n : Nat) (s : State) (n' : Nat) : getFunc (dropFlight n s) n' = getFunc s n' := rfl
@[simp] theorem getFunc_updTable (t : Nat) (f : Table → Table) (s : State) (n : Nat) : getFunc (updTable t f s) n = getFunc s n := by unfold updTable; split <;> rfl
@[simp] theorem getFunc_updGroup (f : Group → Group) (s : State) (n : Nat) : getFunc (updGroup f s) n = getFunc s n := rfl
@[simp] theorem getFunc_updInteg (f : Integ → Integ) (s : State) (n : Nat) : getFunc (updInteg f s) n = getFunc s n := rfl
@[simp] theorem getFunc_updTele (f : Tele → Tele) (s : State) (n : Nat) : getFunc (updTele f s) n = getFunc s n := rfl
@[simp] theorem getFunc_updMem (f : Mem → Mem) (s : State) (n : Nat) : getFunc (updMem f s) n = getFunc s n := rfl
@[simp] theorem getFunc_updTables (f : Tables → Tables) (s : State) (n : Nat) : getFunc (updTables f s) n = getFunc s n := rfl
@[simp] theorem getFunc_updSched (f : Sched → Sched) (s : State) (n : Nat) : getFunc (updSched f s) n = getFunc s n := rfl
@[simp] theorem getFunc_updClock (f : Clock → Clock) (s : State) (n : Nat) : getFunc (updClock f s) n = getFunc s n := rfl
@[simp] theorem getFunc_updBeat (f : Beat → Beat) (s : State) (n : Nat) : getFunc (updBeat f s) n = getFunc s n := rfl
@[simp] theorem getFunc_updPower (f : Power → Power) (s : State) (n : Nat) : getFunc (updPower f s) n = getFunc s n := rfl
@[simp] theorem getFunc_updSec (f : Sec → Sec) (s : State) (n : Nat) : getFunc (updSec f s) n = getFunc s n := rfl
@[simp] theorem getFunc_updNet (f : Net → Net) (s : State) (n : Nat) : getFunc (updNet f s) n = getFunc s n := rfl
@[simp] theorem getFunc_updOut (f : Out → Out) (s : State) (n : Nat) : getFunc (updOut f s) n = getFunc s n := rfl
@[simp] theorem getFunc_updClover (f : Clover → Clover) (s : State) (n : Nat) : getFunc (updClover f s) n = getFunc s n := rfl
@[simp] theorem getChan_updTile (t : Nat) (f : Tile → Tile) (s : State) (c : Nat) : getChan (updTile t f s) c = getChan s c := rfl
@[simp] theorem getChan_updQueue (q : Nat) (f : Queue → Queue) (s : State) (c : Nat) : getChan (updQueue q f s) c = getChan s c := rfl
@[simp] theorem getChan_updFunc (n : Nat) (f : Func → Func) (s : State) (c : Nat) : getChan (updFunc n f s) c = getChan s c := rfl
@[simp] theorem getChan_updStack (k : Nat) (f : Stack → Stack) (s : State) (c : Nat) : getChan (updStack k f s) c = getChan s c := rfl
@[simp] theorem getChan_updSub (k : Nat) (f : Sub → Sub) (s : State) (c : Nat) : getChan (updSub k f s) c = getChan s c := rfl
@[simp] theorem getChan_updPort (k : Nat) (f : Port → Port) (s : State) (c : Nat) : getChan (updPort k f s) c = getChan s c := rfl
@[simp] theorem getChan_updFlow (p : Nat) (f : Flow → Flow) (s : State) (c : Nat) : getChan (updFlow p f s) c = getChan s c := by unfold updFlow; split <;> rfl
@[simp] theorem getChan_updPart (p : Nat) (f : Part → Part) (s : State) (c : Nat) : getChan (updPart p f s) c = getChan s c := by unfold updPart; split <;> rfl
@[simp] theorem getChan_updFlight (n : Nat) (f : Flight → Flight) (s : State) (c : Nat) : getChan (updFlight n f s) c = getChan s c := rfl
@[simp] theorem getChan_dropFlight (n : Nat) (s : State) (c : Nat) : getChan (dropFlight n s) c = getChan s c := rfl
@[simp] theorem getChan_updTable (t : Nat) (f : Table → Table) (s : State) (c : Nat) : getChan (updTable t f s) c = getChan s c := by unfold updTable; split <;> rfl
@[simp] theorem getChan_updGroup (f : Group → Group) (s : State) (c : Nat) : getChan (updGroup f s) c = getChan s c := rfl
@[simp] theorem getChan_updInteg (f : Integ → Integ) (s : State) (c : Nat) : getChan (updInteg f s) c = getChan s c := rfl
@[simp] theorem getChan_updTele (f : Tele → Tele) (s : State) (c : Nat) : getChan (updTele f s) c = getChan s c := rfl
@[simp] theorem getChan_updTables (f : Tables → Tables) (s : State) (c : Nat) : getChan (updTables f s) c = getChan s c := rfl
@[simp] theorem getChan_updSched (f : Sched → Sched) (s : State) (c : Nat) : getChan (updSched f s) c = getChan s c := rfl
@[simp] theorem getChan_updClock (f : Clock → Clock) (s : State) (c : Nat) : getChan (updClock f s) c = getChan s c := rfl
@[simp] theorem getChan_updBeat (f : Beat → Beat) (s : State) (c : Nat) : getChan (updBeat f s) c = getChan s c := rfl
@[simp] theorem getChan_updPower (f : Power → Power) (s : State) (c : Nat) : getChan (updPower f s) c = getChan s c := rfl
@[simp] theorem getChan_updSec (f : Sec → Sec) (s : State) (c : Nat) : getChan (updSec f s) c = getChan s c := rfl
@[simp] theorem getChan_updLink (f : Link → Link) (s : State) (c : Nat) : getChan (updLink f s) c = getChan s c := rfl
@[simp] theorem getChan_updNet (f : Net → Net) (s : State) (c : Nat) : getChan (updNet f s) c = getChan s c := rfl
@[simp] theorem getChan_updOut (f : Out → Out) (s : State) (c : Nat) : getChan (updOut f s) c = getChan s c := rfl
@[simp] theorem getChan_updClover (f : Clover → Clover) (s : State) (c : Nat) : getChan (updClover f s) c = getChan s c := rfl
@[simp] theorem getStack_updTile (t : Nat) (f : Tile → Tile) (s : State) (k : Nat) : getStack (updTile t f s) k = getStack s k := rfl
@[simp] theorem getStack_updQueue (q : Nat) (f : Queue → Queue) (s : State) (k : Nat) : getStack (updQueue q f s) k = getStack s k := rfl
@[simp] theorem getStack_updFunc (n : Nat) (f : Func → Func) (s : State) (k : Nat) : getStack (updFunc n f s) k = getStack s k := rfl
@[simp] theorem getStack_updChan (c : Nat) (f : Channel → Channel) (s : State) (k : Nat) : getStack (updChan c f s) k = getStack s k := rfl
@[simp] theorem getStack_updSub (k : Nat) (f : Sub → Sub) (s : State) (k' : Nat) : getStack (updSub k f s) k' = getStack s k' := rfl
@[simp] theorem getStack_updPort (k : Nat) (f : Port → Port) (s : State) (k' : Nat) : getStack (updPort k f s) k' = getStack s k' := rfl
@[simp] theorem getStack_updFlow (p : Nat) (f : Flow → Flow) (s : State) (k : Nat) : getStack (updFlow p f s) k = getStack s k := by unfold updFlow; split <;> rfl
@[simp] theorem getStack_updPart (p : Nat) (f : Part → Part) (s : State) (k : Nat) : getStack (updPart p f s) k = getStack s k := by unfold updPart; split <;> rfl
@[simp] theorem getStack_updFlight (n : Nat) (f : Flight → Flight) (s : State) (k : Nat) : getStack (updFlight n f s) k = getStack s k := rfl
@[simp] theorem getStack_dropFlight (n : Nat) (s : State) (k : Nat) : getStack (dropFlight n s) k = getStack s k := rfl
@[simp] theorem getStack_updTable (t : Nat) (f : Table → Table) (s : State) (k : Nat) : getStack (updTable t f s) k = getStack s k := by unfold updTable; split <;> rfl
@[simp] theorem getStack_updGroup (f : Group → Group) (s : State) (k : Nat) : getStack (updGroup f s) k = getStack s k := rfl
@[simp] theorem getStack_updInteg (f : Integ → Integ) (s : State) (k : Nat) : getStack (updInteg f s) k = getStack s k := rfl
@[simp] theorem getStack_updTele (f : Tele → Tele) (s : State) (k : Nat) : getStack (updTele f s) k = getStack s k := rfl
@[simp] theorem getStack_updTables (f : Tables → Tables) (s : State) (k : Nat) : getStack (updTables f s) k = getStack s k := rfl
@[simp] theorem getStack_updSched (f : Sched → Sched) (s : State) (k : Nat) : getStack (updSched f s) k = getStack s k := rfl
@[simp] theorem getStack_updClock (f : Clock → Clock) (s : State) (k : Nat) : getStack (updClock f s) k = getStack s k := rfl
@[simp] theorem getStack_updBeat (f : Beat → Beat) (s : State) (k : Nat) : getStack (updBeat f s) k = getStack s k := rfl
@[simp] theorem getStack_updPower (f : Power → Power) (s : State) (k : Nat) : getStack (updPower f s) k = getStack s k := rfl
@[simp] theorem getStack_updSec (f : Sec → Sec) (s : State) (k : Nat) : getStack (updSec f s) k = getStack s k := rfl
@[simp] theorem getStack_updLink (f : Link → Link) (s : State) (k : Nat) : getStack (updLink f s) k = getStack s k := rfl
@[simp] theorem getStack_updNet (f : Net → Net) (s : State) (k : Nat) : getStack (updNet f s) k = getStack s k := rfl
@[simp] theorem getStack_updOut (f : Out → Out) (s : State) (k : Nat) : getStack (updOut f s) k = getStack s k := rfl
@[simp] theorem getStack_updClover (f : Clover → Clover) (s : State) (k : Nat) : getStack (updClover f s) k = getStack s k := rfl
@[simp] theorem getSub_updTile (t : Nat) (f : Tile → Tile) (s : State) (k : Nat) : getSub (updTile t f s) k = getSub s k := rfl
@[simp] theorem getSub_updQueue (q : Nat) (f : Queue → Queue) (s : State) (k : Nat) : getSub (updQueue q f s) k = getSub s k := rfl
@[simp] theorem getSub_updFunc (n : Nat) (f : Func → Func) (s : State) (k : Nat) : getSub (updFunc n f s) k = getSub s k := rfl
@[simp] theorem getSub_updChan (c : Nat) (f : Channel → Channel) (s : State) (k : Nat) : getSub (updChan c f s) k = getSub s k := rfl
@[simp] theorem getSub_updStack (k : Nat) (f : Stack → Stack) (s : State) (k' : Nat) : getSub (updStack k f s) k' = getSub s k' := rfl
@[simp] theorem getSub_updPort (k : Nat) (f : Port → Port) (s : State) (k' : Nat) : getSub (updPort k f s) k' = getSub s k' := rfl
@[simp] theorem getSub_updFlow (p : Nat) (f : Flow → Flow) (s : State) (k : Nat) : getSub (updFlow p f s) k = getSub s k := by unfold updFlow; split <;> rfl
@[simp] theorem getSub_updPart (p : Nat) (f : Part → Part) (s : State) (k : Nat) : getSub (updPart p f s) k = getSub s k := by unfold updPart; split <;> rfl
@[simp] theorem getSub_updFlight (n : Nat) (f : Flight → Flight) (s : State) (k : Nat) : getSub (updFlight n f s) k = getSub s k := rfl
@[simp] theorem getSub_dropFlight (n : Nat) (s : State) (k : Nat) : getSub (dropFlight n s) k = getSub s k := rfl
@[simp] theorem getSub_updTable (t : Nat) (f : Table → Table) (s : State) (k : Nat) : getSub (updTable t f s) k = getSub s k := by unfold updTable; split <;> rfl
@[simp] theorem getSub_updGroup (f : Group → Group) (s : State) (k : Nat) : getSub (updGroup f s) k = getSub s k := rfl
@[simp] theorem getSub_updInteg (f : Integ → Integ) (s : State) (k : Nat) : getSub (updInteg f s) k = getSub s k := rfl
@[simp] theorem getSub_updTele (f : Tele → Tele) (s : State) (k : Nat) : getSub (updTele f s) k = getSub s k := rfl
@[simp] theorem getSub_updMem (f : Mem → Mem) (s : State) (k : Nat) : getSub (updMem f s) k = getSub s k := rfl
@[simp] theorem getSub_updTables (f : Tables → Tables) (s : State) (k : Nat) : getSub (updTables f s) k = getSub s k := rfl
@[simp] theorem getSub_updSched (f : Sched → Sched) (s : State) (k : Nat) : getSub (updSched f s) k = getSub s k := rfl
@[simp] theorem getSub_updClock (f : Clock → Clock) (s : State) (k : Nat) : getSub (updClock f s) k = getSub s k := rfl
@[simp] theorem getSub_updBeat (f : Beat → Beat) (s : State) (k : Nat) : getSub (updBeat f s) k = getSub s k := rfl
@[simp] theorem getSub_updPower (f : Power → Power) (s : State) (k : Nat) : getSub (updPower f s) k = getSub s k := rfl
@[simp] theorem getSub_updSec (f : Sec → Sec) (s : State) (k : Nat) : getSub (updSec f s) k = getSub s k := rfl
@[simp] theorem getSub_updLink (f : Link → Link) (s : State) (k : Nat) : getSub (updLink f s) k = getSub s k := rfl
@[simp] theorem getSub_updOut (f : Out → Out) (s : State) (k : Nat) : getSub (updOut f s) k = getSub s k := rfl
@[simp] theorem getSub_updClover (f : Clover → Clover) (s : State) (k : Nat) : getSub (updClover f s) k = getSub s k := rfl
@[simp] theorem getPort_updTile (t : Nat) (f : Tile → Tile) (s : State) (k : Nat) : getPort (updTile t f s) k = getPort s k := rfl
@[simp] theorem getPort_updQueue (q : Nat) (f : Queue → Queue) (s : State) (k : Nat) : getPort (updQueue q f s) k = getPort s k := rfl
@[simp] theorem getPort_updFunc (n : Nat) (f : Func → Func) (s : State) (k : Nat) : getPort (updFunc n f s) k = getPort s k := rfl
@[simp] theorem getPort_updChan (c : Nat) (f : Channel → Channel) (s : State) (k : Nat) : getPort (updChan c f s) k = getPort s k := rfl
@[simp] theorem getPort_updStack (k : Nat) (f : Stack → Stack) (s : State) (k' : Nat) : getPort (updStack k f s) k' = getPort s k' := rfl
@[simp] theorem getPort_updSub (k : Nat) (f : Sub → Sub) (s : State) (k' : Nat) : getPort (updSub k f s) k' = getPort s k' := rfl
@[simp] theorem getPort_updFlow (p : Nat) (f : Flow → Flow) (s : State) (k : Nat) : getPort (updFlow p f s) k = getPort s k := by unfold updFlow; split <;> rfl
@[simp] theorem getPort_updPart (p : Nat) (f : Part → Part) (s : State) (k : Nat) : getPort (updPart p f s) k = getPort s k := by unfold updPart; split <;> rfl
@[simp] theorem getPort_updFlight (n : Nat) (f : Flight → Flight) (s : State) (k : Nat) : getPort (updFlight n f s) k = getPort s k := rfl
@[simp] theorem getPort_dropFlight (n : Nat) (s : State) (k : Nat) : getPort (dropFlight n s) k = getPort s k := rfl
@[simp] theorem getPort_updTable (t : Nat) (f : Table → Table) (s : State) (k : Nat) : getPort (updTable t f s) k = getPort s k := by unfold updTable; split <;> rfl
@[simp] theorem getPort_updGroup (f : Group → Group) (s : State) (k : Nat) : getPort (updGroup f s) k = getPort s k := rfl
@[simp] theorem getPort_updInteg (f : Integ → Integ) (s : State) (k : Nat) : getPort (updInteg f s) k = getPort s k := rfl
@[simp] theorem getPort_updTele (f : Tele → Tele) (s : State) (k : Nat) : getPort (updTele f s) k = getPort s k := rfl
@[simp] theorem getPort_updMem (f : Mem → Mem) (s : State) (k : Nat) : getPort (updMem f s) k = getPort s k := rfl
@[simp] theorem getPort_updTables (f : Tables → Tables) (s : State) (k : Nat) : getPort (updTables f s) k = getPort s k := rfl
@[simp] theorem getPort_updSched (f : Sched → Sched) (s : State) (k : Nat) : getPort (updSched f s) k = getPort s k := rfl
@[simp] theorem getPort_updClock (f : Clock → Clock) (s : State) (k : Nat) : getPort (updClock f s) k = getPort s k := rfl
@[simp] theorem getPort_updBeat (f : Beat → Beat) (s : State) (k : Nat) : getPort (updBeat f s) k = getPort s k := rfl
@[simp] theorem getPort_updPower (f : Power → Power) (s : State) (k : Nat) : getPort (updPower f s) k = getPort s k := rfl
@[simp] theorem getPort_updSec (f : Sec → Sec) (s : State) (k : Nat) : getPort (updSec f s) k = getPort s k := rfl
@[simp] theorem getPort_updLink (f : Link → Link) (s : State) (k : Nat) : getPort (updLink f s) k = getPort s k := rfl
@[simp] theorem getPort_updOut (f : Out → Out) (s : State) (k : Nat) : getPort (updOut f s) k = getPort s k := rfl
@[simp] theorem getPort_updClover (f : Clover → Clover) (s : State) (k : Nat) : getPort (updClover f s) k = getPort s k := rfl
@[simp] theorem findFlow_updTile (t : Nat) (f : Tile → Tile) (s : State) (p : Nat) : findFlow (updTile t f s) p = findFlow s p := rfl
@[simp] theorem findFlow_updQueue (q : Nat) (f : Queue → Queue) (s : State) (p : Nat) : findFlow (updQueue q f s) p = findFlow s p := rfl
@[simp] theorem findFlow_updFunc (n : Nat) (f : Func → Func) (s : State) (p : Nat) : findFlow (updFunc n f s) p = findFlow s p := rfl
@[simp] theorem findFlow_updChan (c : Nat) (f : Channel → Channel) (s : State) (p : Nat) : findFlow (updChan c f s) p = findFlow s p := rfl
@[simp] theorem findFlow_updStack (k : Nat) (f : Stack → Stack) (s : State) (p : Nat) : findFlow (updStack k f s) p = findFlow s p := rfl
@[simp] theorem findFlow_updSub (k : Nat) (f : Sub → Sub) (s : State) (p : Nat) : findFlow (updSub k f s) p = findFlow s p := rfl
@[simp] theorem findFlow_updPort (k : Nat) (f : Port → Port) (s : State) (p : Nat) : findFlow (updPort k f s) p = findFlow s p := rfl
@[simp] theorem findFlow_updPart (p : Nat) (f : Part → Part) (s : State) (p' : Nat) : findFlow (updPart p f s) p' = findFlow s p' := by unfold updPart; split <;> rfl
@[simp] theorem findFlow_updFlight (n : Nat) (f : Flight → Flight) (s : State) (p : Nat) : findFlow (updFlight n f s) p = findFlow s p := rfl
@[simp] theorem findFlow_dropFlight (n : Nat) (s : State) (p : Nat) : findFlow (dropFlight n s) p = findFlow s p := rfl
@[simp] theorem findFlow_updTable (t : Nat) (f : Table → Table) (s : State) (p : Nat) : findFlow (updTable t f s) p = findFlow s p := by unfold updTable; split <;> rfl
@[simp] theorem findFlow_updGroup (f : Group → Group) (s : State) (p : Nat) : findFlow (updGroup f s) p = findFlow s p := rfl
@[simp] theorem findFlow_updInteg (f : Integ → Integ) (s : State) (p : Nat) : findFlow (updInteg f s) p = findFlow s p := rfl
@[simp] theorem findFlow_updTele (f : Tele → Tele) (s : State) (p : Nat) : findFlow (updTele f s) p = findFlow s p := rfl
@[simp] theorem findFlow_updMem (f : Mem → Mem) (s : State) (p : Nat) : findFlow (updMem f s) p = findFlow s p := rfl
@[simp] theorem findFlow_updTables (f : Tables → Tables) (s : State) (p : Nat) : findFlow (updTables f s) p = findFlow s p := rfl
@[simp] theorem findFlow_updSched (f : Sched → Sched) (s : State) (p : Nat) : findFlow (updSched f s) p = findFlow s p := rfl
@[simp] theorem findFlow_updClock (f : Clock → Clock) (s : State) (p : Nat) : findFlow (updClock f s) p = findFlow s p := rfl
@[simp] theorem findFlow_updBeat (f : Beat → Beat) (s : State) (p : Nat) : findFlow (updBeat f s) p = findFlow s p := rfl
@[simp] theorem findFlow_updPower (f : Power → Power) (s : State) (p : Nat) : findFlow (updPower f s) p = findFlow s p := rfl
@[simp] theorem findFlow_updSec (f : Sec → Sec) (s : State) (p : Nat) : findFlow (updSec f s) p = findFlow s p := rfl
@[simp] theorem findFlow_updLink (f : Link → Link) (s : State) (p : Nat) : findFlow (updLink f s) p = findFlow s p := rfl
@[simp] theorem findFlow_updOut (f : Out → Out) (s : State) (p : Nat) : findFlow (updOut f s) p = findFlow s p := rfl
@[simp] theorem findFlow_updClover (f : Clover → Clover) (s : State) (p : Nat) : findFlow (updClover f s) p = findFlow s p := rfl
@[simp] theorem findPart_updTile (t : Nat) (f : Tile → Tile) (s : State) (p : Nat) : findPart (updTile t f s) p = findPart s p := rfl
@[simp] theorem findPart_updQueue (q : Nat) (f : Queue → Queue) (s : State) (p : Nat) : findPart (updQueue q f s) p = findPart s p := rfl
@[simp] theorem findPart_updFunc (n : Nat) (f : Func → Func) (s : State) (p : Nat) : findPart (updFunc n f s) p = findPart s p := rfl
@[simp] theorem findPart_updChan (c : Nat) (f : Channel → Channel) (s : State) (p : Nat) : findPart (updChan c f s) p = findPart s p := rfl
@[simp] theorem findPart_updStack (k : Nat) (f : Stack → Stack) (s : State) (p : Nat) : findPart (updStack k f s) p = findPart s p := rfl
@[simp] theorem findPart_updSub (k : Nat) (f : Sub → Sub) (s : State) (p : Nat) : findPart (updSub k f s) p = findPart s p := rfl
@[simp] theorem findPart_updPort (k : Nat) (f : Port → Port) (s : State) (p : Nat) : findPart (updPort k f s) p = findPart s p := rfl
@[simp] theorem findPart_updFlow (p : Nat) (f : Flow → Flow) (s : State) (p' : Nat) : findPart (updFlow p f s) p' = findPart s p' := by unfold updFlow; split <;> rfl
@[simp] theorem findPart_updFlight (n : Nat) (f : Flight → Flight) (s : State) (p : Nat) : findPart (updFlight n f s) p = findPart s p := rfl
@[simp] theorem findPart_dropFlight (n : Nat) (s : State) (p : Nat) : findPart (dropFlight n s) p = findPart s p := rfl
@[simp] theorem findPart_updTable (t : Nat) (f : Table → Table) (s : State) (p : Nat) : findPart (updTable t f s) p = findPart s p := by unfold updTable; split <;> rfl
@[simp] theorem findPart_updGroup (f : Group → Group) (s : State) (p : Nat) : findPart (updGroup f s) p = findPart s p := rfl
@[simp] theorem findPart_updInteg (f : Integ → Integ) (s : State) (p : Nat) : findPart (updInteg f s) p = findPart s p := rfl
@[simp] theorem findPart_updTele (f : Tele → Tele) (s : State) (p : Nat) : findPart (updTele f s) p = findPart s p := rfl
@[simp] theorem findPart_updMem (f : Mem → Mem) (s : State) (p : Nat) : findPart (updMem f s) p = findPart s p := rfl
@[simp] theorem findPart_updTables (f : Tables → Tables) (s : State) (p : Nat) : findPart (updTables f s) p = findPart s p := rfl
@[simp] theorem findPart_updClock (f : Clock → Clock) (s : State) (p : Nat) : findPart (updClock f s) p = findPart s p := rfl
@[simp] theorem findPart_updBeat (f : Beat → Beat) (s : State) (p : Nat) : findPart (updBeat f s) p = findPart s p := rfl
@[simp] theorem findPart_updPower (f : Power → Power) (s : State) (p : Nat) : findPart (updPower f s) p = findPart s p := rfl
@[simp] theorem findPart_updSec (f : Sec → Sec) (s : State) (p : Nat) : findPart (updSec f s) p = findPart s p := rfl
@[simp] theorem findPart_updLink (f : Link → Link) (s : State) (p : Nat) : findPart (updLink f s) p = findPart s p := rfl
@[simp] theorem findPart_updNet (f : Net → Net) (s : State) (p : Nat) : findPart (updNet f s) p = findPart s p := rfl
@[simp] theorem findPart_updOut (f : Out → Out) (s : State) (p : Nat) : findPart (updOut f s) p = findPart s p := rfl
@[simp] theorem findPart_updClover (f : Clover → Clover) (s : State) (p : Nat) : findPart (updClover f s) p = findPart s p := rfl
@[simp] theorem findFlight_updTile (t : Nat) (f : Tile → Tile) (s : State) (n : Nat) : findFlight (updTile t f s) n = findFlight s n := rfl
@[simp] theorem findFlight_updQueue (q : Nat) (f : Queue → Queue) (s : State) (n : Nat) : findFlight (updQueue q f s) n = findFlight s n := rfl
@[simp] theorem findFlight_updFunc (n : Nat) (f : Func → Func) (s : State) (n' : Nat) : findFlight (updFunc n f s) n' = findFlight s n' := rfl
@[simp] theorem findFlight_updChan (c : Nat) (f : Channel → Channel) (s : State) (n : Nat) : findFlight (updChan c f s) n = findFlight s n := rfl
@[simp] theorem findFlight_updStack (k : Nat) (f : Stack → Stack) (s : State) (n : Nat) : findFlight (updStack k f s) n = findFlight s n := rfl
@[simp] theorem findFlight_updSub (k : Nat) (f : Sub → Sub) (s : State) (n : Nat) : findFlight (updSub k f s) n = findFlight s n := rfl
@[simp] theorem findFlight_updPort (k : Nat) (f : Port → Port) (s : State) (n : Nat) : findFlight (updPort k f s) n = findFlight s n := rfl
@[simp] theorem findFlight_updFlow (p : Nat) (f : Flow → Flow) (s : State) (n : Nat) : findFlight (updFlow p f s) n = findFlight s n := by unfold updFlow; split <;> rfl
@[simp] theorem findFlight_updPart (p : Nat) (f : Part → Part) (s : State) (n : Nat) : findFlight (updPart p f s) n = findFlight s n := by unfold updPart; split <;> rfl
@[simp] theorem findFlight_updTable (t : Nat) (f : Table → Table) (s : State) (n : Nat) : findFlight (updTable t f s) n = findFlight s n := by unfold updTable; split <;> rfl
@[simp] theorem findFlight_updGroup (f : Group → Group) (s : State) (n : Nat) : findFlight (updGroup f s) n = findFlight s n := rfl
@[simp] theorem findFlight_updInteg (f : Integ → Integ) (s : State) (n : Nat) : findFlight (updInteg f s) n = findFlight s n := rfl
@[simp] theorem findFlight_updTele (f : Tele → Tele) (s : State) (n : Nat) : findFlight (updTele f s) n = findFlight s n := rfl
@[simp] theorem findFlight_updMem (f : Mem → Mem) (s : State) (n : Nat) : findFlight (updMem f s) n = findFlight s n := rfl
@[simp] theorem findFlight_updTables (f : Tables → Tables) (s : State) (n : Nat) : findFlight (updTables f s) n = findFlight s n := rfl
@[simp] theorem findFlight_updSched (f : Sched → Sched) (s : State) (n : Nat) : findFlight (updSched f s) n = findFlight s n := rfl
@[simp] theorem findFlight_updClock (f : Clock → Clock) (s : State) (n : Nat) : findFlight (updClock f s) n = findFlight s n := rfl
@[simp] theorem findFlight_updBeat (f : Beat → Beat) (s : State) (n : Nat) : findFlight (updBeat f s) n = findFlight s n := rfl
@[simp] theorem findFlight_updPower (f : Power → Power) (s : State) (n : Nat) : findFlight (updPower f s) n = findFlight s n := rfl
@[simp] theorem findFlight_updSec (f : Sec → Sec) (s : State) (n : Nat) : findFlight (updSec f s) n = findFlight s n := rfl
@[simp] theorem findFlight_updLink (f : Link → Link) (s : State) (n : Nat) : findFlight (updLink f s) n = findFlight s n := rfl
@[simp] theorem findFlight_updNet (f : Net → Net) (s : State) (n : Nat) : findFlight (updNet f s) n = findFlight s n := rfl
@[simp] theorem findFlight_updOut (f : Out → Out) (s : State) (n : Nat) : findFlight (updOut f s) n = findFlight s n := rfl
@[simp] theorem findFlight_updClover (f : Clover → Clover) (s : State) (n : Nat) : findFlight (updClover f s) n = findFlight s n := rfl
@[simp] theorem findTable_updTile (t : Nat) (f : Tile → Tile) (s : State) (t' : Nat) : findTable (updTile t f s) t' = findTable s t' := rfl
@[simp] theorem findTable_updQueue (q : Nat) (f : Queue → Queue) (s : State) (t : Nat) : findTable (updQueue q f s) t = findTable s t := rfl
@[simp] theorem findTable_updFunc (n : Nat) (f : Func → Func) (s : State) (t : Nat) : findTable (updFunc n f s) t = findTable s t := rfl
@[simp] theorem findTable_updChan (c : Nat) (f : Channel → Channel) (s : State) (t : Nat) : findTable (updChan c f s) t = findTable s t := rfl
@[simp] theorem findTable_updStack (k : Nat) (f : Stack → Stack) (s : State) (t : Nat) : findTable (updStack k f s) t = findTable s t := rfl
@[simp] theorem findTable_updSub (k : Nat) (f : Sub → Sub) (s : State) (t : Nat) : findTable (updSub k f s) t = findTable s t := rfl
@[simp] theorem findTable_updPort (k : Nat) (f : Port → Port) (s : State) (t : Nat) : findTable (updPort k f s) t = findTable s t := rfl
@[simp] theorem findTable_updFlow (p : Nat) (f : Flow → Flow) (s : State) (t : Nat) : findTable (updFlow p f s) t = findTable s t := by unfold updFlow; split <;> rfl
@[simp] theorem findTable_updPart (p : Nat) (f : Part → Part) (s : State) (t : Nat) : findTable (updPart p f s) t = findTable s t := by unfold updPart; split <;> rfl
@[simp] theorem findTable_updFlight (n : Nat) (f : Flight → Flight) (s : State) (t : Nat) : findTable (updFlight n f s) t = findTable s t := rfl
@[simp] theorem findTable_dropFlight (n : Nat) (s : State) (t : Nat) : findTable (dropFlight n s) t = findTable s t := rfl
@[simp] theorem findTable_updGroup (f : Group → Group) (s : State) (t : Nat) : findTable (updGroup f s) t = findTable s t := rfl
@[simp] theorem findTable_updInteg (f : Integ → Integ) (s : State) (t : Nat) : findTable (updInteg f s) t = findTable s t := rfl
@[simp] theorem findTable_updTele (f : Tele → Tele) (s : State) (t : Nat) : findTable (updTele f s) t = findTable s t := rfl
@[simp] theorem findTable_updMem (f : Mem → Mem) (s : State) (t : Nat) : findTable (updMem f s) t = findTable s t := rfl
@[simp] theorem findTable_updSched (f : Sched → Sched) (s : State) (t : Nat) : findTable (updSched f s) t = findTable s t := rfl
@[simp] theorem findTable_updClock (f : Clock → Clock) (s : State) (t : Nat) : findTable (updClock f s) t = findTable s t := rfl
@[simp] theorem findTable_updBeat (f : Beat → Beat) (s : State) (t : Nat) : findTable (updBeat f s) t = findTable s t := rfl
@[simp] theorem findTable_updPower (f : Power → Power) (s : State) (t : Nat) : findTable (updPower f s) t = findTable s t := rfl
@[simp] theorem findTable_updSec (f : Sec → Sec) (s : State) (t : Nat) : findTable (updSec f s) t = findTable s t := rfl
@[simp] theorem findTable_updLink (f : Link → Link) (s : State) (t : Nat) : findTable (updLink f s) t = findTable s t := rfl
@[simp] theorem findTable_updNet (f : Net → Net) (s : State) (t : Nat) : findTable (updNet f s) t = findTable s t := rfl
@[simp] theorem findTable_updOut (f : Out → Out) (s : State) (t : Nat) : findTable (updOut f s) t = findTable s t := rfl
@[simp] theorem findTable_updClover (f : Clover → Clover) (s : State) (t : Nat) : findTable (updClover f s) t = findTable s t := rfl
@[simp] theorem fenceVal_updTile (t : Nat) (f : Tile → Tile) (s : State) (f' : Nat) : fenceVal (updTile t f s) f' = fenceVal s f' := rfl
@[simp] theorem fenceVal_updQueue (q : Nat) (f : Queue → Queue) (s : State) (f' : Nat) : fenceVal (updQueue q f s) f' = fenceVal s f' := rfl
@[simp] theorem fenceVal_updFunc (n : Nat) (f : Func → Func) (s : State) (f' : Nat) : fenceVal (updFunc n f s) f' = fenceVal s f' := rfl
@[simp] theorem fenceVal_updChan (c : Nat) (f : Channel → Channel) (s : State) (f' : Nat) : fenceVal (updChan c f s) f' = fenceVal s f' := rfl
@[simp] theorem fenceVal_updStack (k : Nat) (f : Stack → Stack) (s : State) (f' : Nat) : fenceVal (updStack k f s) f' = fenceVal s f' := rfl
@[simp] theorem fenceVal_updSub (k : Nat) (f : Sub → Sub) (s : State) (f' : Nat) : fenceVal (updSub k f s) f' = fenceVal s f' := rfl
@[simp] theorem fenceVal_updPort (k : Nat) (f : Port → Port) (s : State) (f' : Nat) : fenceVal (updPort k f s) f' = fenceVal s f' := rfl
@[simp] theorem fenceVal_updFlow (p : Nat) (f : Flow → Flow) (s : State) (f' : Nat) : fenceVal (updFlow p f s) f' = fenceVal s f' := by unfold updFlow; split <;> rfl
@[simp] theorem fenceVal_updPart (p : Nat) (f : Part → Part) (s : State) (f' : Nat) : fenceVal (updPart p f s) f' = fenceVal s f' := by unfold updPart; split <;> rfl
@[simp] theorem fenceVal_updFlight (n : Nat) (f : Flight → Flight) (s : State) (f' : Nat) : fenceVal (updFlight n f s) f' = fenceVal s f' := rfl
@[simp] theorem fenceVal_dropFlight (n : Nat) (s : State) (f : Nat) : fenceVal (dropFlight n s) f = fenceVal s f := rfl
@[simp] theorem fenceVal_updTable (t : Nat) (f : Table → Table) (s : State) (f' : Nat) : fenceVal (updTable t f s) f' = fenceVal s f' := by unfold updTable; split <;> rfl
@[simp] theorem fenceVal_updGroup (f : Group → Group) (s : State) (f' : Nat) : fenceVal (updGroup f s) f' = fenceVal s f' := rfl
@[simp] theorem fenceVal_updInteg (f : Integ → Integ) (s : State) (f' : Nat) : fenceVal (updInteg f s) f' = fenceVal s f' := rfl
@[simp] theorem fenceVal_updTele (f : Tele → Tele) (s : State) (f' : Nat) : fenceVal (updTele f s) f' = fenceVal s f' := rfl
@[simp] theorem fenceVal_updMem (f : Mem → Mem) (s : State) (f' : Nat) : fenceVal (updMem f s) f' = fenceVal s f' := rfl
@[simp] theorem fenceVal_updTables (f : Tables → Tables) (s : State) (f' : Nat) : fenceVal (updTables f s) f' = fenceVal s f' := rfl
@[simp] theorem fenceVal_updSched (f : Sched → Sched) (s : State) (f' : Nat) : fenceVal (updSched f s) f' = fenceVal s f' := rfl
@[simp] theorem fenceVal_updClock (f : Clock → Clock) (s : State) (f' : Nat) : fenceVal (updClock f s) f' = fenceVal s f' := rfl
@[simp] theorem fenceVal_updBeat (f : Beat → Beat) (s : State) (f' : Nat) : fenceVal (updBeat f s) f' = fenceVal s f' := rfl
@[simp] theorem fenceVal_updPower (f : Power → Power) (s : State) (f' : Nat) : fenceVal (updPower f s) f' = fenceVal s f' := rfl
@[simp] theorem fenceVal_updSec (f : Sec → Sec) (s : State) (f' : Nat) : fenceVal (updSec f s) f' = fenceVal s f' := rfl
@[simp] theorem fenceVal_updLink (f : Link → Link) (s : State) (f' : Nat) : fenceVal (updLink f s) f' = fenceVal s f' := rfl
@[simp] theorem fenceVal_updNet (f : Net → Net) (s : State) (f' : Nat) : fenceVal (updNet f s) f' = fenceVal s f' := rfl
@[simp] theorem fenceVal_updOut (f : Out → Out) (s : State) (f' : Nat) : fenceVal (updOut f s) f' = fenceVal s f' := rfl
@[simp] theorem fenceVal_updClover (f : Clover → Clover) (s : State) (f' : Nat) : fenceVal (updClover f s) f' = fenceVal s f' := rfl

end Sys2Proof.Machine
end

