-- ==== Sys2Proof/Laws/Keeps.lean ====
section
/-! SUPPORT. What no command's effect does: it leaves the queue of commands alone and keeps memory's canonical form. The
relation, the memory operations that keep the form, and how the relation passes through records, folds and outcomes. -/

namespace Sys2Proof.Machine

/-! ### Memory operations keep the canonical form -/

theorem cellsOf_mem {a : Nat} {bs : List Byte} {c : Host.Cell} (h : c ∈ cellsOf a bs) :
    a ≤ c.1 ∧ c.1 < a + bs.length ∧ c.2 ≠ 0 := by
  induction bs generalizing a with
  | nil => simp [cellsOf] at h
  | cons b bs ih =>
    simp only [cellsOf] at h
    split at h
    · have := ih h; simp only [List.length_cons]; exact ⟨by omega, by omega, this.2.2⟩
    · rename_i hb
      rcases List.mem_cons.1 h with rfl | h
      · exact ⟨Nat.le_refl _, by simp, hb⟩
      · have := ih h; simp only [List.length_cons]; exact ⟨by omega, by omega, this.2.2⟩

theorem cellsOf_wf (a : Nat) (bs : List Byte) : cellsWf (cellsOf a bs) := by
  refine ⟨?_, fun c h => (cellsOf_mem h).2.2⟩
  induction bs generalizing a with
  | nil => exact List.Pairwise.nil
  | cons b bs ih =>
    simp only [cellsOf]
    split
    · exact ih _
    · exact List.Pairwise.cons (fun c h => (cellsOf_mem h).1) (ih _)

theorem filter_wf {cells : List Host.Cell} (p : Host.Cell → Bool) (h : cellsWf cells) : cellsWf (cells.filter p) :=
  ⟨h.1.sublist List.filter_sublist, fun c hc => h.2 c (List.mem_filter.1 hc).1⟩

/-- A write of bytes keeps the canonical form. -/
theorem cellsPut_wf {cells : List Host.Cell} (a : Nat) (bs : List Byte) (h : cellsWf cells) : cellsWf (cellsPut cells a bs) := by
  obtain ⟨h1, h2⟩ := cellsOf_wf a bs
  constructor
  · simp only [cellsPut, List.pairwise_append, List.mem_append, List.mem_filter, decide_eq_true_eq]
    refine ⟨⟨(filter_wf _ h).1, h1, fun x hx y hy => ?_⟩, (filter_wf _ h).1, fun x hx y hy => ?_⟩
    · have := (cellsOf_mem hy).1; omega
    · rcases hx with hx | hx
      · omega
      · have := (cellsOf_mem hx).2.1; omega
  · intro c hc
    simp only [cellsPut, List.mem_append, List.mem_filter] at hc
    rcases hc with (hc | hc) | hc
    · exact h.2 c hc.1
    · exact h2 c hc
    · exact h.2 c hc.1

theorem putGranule_wf {m : Mem} (k g : Nat) (bs : List Byte) (h : Memory.wf m) : Memory.wf (putGranule m k g bs) :=
  cellsPut_wf _ _ h

theorem zeroFrame_wf {m : Mem} (k f : Nat) (h : Memory.wf m) : Memory.wf (zeroFrame m k f) := filter_wf _ h

theorem reset_mem_wf : Memory.wf State.reset.mem := ⟨List.Pairwise.nil, fun _ h => nomatch h⟩

/-! ### The relation -/

/-- The queue of commands is left alone, and memory keeps its form. -/
def Keeps (s t : State) : Prop := t.pending = s.pending ∧ (Memory.wf s.mem → Memory.wf t.mem)

/-- Where an outcome is a next state, it keeps. -/
@[irreducible] def KeepsRes (s : State) (r : Res) : Prop := ∀ t, r = .next t → Keeps s t

theorem Keeps.refl (s : State) : Keeps s s := ⟨rfl, id⟩
theorem Keeps.trans {s t u : State} (h : Keeps s t) (k : Keeps t u) : Keeps s u := ⟨k.1.trans h.1, fun w => k.2 (h.2 w)⟩

theorem keepsRes_elim {s t : State} {r : Res} (h : KeepsRes s r) (e : r = .next t) : Keeps s t := by
  unfold KeepsRes at h; exact h t e
theorem keepsRes_next {s t : State} (h : Keeps s t) : KeepsRes s (.next t) := by
  unfold KeepsRes; intro u e; cases e; exact h
theorem keepsRes_fault {s : State} {f : Fault} : KeepsRes s (.fault f) := by
  unfold KeepsRes; intro u e; cases e
theorem keepsRes_doWhen {s0 s t : State} {c : Bool} (ht : Keeps s0 t) (hs : Keeps s0 s) : KeepsRes s0 (doWhen c t s) :=
  keepsRes_next (by split <;> assumption)

theorem keeps_ite {s0 a b : State} {c : Prop} [Decidable c] (ha : Keeps s0 a) (hb : Keeps s0 b) :
    Keeps s0 (if c then a else b) := by split <;> assumption
theorem keepsRes_ite {s0 : State} {a b : Res} {c : Prop} [Decidable c] (ha : KeepsRes s0 a) (hb : KeepsRes s0 b) :
    KeepsRes s0 (if c then a else b) := by split <;> assumption

theorem keeps_foldl {α : Type} {s0 : State} {f : State → α → State} {l : List α} {s : State}
    (hf : ∀ s x, Keeps s0 s → Keeps s0 (f s x)) (h : Keeps s0 s) : Keeps s0 (l.foldl f s) := by
  induction l generalizing s with
  | nil => exact h
  | cons x l ih => exact ih (hf s x h)

theorem keeps_foldl_fst {α β : Type} {s0 : State} {f : State × β → α → State × β} {l : List α} {s : State × β}
    (hf : ∀ s x, Keeps s0 s.1 → Keeps s0 (f s x).1) (h : Keeps s0 s.1) : Keeps s0 (l.foldl f s).1 := by
  induction l generalizing s with
  | nil => exact h
  | cons x l ih => exact ih (hf s x h)

theorem keeps_foldl_snd {α β : Type} {s0 : State} {f : β × State → α → β × State} {l : List α} {s : β × State}
    (hf : ∀ s x, Keeps s0 s.2 → Keeps s0 (f s x).2) (h : Keeps s0 s.2) : Keeps s0 (l.foldl f s).2 := by
  induction l generalizing s with
  | nil => exact h
  | cons x l ih => exact ih (hf s x h)

/-- A record update of fields other than the queue and memory. -/
theorem keeps_mk {s0 s : State} {freeCtr clock beat clover power sec link queues queueGen flights nextFlight fences barriers
    tables tiles sched net integ tele dbgEn out} (h : Keeps s0 s) :
    Keeps s0 (State.mk s.pending freeCtr clock beat clover power sec link queues queueGen flights nextFlight fences barriers
      s.mem tables tiles sched net integ tele dbgEn out) := h

/-- A record update of memory as well. -/
theorem keeps_mkMem {s0 s : State} {freeCtr clock beat clover power sec link queues queueGen flights nextFlight fences barriers
    mem tables tiles sched net integ tele dbgEn out} (hm : Memory.wf s.mem → Memory.wf mem) (h : Keeps s0 s) :
    Keeps s0 (State.mk s.pending freeCtr clock beat clover power sec link queues queueGen flights nextFlight fences barriers
      mem tables tiles sched net integ tele dbgEn out) := ⟨h.1, fun w => hm (h.2 w)⟩

end Sys2Proof.Machine
end

