-- ==== Sys2Proof/Laws/KeepsOps.lean ====
section
/-! SUPPORT. Every operation on the state leaves the queue of commands alone and keeps memory's canonical form: one lemma per
operation, named after it. -/

namespace Sys2Proof.Machine

theorem updInteg_keeps {s0 : State} {f} {s : State} (h : Keeps s0 s) :
    Keeps s0 (updInteg f s) := by
  unfold updInteg; try dsimp only
  repeat' (first | (with_reducible first | assumption | apply keeps_ite) | (with_reducible apply keeps_mk; first | (with_reducible first | assumption | apply keeps_ite) | split) | split)

theorem dropChecks_keeps {s0 : State} {n} {s : State} (h : Keeps s0 s) :
    Keeps s0 (dropChecks n s) := by
  unfold dropChecks; try dsimp only
  repeat' (first | (with_reducible first | assumption | apply keeps_ite | apply updInteg_keeps) | split)

theorem clearAcc_keeps {s0 : State} {p : Nat → Bool} {s : State} (h : Keeps s0 s) : Keeps s0 (clearAcc p s) := ⟨h.1, h.2⟩

theorem stopRuns_keeps {s0 : State} {p} {s : State} (h : Keeps s0 s) :
    Keeps s0 (stopRuns p s) := by
  unfold stopRuns; try dsimp only
  repeat' (first | (with_reducible first | assumption | apply keeps_ite | apply clearAcc_keeps) | (with_reducible apply keeps_mk; first | (with_reducible first | assumption | apply keeps_ite | apply clearAcc_keeps) | split) | split)

theorem updSched_keeps {s0 : State} {f} {s : State} (h : Keeps s0 s) :
    Keeps s0 (updSched f s) := by
  unfold updSched; try dsimp only
  repeat' (first | (with_reducible first | assumption | apply keeps_ite) | (with_reducible apply keeps_mk; first | (with_reducible first | assumption | apply keeps_ite) | split) | split)

theorem dropStages_keeps {s0 : State} {n} {s : State} (h : Keeps s0 s) :
    Keeps s0 (dropStages n s) := by
  unfold dropStages; try dsimp only
  repeat' (first | (with_reducible first | assumption | apply keeps_ite | apply updSched_keeps) | split)

theorem stopFlight_keeps {s0 : State} {n} {s : State} (h : Keeps s0 s) :
    Keeps s0 (stopFlight n s) := by
  unfold stopFlight; try dsimp only
  repeat' (first | intro _ | (with_reducible first | assumption | apply keeps_ite | apply dropChecks_keeps | apply stopRuns_keeps | apply dropStages_keeps | apply keeps_foldl | apply keeps_foldl_fst | apply keeps_foldl_snd) | split)

theorem dropFlight_keeps {s0 : State} {n} {s : State} (h : Keeps s0 s) :
    Keeps s0 (dropFlight n s) := by
  unfold dropFlight; try dsimp only
  repeat' (first | (with_reducible first | assumption | apply keeps_ite) | (with_reducible apply keeps_mk; first | (with_reducible first | assumption | apply keeps_ite) | split) | split)

theorem updFlight_keeps {s0 : State} {n} {f} {s : State} (h : Keeps s0 s) :
    Keeps s0 (updFlight n f s) := by
  unfold updFlight; try dsimp only
  repeat' (first | (with_reducible first | assumption | apply keeps_ite) | (with_reducible apply keeps_mk; first | (with_reducible first | assumption | apply keeps_ite) | split) | split)

theorem updOut_keeps {s0 : State} {f} {s : State} (h : Keeps s0 s) :
    Keeps s0 (updOut f s) := by
  unfold updOut; try dsimp only
  repeat' (first | (with_reducible first | assumption | apply keeps_ite) | (with_reducible apply keeps_mk; first | (with_reducible first | assumption | apply keeps_ite) | split) | split)

theorem updFunc_keeps {s0 : State} {n} {f} {s : State} (h : Keeps s0 s) :
    Keeps s0 (updFunc n f s) := by
  unfold updFunc; try dsimp only
  repeat' (first | (with_reducible first | assumption | apply keeps_ite) | (with_reducible apply keeps_mk; first | (with_reducible first | assumption | apply keeps_ite) | split) | split)

theorem msix_keeps {s0 : State} {f} {v} {s : State} (h : Keeps s0 s) :
    Keeps s0 (msix f v s) := by
  unfold msix; try dsimp only
  repeat' (first | (with_reducible first | assumption | apply keeps_ite | apply updOut_keeps | apply updFunc_keeps) | split)

theorem updMem_keeps {s0 : State} {f : Mem → Mem} {s : State} (hf : ∀ m, Memory.wf m → Memory.wf (f m)) (h : Keeps s0 s) :
    Keeps s0 (updMem f s) := ⟨h.1, fun w => hf _ (h.2 w)⟩

theorem setFaultq_keeps {s0 : State} {p} {r} {s : State} (h : Keeps s0 s) :
    Keeps s0 (setFaultq p r s) := by
  unfold setFaultq; try dsimp only
  repeat' (first | intro _ | (with_reducible first | assumption | apply keeps_ite | apply updMem_keeps) | exact keepsRes_fault | split)

theorem writePiece_keeps {s0 : State} {mode} {ok} {pa0} {bs} {x} {p} (h : Keeps s0 x.1) :
    Keeps s0 (writePiece mode ok pa0 bs x p).1 := by
  unfold writePiece; try dsimp only
  repeat' (first | intro _ | (with_reducible first | assumption | apply keeps_ite | apply updMem_keeps | (apply putGranule_wf)) | split)

theorem writeMode_keeps {s0 : State} {mode} {ok} {pa} {bs} {x} (h : Keeps s0 x.1) :
    Keeps s0 (writeMode mode ok pa bs x).1 := by
  unfold writeMode; try dsimp only
  repeat' (first | intro _ | (with_reducible first | assumption | apply keeps_ite | apply writePiece_keeps | apply keeps_foldl | apply keeps_foldl_fst | apply keeps_foldl_snd) | split)

theorem writePhys_keeps {s0 : State} {ok} {pa} {bs} {x} (h : Keeps s0 x.1) :
    Keeps s0 (writePhys ok pa bs x).1 := by
  unfold writePhys; try dsimp only
  repeat' (first | (with_reducible first | assumption | apply keeps_ite | apply writeMode_keeps) | split)

theorem putVa_keeps {s0 : State} {c} {va} {bs} {s : State} (h : Keeps s0 s) :
    Keeps s0 (putVa c va bs s) := by
  unfold putVa; try dsimp only
  repeat' (first | intro _ | (with_reducible first | assumption | apply keeps_ite | apply writePhys_keeps | apply keeps_foldl | apply keeps_foldl_fst | apply keeps_foldl_snd) | split)

theorem faultPut_keeps {s0 : State} {p} {r} {s : State} (h : Keeps s0 s) :
    Keeps s0 (faultPut p r s) := by
  unfold faultPut; try dsimp only
  repeat' (first | (with_reducible first | assumption | apply keeps_ite | apply msix_keeps | apply setFaultq_keeps | apply putVa_keeps) | exact keepsRes_fault | split)

theorem placeFault_keeps {s0 : State} {f} {r} {s : State} (h : Keeps s0 s) :
    Keeps s0 (placeFault f r s) := by
  unfold placeFault; try dsimp only
  repeat' (first | (with_reducible first | assumption | apply keeps_ite | apply faultPut_keeps) | exact keepsRes_fault | split)

theorem placeStatus_keeps {s0 : State} {f} {st} {s : State} (h : Keeps s0 s) :
    Keeps s0 (placeStatus f st s) := by
  unfold placeStatus; try dsimp only
  repeat' (first | (with_reducible first | assumption | apply keeps_ite | apply placeFault_keeps) | split)

theorem updTele_keeps {s0 : State} {f} {s : State} (h : Keeps s0 s) :
    Keeps s0 (updTele f s) := by
  unfold updTele; try dsimp only
  repeat' (first | (with_reducible first | assumption | apply keeps_ite) | (with_reducible apply keeps_mk; first | (with_reducible first | assumption | apply keeps_ite) | split) | split)

theorem emitAt_keeps {s0 : State} {stamp} {src} {code} {part} {fields} {s : State} (h : Keeps s0 s) :
    Keeps s0 (emitAt stamp src code part fields s) := by
  unfold emitAt; try dsimp only
  repeat' (first | (with_reducible first | assumption | apply keeps_ite | apply updTele_keeps) | split)

theorem emit_keeps {s0 : State} {src} {code} {part} {fields} {s : State} (h : Keeps s0 s) :
    Keeps s0 (emit src code part fields s) := by
  unfold emit; try dsimp only
  repeat' (first | (with_reducible first | assumption | apply keeps_ite | apply emitAt_keeps) | split)

theorem placeAccess_keeps {s0 : State} {f} {s : State} (h : Keeps s0 s) :
    Keeps s0 (placeAccess f s) := by
  unfold placeAccess; try dsimp only
  repeat' (first | (with_reducible first | assumption | apply keeps_ite | apply emit_keeps | apply placeFault_keeps) | split)

theorem updQueue_keeps {s0 : State} {q} {f} {s : State} (h : Keeps s0 s) :
    Keeps s0 (updQueue q f s) := by
  unfold updQueue; try dsimp only
  repeat' (first | (with_reducible first | assumption | apply keeps_ite) | (with_reducible apply keeps_mk; first | (with_reducible first | assumption | apply keeps_ite) | split) | split)

theorem haltQueue_keeps {s0 : State} {q} {seq} {st} {s : State} (h : Keeps s0 s) :
    Keeps s0 (haltQueue q seq st s) := by
  unfold haltQueue; try dsimp only
  repeat' (first | (with_reducible first | assumption | apply keeps_ite | apply updQueue_keeps) | split)

theorem fenceRaise_keeps {s0 : State} {add} {f} {v} {s : State} (h : Keeps s0 s) :
    Keeps s0 (fenceRaise add f v s) := by
  unfold fenceRaise; try dsimp only
  repeat' (first | (with_reducible first | assumption | apply keeps_ite) | (with_reducible apply keeps_mk; first | (with_reducible first | assumption | apply keeps_ite) | split) | split)

theorem trySignal_keeps {s0 : State} {n} {s : State} (h : Keeps s0 s) :
    Keeps s0 (trySignal n s) := by
  unfold trySignal; try dsimp only
  repeat' (first | (with_reducible first | assumption | apply keeps_ite | apply updFlight_keeps | apply fenceRaise_keeps) | split)

theorem finishTop_keeps {s0 : State} {n} {st} {s : State} (h : Keeps s0 s) :
    Keeps s0 (finishTop n st s) := by
  unfold finishTop; try dsimp only
  repeat' (first | (with_reducible first | assumption | apply keeps_ite | apply updFlight_keeps | apply placeStatus_keeps | apply placeAccess_keeps | apply dropStages_keeps | apply haltQueue_keeps | apply trySignal_keeps) | split)

theorem abortFlight_keeps {s0 : State} {n} {st} {s : State} (h : Keeps s0 s) :
    Keeps s0 (abortFlight n st s) := by
  unfold abortFlight; try dsimp only
  repeat' (first | intro _ | (with_reducible first | assumption | apply keeps_ite | apply stopFlight_keeps | apply dropFlight_keeps | apply finishTop_keeps | apply updFlight_keeps | apply keeps_foldl | apply keeps_foldl_fst | apply keeps_foldl_snd) | split)

theorem updFlow_keeps {s0 : State} {p} {f} {s : State} (h : Keeps s0 s) :
    Keeps s0 (updFlow p f s) := by
  unfold updFlow; try dsimp only
  repeat' (first | (with_reducible first | assumption | apply keeps_ite) | (with_reducible apply keeps_mk; first | (with_reducible first | assumption | apply keeps_ite) | split) | split)

theorem sendMsg_keeps {s0 : State} {peer} {m} {s : State} (h : Keeps s0 s) :
    Keeps s0 (sendMsg peer m s) := by
  unfold sendMsg; try dsimp only
  repeat' (first | (with_reducible first | assumption | apply keeps_ite | apply updFlow_keeps) | (with_reducible apply keeps_mkMem; exact fun w => w; first | (with_reducible first | assumption | apply keeps_ite | apply updFlow_keeps) | split) | split)

theorem sendAck_keeps {s0 : State} {peer} {s : State} (h : Keeps s0 s) :
    Keeps s0 (sendAck peer s) := by
  unfold sendAck; try dsimp only
  repeat' (first | (with_reducible first | assumption | apply keeps_ite | apply sendMsg_keeps | apply updFlow_keeps) | split)

theorem oweAck_keeps {s0 : State} {peer} {s : State} (h : Keeps s0 s) :
    Keeps s0 (oweAck peer s) := by
  unfold oweAck; try dsimp only
  repeat' (first | (with_reducible first | assumption | apply keeps_ite | apply sendAck_keeps | apply updFlow_keeps) | split)

theorem acceptPsn_keeps {s0 : State} {p} {s : State} (h : Keeps s0 s) :
    Keeps s0 (acceptPsn p s) := by
  unfold acceptPsn; try dsimp only
  repeat' (first | (with_reducible first | assumption | apply keeps_ite | apply updFlow_keeps | apply sendAck_keeps | apply oweAck_keeps) | split)

theorem accessRecord_keeps {s0 : State} {r} {st} {pa} {n} {s : State} (h : Keeps s0 s) :
    Keeps s0 (accessRecord r st pa n s) := by
  unfold accessRecord; try dsimp only
  repeat' (first | (with_reducible first | assumption | apply keeps_ite | apply emit_keeps | apply faultPut_keeps) | exact keepsRes_fault | split)

theorem addCheck_keeps {s0 : State} {f} {inst} {reason} {t} {inPlace} {dupFirst} {s : State} (h : Keeps s0 s) :
    Keeps s0 (addCheck f inst reason t inPlace dupFirst s).2 := by
  unfold addCheck; try dsimp only
  repeat' (first | (with_reducible first | assumption | apply keeps_ite | apply updInteg_keeps | apply updFlight_keeps) | split)

theorem addFlight_keeps {s0 : State} {f} {s : State} (h : Keeps s0 s) :
    Keeps s0 (addFlight f s) := by
  unfold addFlight; try dsimp only
  repeat' (first | (with_reducible first | assumption | apply keeps_ite) | (with_reducible apply keeps_mk; first | (with_reducible first | assumption | apply keeps_ite) | split) | split)

theorem writeVa_keeps {s0 : State} {c} {va} {bs} {s : State} (h : Keeps s0 s) :
    Keeps s0 (writeVa c va bs s).1 := by
  unfold writeVa; try dsimp only
  repeat' (first | intro _ | (with_reducible first | assumption | apply keeps_ite | apply writePhys_keeps | apply keeps_foldl | apply keeps_foldl_fst | apply keeps_foldl_snd) | split)

theorem addFloats_keeps {s0 : State} {c} {va} {b} {s : State} (h : Keeps s0 s) :
    Keeps s0 (addFloats c va b s).1 := by
  unfold addFloats; try dsimp only
  repeat' (first | (with_reducible first | assumption | apply keeps_ite | apply writeVa_keeps) | split)

theorem updTables_keeps {s0 : State} {f} {s : State} (h : Keeps s0 s) :
    Keeps s0 (updTables f s) := by
  unfold updTables; try dsimp only
  repeat' (first | (with_reducible first | assumption | apply keeps_ite) | (with_reducible apply keeps_mk; first | (with_reducible first | assumption | apply keeps_ite) | split) | split)

theorem addParam_keeps {s0 : State} {id} {off} {k} {s : State} (h : Keeps s0 s) :
    Keeps s0 (addParam id off k s) := by
  unfold addParam; try dsimp only
  repeat' (first | (with_reducible first | assumption | apply keeps_ite | apply updTables_keeps) | split)

theorem markReady_keeps {s0 : State} {k} {f} {s : State} (h : Keeps s0 s) :
    Keeps s0 (markReady k f s) := by
  unfold markReady; try dsimp only
  repeat' (first | (with_reducible first | assumption | apply keeps_ite | apply updQueue_keeps | apply updSched_keeps) | split)

theorem updPart_keeps {s0 : State} {p} {f} {s : State} (h : Keeps s0 s) :
    Keeps s0 (updPart p f s) := by
  unfold updPart; try dsimp only
  repeat' (first | (with_reducible first | assumption | apply keeps_ite) | (with_reducible apply keeps_mk; first | (with_reducible first | assumption | apply keeps_ite) | split) | split)

theorem takeCharge_keeps {s0 : State} {p} {c} {lc} {s : State} (h : Keeps s0 s) :
    Keeps s0 (takeCharge p c lc s) := by
  unfold takeCharge; try dsimp only
  repeat' (first | (with_reducible first | assumption | apply keeps_ite | apply updPart_keeps) | split)

theorem holdReady_keeps {s0 : State} {p} {s : State} (h : Keeps s0 s) :
    Keeps s0 (holdReady p s) := by
  unfold holdReady; try dsimp only
  repeat' (first | (with_reducible first | assumption | apply keeps_ite | apply updPart_keeps) | split)

theorem admitBe_keeps {s0 : State} {stopped} {x1} {x2 : State} (h : Keeps s0 x2) :
    Keeps s0 (admitBe stopped x1 x2) := by
  induction x1 generalizing stopped x2 with
  | nil =>
    unfold admitBe
    repeat' (first | (with_reducible first | assumption | apply keeps_ite | apply markReady_keeps | apply takeCharge_keeps | apply holdReady_keeps | apply updSched_keeps | apply updPart_keeps) | split)
  | cons x l ih =>
    unfold admitBe; try dsimp only
    repeat' (first | (with_reducible first | assumption | apply keeps_ite | apply markReady_keeps | apply takeCharge_keeps | apply holdReady_keeps | apply updSched_keeps | apply updPart_keeps | apply ih) | split)

theorem admitLc_keeps {s0 : State} {p} {x1} {x2 : State} (h : Keeps s0 x2) :
    Keeps s0 (admitLc p x1 x2) := by
  induction x1 generalizing x2 with
  | nil =>
    unfold admitLc
    repeat' (first | (with_reducible first | assumption | apply keeps_ite | apply takeCharge_keeps | apply markReady_keeps | apply holdReady_keeps | apply updPart_keeps) | split)
  | cons x l ih =>
    unfold admitLc; try dsimp only
    repeat' (first | (with_reducible first | assumption | apply keeps_ite | apply takeCharge_keeps | apply markReady_keeps | apply holdReady_keeps | apply updPart_keeps | apply ih) | split)

theorem setCarry_keeps {s0 : State} {s : State} (h : Keeps s0 s) :
    Keeps s0 (setCarry s) := by
  unfold setCarry; try dsimp only
  repeat' (first | intro _ | (with_reducible first | assumption | apply keeps_ite | apply updPart_keeps | apply keeps_foldl | apply keeps_foldl_fst | apply keeps_foldl_snd) | split)

theorem admitReady_keeps {s0 : State} {s : State} (h : Keeps s0 s) :
    Keeps s0 (admitReady s) := by
  unfold admitReady; try dsimp only
  repeat' (first | intro _ | (with_reducible first | assumption | apply keeps_ite | apply admitLc_keeps | apply setCarry_keeps | apply admitBe_keeps | apply keeps_foldl | apply keeps_foldl_fst | apply keeps_foldl_snd) | split)

theorem offerStage_keeps {s0 : State} {n} {i} {r} {s : State} (h : Keeps s0 s) :
    Keeps s0 (offerStage n i r s) := by
  unfold offerStage; try dsimp only
  repeat' (first | (with_reducible first | assumption | apply keeps_ite | apply admitReady_keeps | apply updSched_keeps) | split)

theorem takeStage_keeps {s0 : State} {n} {i} {s : State} (h : Keeps s0 s) :
    Keeps s0 (takeStage n i s) := by
  unfold takeStage; try dsimp only
  repeat' (first | (with_reducible first | assumption | apply keeps_ite | apply updSched_keeps) | split)

theorem admitStages_keeps {s0 : State} {n} {f} {g} {s : State} (h : Keeps s0 s) :
    Keeps s0 (admitStages n f g s) := by
  unfold admitStages; try dsimp only
  repeat' (first | intro _ | (with_reducible first | assumption | apply keeps_ite | apply offerStage_keeps | apply updFlight_keeps | apply takeStage_keeps | apply keeps_foldl | apply keeps_foldl_fst | apply keeps_foldl_snd) | split)

theorem groupChange_keeps {s0 : State} {s : State} (h : Keeps s0 s) :
    Keeps s0 (groupChange s) := by
  unfold groupChange; try dsimp only
  repeat' (first | (with_reducible first | assumption | apply keeps_ite | apply emit_keeps) | split)

theorem updGroup_keeps {s0 : State} {f} {s : State} (h : Keeps s0 s) :
    Keeps s0 (updGroup f s) := by
  unfold updGroup; try dsimp only
  repeat' (first | (with_reducible first | assumption | apply keeps_ite) | (with_reducible apply keeps_mk; first | (with_reducible first | assumption | apply keeps_ite) | split) | split)

theorem adopt_keeps {s0 : State} {c} {device} {s : State} (h : Keeps s0 s) :
    Keeps s0 (adopt c device s) := by
  unfold adopt; try dsimp only
  repeat' (first | (with_reducible first | assumption | apply keeps_ite | apply groupChange_keeps | apply updGroup_keeps) | split)

theorem updClock_keeps {s0 : State} {f} {s : State} (h : Keeps s0 s) :
    Keeps s0 (updClock f s) := by
  unfold updClock; try dsimp only
  repeat' (first | (with_reducible first | assumption | apply keeps_ite) | (with_reducible apply keeps_mk; first | (with_reducible first | assumption | apply keeps_ite) | split) | split)

theorem advance_keeps {s0 : State} {t} {s : State} (h : Keeps s0 s) :
    Keeps s0 (advance t s) := by
  unfold advance; try dsimp only
  repeat' (first | (with_reducible first | assumption | apply keeps_ite | apply updClock_keeps) | split)

theorem afterHead_keeps {s0 : State} {p} {s : State} (h : Keeps s0 s) :
    Keeps s0 (afterHead p s) := by
  unfold afterHead; try dsimp only
  repeat' (first | (with_reducible first | assumption | apply keeps_ite | apply faultPut_keeps | apply setFaultq_keeps) | exact keepsRes_fault | split)

theorem updLink_keeps {s0 : State} {f} {s : State} (h : Keeps s0 s) :
    Keeps s0 (updLink f s) := by
  unfold updLink; try dsimp only
  repeat' (first | (with_reducible first | assumption | apply keeps_ite) | (with_reducible apply keeps_mk; first | (with_reducible first | assumption | apply keeps_ite) | split) | split)

theorem sendSnoops_keeps {s0 : State} {l} {s : State} (h : Keeps s0 s) :
    Keeps s0 (sendSnoops l s) := by
  unfold sendSnoops; try dsimp only
  repeat' (first | intro _ | (with_reducible first | assumption | apply keeps_ite | apply updOut_keeps | apply updLink_keeps | apply keeps_foldl | apply keeps_foldl_fst | apply keeps_foldl_snd) | split)

theorem afterSnoops_keeps {s0 : State} {write} {segs} {act} {s : State} (ha : ∀ s, Keeps s0 s → Keeps s0 (act s)) (h : Keeps s0 s) :
    Keeps s0 (afterSnoops write segs act s) := by
  unfold afterSnoops; try dsimp only
  repeat' (first | (with_reducible first | assumption | apply keeps_ite | apply sendSnoops_keeps | apply ha) | split)

theorem answer_keeps {s0 : State} {code} {data} {s : State} (h : Keeps s0 s) :
    Keeps s0 (answer code data s) := by
  unfold answer; try dsimp only
  repeat' (first | (with_reducible first | assumption | apply keeps_ite | apply updOut_keeps) | split)

theorem updChan_keeps {s0 : State} {c} {f} {s : State} (h : Keeps s0 s) :
    Keeps s0 (updChan c f s) := by
  unfold updChan; try dsimp only
  repeat' (first | (with_reducible first | assumption | apply keeps_ite) | (with_reducible apply keeps_mkMem; exact fun w => w; first | (with_reducible first | assumption | apply keeps_ite) | split) | split)

theorem updStack_keeps {s0 : State} {k} {f} {s : State} (h : Keeps s0 s) :
    Keeps s0 (updStack k f s) := by
  unfold updStack; try dsimp only
  repeat' (first | (with_reducible first | assumption | apply keeps_ite) | (with_reducible apply keeps_mkMem; exact fun w => w; first | (with_reducible first | assumption | apply keeps_ite) | split) | split)

theorem fillSlot_keeps {s0 : State} {i} {s : State} (h : Keeps s0 s) :
    Keeps s0 (fillSlot i s) := by
  unfold fillSlot; try dsimp only
  repeat' (first | intro _ | (with_reducible first | assumption | apply keeps_ite | apply updStack_keeps | apply updMem_keeps) | split)

theorem fillSlots_keeps {s0 : State} {s : State} (h : Keeps s0 s) :
    Keeps s0 (fillSlots s) := by
  unfold fillSlots; try dsimp only
  repeat' (first | (with_reducible first | assumption | apply keeps_ite | apply fillSlot_keeps) | split)

theorem mapoutBegin_keeps {s0 : State} {c} {s : State} (h : Keeps s0 s) :
    Keeps s0 (mapoutBegin c s) := by
  unfold mapoutBegin; try dsimp only
  repeat' (first | (with_reducible first | assumption | apply keeps_ite | apply fillSlots_keeps | apply updStack_keeps) | split)

theorem mapoutTry_keeps {s0 : State} {c} {force} {s : State} (h : Keeps s0 s) :
    Keeps s0 (mapoutTry c force s) := by
  unfold mapoutTry; try dsimp only
  repeat' (first | (with_reducible first | assumption | apply keeps_ite | apply mapoutBegin_keeps | apply updStack_keeps | apply faultPut_keeps) | exact keepsRes_fault | split)

theorem noteCorrected_keeps {s0 : State} {c} {s : State} (h : Keeps s0 s) :
    Keeps s0 (noteCorrected c s) := by
  unfold noteCorrected; try dsimp only
  repeat' (first | (with_reducible first | assumption | apply keeps_ite | apply updChan_keeps | apply emit_keeps | apply mapoutTry_keeps) | split)

theorem countUes_keeps {s0 : State} {pas} {s : State} (h : Keeps s0 s) :
    Keeps s0 (countUes pas s) := by
  unfold countUes; try dsimp only
  repeat' (first | intro _ | (with_reducible first | assumption | apply keeps_ite | apply updChan_keeps | apply keeps_foldl | apply keeps_foldl_fst | apply keeps_foldl_snd) | split)

theorem countErrors_keeps {s0 : State} {a} {s : State} (h : Keeps s0 s) :
    Keeps s0 (countErrors a s) := by
  unfold countErrors; try dsimp only
  repeat' (first | intro _ | (with_reducible first | assumption | apply keeps_ite | apply noteCorrected_keeps | apply countUes_keeps | apply keeps_foldl | apply keeps_foldl_fst | apply keeps_foldl_snd) | split)

theorem noteRx_keeps {s0 : State} {mseq} {peer} {a} {s : State} (h : Keeps s0 s) :
    Keeps s0 (noteRx mseq peer a s) := by
  unfold noteRx; try dsimp only
  repeat' (first | (with_reducible first | assumption | apply keeps_ite | apply updFlow_keeps | apply countErrors_keeps) | split)

theorem sendNack_keeps {s0 : State} {peer} {mseq} {reason} {detail} {s : State} (h : Keeps s0 s) :
    Keeps s0 (sendNack peer mseq reason detail s) := by
  unfold sendNack; try dsimp only
  repeat' (first | (with_reducible first | assumption | apply keeps_ite | apply sendMsg_keeps) | split)

theorem answerRead_keeps {s0 : State} {p} {m} {s : State} (h : Keeps s0 s) :
    Keeps s0 (answerRead p m s) := by
  unfold answerRead; try dsimp only
  repeat' (first | (with_reducible first | assumption | apply keeps_ite | apply noteRx_keeps | apply sendNack_keeps | apply sendMsg_keeps) | (with_reducible apply keeps_mkMem; exact fun w => w; first | (with_reducible first | assumption | apply keeps_ite | apply noteRx_keeps | apply sendNack_keeps | apply sendMsg_keeps) | split) | split)

theorem apertureWrite_keeps {s0 : State} {f} {v} {s : State} (h : Keeps s0 s) :
    Keeps s0 (apertureWrite f v s) := by
  unfold apertureWrite; try dsimp only
  repeat' (first | (with_reducible first | assumption | apply keeps_ite | apply updFunc_keeps) | split)

theorem updBeat_keeps {s0 : State} {f} {s : State} (h : Keeps s0 s) :
    Keeps s0 (updBeat f s) := by
  unfold updBeat; try dsimp only
  repeat' (first | (with_reducible first | assumption | apply keeps_ite) | (with_reducible apply keeps_mk; first | (with_reducible first | assumption | apply keeps_ite) | split) | split)

theorem applyBeatSet_keeps {s0 : State} {period} {head} {start} {s : State} (h : Keeps s0 s) :
    Keeps s0 (applyBeatSet period head start s) := by
  unfold applyBeatSet; try dsimp only
  repeat' (first | (with_reducible first | assumption | apply keeps_ite | apply updBeat_keeps) | split)

theorem noteAcc_keeps {s0 : State} {n} {write} {a} {s : State} (h : Keeps s0 s) :
    Keeps s0 (noteAcc n write a s) := by
  unfold noteAcc; try dsimp only
  repeat' (first | (with_reducible first | assumption | apply keeps_ite | apply countErrors_keeps | apply updFlight_keeps) | split)

theorem writeRow_keeps {s0 : State} {n} {t} {l} {x} {beat} {r} {st} {s : State} (h : Keeps s0 s) :
    Keeps s0 (writeRow n t l x beat r st s) := by
  unfold writeRow; try dsimp only
  repeat' (first | (with_reducible first | assumption | apply keeps_ite | apply noteAcc_keeps | apply writeVa_keeps) | split)

theorem putPart_keeps {s0 : State} {n} {t} {v} {x} {first} {beat} {vs} {st} {s : State} (h : Keeps s0 s) :
    Keeps s0 (putPart n t v x first beat vs st s) := by
  unfold putPart; try dsimp only
  repeat' (first | (with_reducible first | assumption | apply keeps_ite | apply writeRow_keeps) | split)

theorem applyCopies_keeps {s0 : State} {p} {s : State} (h : Keeps s0 s) :
    Keeps s0 (applyCopies p s) := by
  unfold applyCopies; try dsimp only
  repeat' (first | intro _ | (with_reducible first | assumption | apply keeps_ite | apply updTables_keeps | apply putPart_keeps | apply keeps_foldl | apply keeps_foldl_fst | apply keeps_foldl_snd) | split)

theorem applyFlag_keeps {s0 : State} {p} {sat} {s : State} (h : Keeps s0 s) :
    Keeps s0 (applyFlag p sat s) := by
  unfold applyFlag; try dsimp only
  repeat' (first | (with_reducible first | assumption | apply keeps_ite | apply updTables_keeps) | split)

theorem collect_keeps {s0 : State} {src} {e} {s : State} (h : Keeps s0 s) :
    Keeps s0 (collect src e s).1 := by
  unfold collect; try dsimp only
  repeat' (first | (with_reducible first | assumption | apply keeps_ite | apply addParam_keeps | apply emit_keeps | apply updTables_keeps) | split)

theorem noteReject_keeps {s0 : State} {n} {st} {s : State} (h : Keeps s0 s) :
    Keeps s0 (noteReject n st s) := by
  unfold noteReject; try dsimp only
  repeat' (first | (with_reducible first | assumption | apply keeps_ite | apply updFlight_keeps) | split)

theorem freshFree_keeps {s0 : State} {s : State} (h : Keeps s0 s) :
    Keeps s0 (freshFree s).2 := by
  unfold freshFree; try dsimp only
  repeat' (first | (with_reducible first | assumption | apply keeps_ite) | (with_reducible apply keeps_mk; first | (with_reducible first | assumption | apply keeps_ite) | split) | split)

theorem sendGw_keeps {s0 : State} {n} {part} {context} {peer} {payload} {s : State} (h : Keeps s0 s) :
    Keeps s0 (sendGw n part context peer payload s) := by
  unfold sendGw; try dsimp only
  repeat' (first | (with_reducible first | assumption | apply keeps_ite | apply freshFree_keeps | apply sendMsg_keeps | apply updFlight_keeps) | split)

theorem sendEntry_keeps {s0 : State} {n} {dev} {e} {s : State} (h : Keeps s0 s) :
    Keeps s0 (sendEntry n dev e s) := by
  unfold sendEntry; try dsimp only
  repeat' (first | (with_reducible first | assumption | apply keeps_ite | apply collect_keeps | apply noteReject_keeps | apply sendGw_keeps) | split)

theorem sendTracking_keeps {s0 : State} {id} {t} {l} {x} {beat} {vals} {st} {s : State} (h : Keeps s0 s) :
    Keeps s0 (sendTracking id t l x beat vals st s) := by
  unfold sendTracking; try dsimp only
  repeat' (first | intro _ | (with_reducible first | assumption | apply keeps_ite | apply sendEntry_keeps | apply keeps_foldl | apply keeps_foldl_fst | apply keeps_foldl_snd) | split)

theorem applyEntries_keeps {s0 : State} {beat} {id} {t} {p} {es} {s : State} (h : Keeps s0 s) :
    Keeps s0 (applyEntries beat id t p es s) := by
  unfold applyEntries; try dsimp only
  repeat' (first | intro _ | (with_reducible first | assumption | apply keeps_ite | apply writeRow_keeps | apply applyFlag_keeps | apply sendTracking_keeps | apply addParam_keeps | apply keeps_foldl | apply keeps_foldl_fst | apply keeps_foldl_snd) | split)

theorem applyPartition_keeps {s0 : State} {p} {first} {n} {grant} {share} {lc} {qmap} {s : State} (h : Keeps s0 s) :
    Keeps s0 (applyPartition p first n grant share lc qmap s) := by
  unfold applyPartition; try dsimp only
  repeat' (first | (with_reducible first | assumption | apply keeps_ite | apply updSched_keeps | apply updPart_keeps) | split)

theorem applyRegulator_keeps {s0 : State} {p} {res} {rate} {burst} {s : State} (h : Keeps s0 s) :
    Keeps s0 (applyRegulator p res rate burst s) := by
  unfold applyRegulator; try dsimp only
  repeat' (first | (with_reducible first | assumption | apply keeps_ite | apply updPart_keeps) | split)

theorem queueResetEnd_keeps {s0 : State} {q} {s : State} (h : Keeps s0 s) :
    Keeps s0 (queueResetEnd q s) := by
  unfold queueResetEnd; try dsimp only
  repeat' (first | (with_reducible first | assumption | apply keeps_ite | apply updQueue_keeps) | (with_reducible apply keeps_mk; first | (with_reducible first | assumption | apply keeps_ite | apply updQueue_keeps) | split) | split)

theorem clearStreams_keeps {s0 : State} {p} {s : State} (h : Keeps s0 s) :
    Keeps s0 (clearStreams p s) := by
  unfold clearStreams; try dsimp only
  repeat' (first | (with_reducible first | assumption | apply keeps_ite) | (with_reducible apply keeps_mk; first | (with_reducible first | assumption | apply keeps_ite) | split) | split)

theorem queueResetStart_keeps {s0 : State} {q} {s : State} (h : Keeps s0 s) :
    Keeps s0 (queueResetStart q s) := by
  unfold queueResetStart; try dsimp only
  repeat' (first | intro _ | (with_reducible first | assumption | apply keeps_ite | apply updQueue_keeps | apply stopFlight_keeps | apply clearStreams_keeps | apply keeps_foldl | apply keeps_foldl_fst | apply keeps_foldl_snd) | split)

theorem queueResetNow_keeps {s0 : State} {q} {s : State} (h : Keeps s0 s) :
    Keeps s0 (queueResetNow q s) := by
  unfold queueResetNow; try dsimp only
  repeat' (first | (with_reducible first | assumption | apply keeps_ite | apply queueResetEnd_keeps | apply queueResetStart_keeps) | split)

theorem tdiError_keeps {s0 : State} {f} {s : State} (h : Keeps s0 s) :
    Keeps s0 (tdiError f s) := by
  unfold tdiError; try dsimp only
  repeat' (first | intro _ | (with_reducible first | assumption | apply keeps_ite | apply updFunc_keeps | apply queueResetNow_keeps | apply keeps_foldl | apply keeps_foldl_fst | apply keeps_foldl_snd) | split)

theorem applyItem_keeps {s0 : State} {set} {start} {i} {s : State} (h : Keeps s0 s) :
    Keeps s0 (applyItem set start i s) := by
  unfold applyItem; try dsimp only
  repeat' (first | intro _ | (with_reducible first | assumption | apply keeps_ite | apply applyBeatSet_keeps | apply applyPartition_keeps | apply applyRegulator_keeps | apply updQueue_keeps | apply updPart_keeps | apply tdiError_keeps | apply keeps_foldl | apply keeps_foldl_fst | apply keeps_foldl_snd) | split)

theorem applyPower_keeps {s0 : State} {i} {s : State} (h : Keeps s0 s) :
    Keeps s0 (applyPower i s) := by
  unfold applyPower; try dsimp only
  repeat' (first | (with_reducible first | assumption | apply keeps_ite | apply updSched_keeps | apply updPart_keeps) | split)

theorem updSet_keeps {s0 : State} {i} {f} {s : State} (h : Keeps s0 s) :
    Keeps s0 (updSet i f s) := by
  unfold updSet; try dsimp only
  repeat' (first | (with_reducible first | assumption | apply keeps_ite | apply updSched_keeps) | split)

theorem graphNodeEnded_keeps {s0 : State} {gn} {idx} {st} {node} {s : State} (h : Keeps s0 s) :
    Keeps s0 (graphNodeEnded gn idx st node s) := by
  unfold graphNodeEnded; try dsimp only
  repeat' (first | (with_reducible first | assumption | apply keeps_ite | apply updFlight_keeps | apply finishTop_keeps) | split)

theorem finishFlight_keeps {s0 : State} {n} {st} {s : State} (h : Keeps s0 s) :
    Keeps s0 (finishFlight n st s) := by
  unfold finishFlight; try dsimp only
  repeat' (first | (with_reducible first | assumption | apply keeps_ite | apply finishTop_keeps | apply graphNodeEnded_keeps | apply updFlight_keeps | apply dropFlight_keeps) | split)

theorem endSet_keeps {s0 : State} {i} {s : State} (h : Keeps s0 s) :
    Keeps s0 (endSet i s) := by
  unfold endSet; try dsimp only
  repeat' (first | (with_reducible first | assumption | apply keeps_ite | apply updSet_keeps | apply emit_keeps | apply finishFlight_keeps) | split)

theorem applySets_keeps {s0 : State} {start} {s : State} (h : Keeps s0 s) :
    Keeps s0 (applySets start s) := by
  unfold applySets; try dsimp only
  repeat' (first | intro _ | (with_reducible first | assumption | apply keeps_ite | apply applyItem_keeps | apply endSet_keeps | apply keeps_foldl | apply keeps_foldl_fst | apply keeps_foldl_snd) | split)

theorem applyTracking_keeps {s0 : State} {t} {beat} {es} {s : State} (h : Keeps s0 s) :
    Keeps s0 (applyTracking t beat es s) := by
  unfold applyTracking; try dsimp only
  repeat' (first | intro _ | (with_reducible first | assumption | apply keeps_ite | apply putPart_keeps | apply keeps_foldl | apply keeps_foldl_fst | apply keeps_foldl_snd) | split)

theorem applyTable_keeps {s0 : State} {beat} {id} {s : State} (h : Keeps s0 s) :
    Keeps s0 (applyTable beat id s) := by
  unfold applyTable; try dsimp only
  repeat' (first | (with_reducible first | assumption | apply keeps_ite | apply updTables_keeps | apply addParam_keeps | apply applyTracking_keeps | apply applyEntries_keeps | apply putVa_keeps) | split)

theorem armMonitor_keeps {s0 : State} {r} {s : State} (h : Keeps s0 s) :
    Keeps s0 (armMonitor r s) := by
  unfold armMonitor; try dsimp only
  repeat' (first | (with_reducible first | assumption | apply keeps_ite | apply updTele_keeps) | split)

theorem armRecorder_keeps {s0 : State} {r} {s : State} (h : Keeps s0 s) :
    Keeps s0 (armRecorder r s) := by
  unfold armRecorder; try dsimp only
  repeat' (first | (with_reducible first | assumption | apply keeps_ite | apply updTele_keeps) | split)

theorem armTable_keeps {s0 : State} {kind} {beat} {destroy} {r} {n} {s : State} (h : Keeps s0 s) :
    Keeps s0 (armTable kind beat destroy r n s) := by
  unfold armTable; try dsimp only
  repeat' (first | (with_reducible first | assumption | apply keeps_ite | apply updTables_keeps | apply updFlight_keeps) | split)

theorem updTile_keeps {s0 : State} {t} {f} {s : State} (h : Keeps s0 s) :
    Keeps s0 (updTile t f s) := by
  unfold updTile; try dsimp only
  repeat' (first | (with_reducible first | assumption | apply keeps_ite) | (with_reducible apply keeps_mk; first | (with_reducible first | assumption | apply keeps_ite) | split) | split)

theorem arrayFlags_keeps {s0 : State} {t} {f} {s : State} (h : Keeps s0 s) :
    Keeps s0 (arrayFlags t f s) := by
  unfold arrayFlags; try dsimp only
  repeat' (first | (with_reducible first | assumption | apply keeps_ite | apply updTile_keeps) | split)

theorem waitMapHead_keeps {s0 : State} {r} {c} {addr} {s : State} (h : Keeps s0 s) :
    Keeps s0 (waitMapHead r c addr s) := by
  unfold waitMapHead; try dsimp only
  repeat' (first | (with_reducible first | assumption | apply keeps_ite | apply updQueue_keeps | apply placeFault_keeps) | split)

theorem popHead_keeps {s0 : State} {q} {s : State} (h : Keeps s0 s) :
    Keeps s0 (popHead q s) := by
  unfold popHead; try dsimp only
  repeat' (first | (with_reducible first | assumption | apply keeps_ite | apply updQueue_keeps) | split)

theorem failHead_keeps {s0 : State} {r} {c} {reserved} {v} {s : State} (h : Keeps s0 s) :
    Keeps s0 (failHead r c reserved v s) := by
  unfold failHead; try dsimp only
  repeat' (first | (with_reducible first | assumption | apply keeps_ite | apply finishFlight_keeps | apply addFlight_keeps | apply popHead_keeps) | split)

theorem badHead_keeps {s0 : State} {r} {c} {v} {s : State} (h : Keeps s0 s) :
    Keeps s0 (badHead r c v s) := by
  unfold badHead; try dsimp only
  repeat' (first | (with_reducible first | assumption | apply keeps_ite | apply waitMapHead_keeps | apply failHead_keeps | apply sendSnoops_keeps) | split)

theorem barRecord_keeps {s0 : State} {s : State} {f} {st} {c} {addr} {n} {write} (h : Keeps s0 s) :
    Keeps s0 (barRecord s f st c addr n write) := by
  unfold barRecord; try dsimp only
  repeat' (first | (with_reducible first | assumption | apply keeps_ite | apply faultPut_keeps) | exact keepsRes_fault | split)

theorem barNote_keeps {s0 : State} {f} {c} {write} {a} {s : State} (h : Keeps s0 s) :
    Keeps s0 (barNote f c write a s) := by
  unfold barNote; try dsimp only
  repeat' (first | (with_reducible first | assumption | apply keeps_ite | apply countErrors_keeps | apply emit_keeps | apply barRecord_keeps) | split)

theorem barReply_keeps {s0 : State} {f} {poison} {data} {s : State} (h : Keeps s0 s) :
    Keeps s0 (barReply f poison data s) := by
  unfold barReply; try dsimp only
  repeat' (first | (with_reducible first | assumption | apply keeps_ite | apply updOut_keeps) | split)

theorem meterHost_keeps {s0 : State} {p} {bytes} {s : State} (h : Keeps s0 s) :
    Keeps s0 (meterHost p bytes s) := by
  unfold meterHost; try dsimp only
  repeat' (first | (with_reducible first | assumption | apply keeps_ite | apply updPart_keeps) | split)

theorem barRead_keeps {s0 : State} {f} {off} {len} {s : State} (h : Keeps s0 s) :
    Keeps s0 (barRead f off len s) := by
  unfold barRead; try dsimp only
  repeat' (first | intro _ | (with_reducible first | assumption | apply keeps_ite | apply barReply_keeps | apply barRecord_keeps | apply afterSnoops_keeps | apply barNote_keeps | apply meterHost_keeps) | split)

theorem barWrite_keeps {s0 : State} {f} {off} {data} {s : State} (h : Keeps s0 s) :
    Keeps s0 (barWrite f off data s) := by
  unfold barWrite; try dsimp only
  repeat' (first | intro _ | (with_reducible first | assumption | apply keeps_ite | apply barRecord_keeps | apply afterSnoops_keeps | apply writeVa_keeps | apply barNote_keeps | apply meterHost_keeps) | split)

theorem faultqBase_keeps {s0 : State} {operator} {func} {v} {s : State} (h : Keeps s0 s) :
    Keeps s0 (faultqBase operator func v s) := by
  unfold faultqBase; try dsimp only
  repeat' (first | (with_reducible first | assumption | apply keeps_ite | apply setFaultq_keeps) | exact keepsRes_fault | split)

theorem basic64_keeps {s0 : State} {f} {off} {size} {v} {s : State} (h : Keeps s0 s) :
    Keeps s0 (basic64 f off size v s) := by
  unfold basic64; try dsimp only
  repeat' (first | (with_reducible first | assumption | apply keeps_ite | apply apertureWrite_keeps | apply faultqBase_keeps) | exact keepsRes_fault | split)

theorem updGather_keeps {s0 : State} {n} {f} {s : State} (h : Keeps s0 s) :
    Keeps s0 (updGather n f s) := by
  unfold updGather; try dsimp only
  repeat' (first | (with_reducible first | assumption | apply keeps_ite | apply updFlight_keeps) | split)

theorem beginBatch_keeps {s0 : State} {p} {d} {s : State} (h : Keeps s0 s) :
    Keeps s0 (beginBatch p d s) := by
  unfold beginBatch; try dsimp only
  repeat' (first | (with_reducible first | assumption | apply keeps_ite | apply updGather_keeps) | split)

theorem beginBatches_keeps {s0 : State} {p} {s : State} (h : Keeps s0 s) :
    Keeps s0 (beginBatches p s) := by
  unfold beginBatches; try dsimp only
  repeat' (first | intro _ | (with_reducible first | assumption | apply keeps_ite | apply beginBatch_keeps | apply keeps_foldl | apply keeps_foldl_fst | apply keeps_foldl_snd) | split)

theorem beginNode_keeps {s0 : State} {g} {i} {num} {s : State} (h : Keeps s0 s) :
    Keeps s0 (beginNode g i num s) := by
  unfold beginNode; try dsimp only
  repeat' (first | (with_reducible first | assumption | apply keeps_ite | apply updFlight_keeps) | split)

theorem enterTile_keeps {s0 : State} {f} {k} {t} {s : State} (h : Keeps s0 s) :
    Keeps s0 (enterTile f k t s) := by
  unfold enterTile; try dsimp only
  repeat' (first | (with_reducible first | assumption | apply keeps_ite | apply updTile_keeps) | split)

theorem installStreams_keeps {s0 : State} {k} {flight} {src} {t} {s : State} (h : Keeps s0 s) :
    Keeps s0 (installStreams k flight src t s) := by
  unfold installStreams; try dsimp only
  repeat' (first | intro _ | (with_reducible first | assumption | apply keeps_ite | apply updTile_keeps | apply keeps_foldl | apply keeps_foldl_fst | apply keeps_foldl_snd) | split)

theorem monSample_keeps {s0 : State} {kind} {index} {v} {s : State} (h : Keeps s0 s) :
    Keeps s0 (monSample kind index v s) := by
  unfold monSample; try dsimp only
  repeat' (first | (with_reducible first | assumption | apply keeps_ite | apply updTele_keeps) | split)

theorem updKernel_keeps {s0 : State} {n} {g} {s : State} (h : Keeps s0 s) :
    Keeps s0 (updKernel n g s) := by
  unfold updKernel; try dsimp only
  repeat' (first | (with_reducible first | assumption | apply keeps_ite | apply updFlight_keeps) | split)

theorem beginRun_keeps {s0 : State} {f} {k} {t} {src} {r} {s : State} (h : Keeps s0 s) :
    Keeps s0 (beginRun f k t src r s) := by
  unfold beginRun; try dsimp only
  repeat' (first | intro _ | (with_reducible first | assumption | apply keeps_ite | apply noteAcc_keeps | apply enterTile_keeps | apply installStreams_keeps | apply updTile_keeps | apply monSample_keeps | apply updKernel_keeps | apply keeps_foldl | apply keeps_foldl_fst | apply keeps_foldl_snd) | split)

theorem billBase_keeps {s0 : State} {v} {s : State} (h : Keeps s0 s) :
    Keeps s0 (billBase v s) := by
  unfold billBase; try dsimp only
  repeat' (first | intro _ | (with_reducible first | assumption | apply keeps_ite | apply updMem_keeps) | split)

theorem billPut_keeps {s0 : State} {beat} {p} {w} {s : State} (h : Keeps s0 s) :
    Keeps s0 (billPut beat p w s) := by
  unfold billPut; try dsimp only
  repeat' (first | intro _ | (with_reducible first | assumption | apply keeps_ite | apply updMem_keeps | apply putVa_keeps) | split)

theorem meterRuns_keeps {s0 : State} {s : State} (h : Keeps s0 s) :
    Keeps s0 (meterRuns s) := by
  unfold meterRuns; try dsimp only
  repeat' (first | intro _ | (with_reducible first | assumption | apply keeps_ite | apply updPart_keeps | apply keeps_foldl | apply keeps_foldl_fst | apply keeps_foldl_snd) | (with_reducible apply keeps_mk; first | (with_reducible first | assumption | apply keeps_ite | apply updPart_keeps | apply keeps_foldl | apply keeps_foldl_fst | apply keeps_foldl_snd) | split) | split)

theorem billBeat_keeps {s0 : State} {n} {s : State} (h : Keeps s0 s) :
    Keeps s0 (billBeat n s) := by
  unfold billBeat; try dsimp only
  repeat' (first | intro _ | (with_reducible first | assumption | apply keeps_ite | apply updPart_keeps | apply billPut_keeps | apply meterRuns_keeps | apply keeps_foldl | apply keeps_foldl_fst | apply keeps_foldl_snd) | split)

theorem billHead_keeps {s0 : State} {v} {s : State} (h : Keeps s0 s) :
    Keeps s0 (billHead v s) := by
  unfold billHead; try dsimp only
  repeat' (first | intro _ | (with_reducible first | assumption | apply keeps_ite | apply updMem_keeps) | split)

theorem blockedRecords_keeps {s0 : State} {q} {b} {opcode} {s : State} (h : Keeps s0 s) :
    Keeps s0 (blockedRecords q b opcode s) := by
  unfold blockedRecords; try dsimp only
  repeat' (first | (with_reducible first | assumption | apply keeps_ite | apply faultPut_keeps | apply msix_keeps) | exact keepsRes_fault | split)

theorem updSec_keeps {s0 : State} {f} {s : State} (h : Keeps s0 s) :
    Keeps s0 (updSec f s) := by
  unfold updSec; try dsimp only
  repeat' (first | (with_reducible first | assumption | apply keeps_ite) | (with_reducible apply keeps_mk; first | (with_reducible first | assumption | apply keeps_ite) | split) | split)

theorem bootTests_keeps {s0 : State} {s : State} (h : Keeps s0 s) :
    Keeps s0 (bootTests s) := by
  unfold bootTests; try dsimp only
  repeat' (first | intro _ | (with_reducible first | assumption | apply keeps_ite | apply updTile_keeps | apply keeps_foldl | apply keeps_foldl_fst | apply keeps_foldl_snd) | split)

theorem updPower_keeps {s0 : State} {f} {s : State} (h : Keeps s0 s) :
    Keeps s0 (updPower f s) := by
  unfold updPower; try dsimp only
  repeat' (first | (with_reducible first | assumption | apply keeps_ite) | (with_reducible apply keeps_mk; first | (with_reducible first | assumption | apply keeps_ite) | split) | split)

theorem bootInto_keeps {s0 : State} {x} {failed} {digest} {components} {s : State} (h : Keeps s0 s) :
    Keeps s0 (bootInto x failed digest components s) := by
  unfold bootInto; try dsimp only
  repeat' (first | (with_reducible first | assumption | apply keeps_ite | apply updSec_keeps | apply bootTests_keeps | apply updPower_keeps | apply emit_keeps) | (with_reducible apply keeps_mk; first | (with_reducible first | assumption | apply keeps_ite | apply updSec_keeps | apply bootTests_keeps | apply updPower_keeps | apply emit_keeps) | split) | split)

theorem bootPut_keeps {s0 : State} {b} {s : State} (h : Keeps s0 s) :
    Keeps s0 (bootPut b s) := by
  unfold bootPut; try dsimp only
  repeat' (first | (with_reducible first | assumption | apply keeps_ite | apply updTele_keeps) | split)

theorem failHeadNow_keeps {s0 : State} {q} {st} {s : State} (h : Keeps s0 s) :
    Keeps s0 (failHeadNow q st s) := by
  unfold failHeadNow; try dsimp only
  repeat' (first | (with_reducible first | assumption | apply keeps_ite | apply failHead_keeps) | split)

theorem breakCycles_keeps {s0 : State} {x0} {x1 : State} (h : Keeps s0 x1) :
    Keeps s0 (breakCycles x0 x1) := by
  induction x0 generalizing x1 with
  | zero =>
    unfold breakCycles
    repeat' (first | (with_reducible first | assumption | apply keeps_ite | apply failHeadNow_keeps) | split)
  | succ n ih =>
    unfold breakCycles; try dsimp only
    repeat' (first | (with_reducible first | assumption | apply keeps_ite | apply failHeadNow_keeps | apply ih) | split)

theorem redispatch_keeps {s0 : State} {t} {s : State} (h : Keeps s0 s) :
    Keeps s0 (redispatch t s) := by
  unfold redispatch; try dsimp only
  repeat' (first | (with_reducible first | assumption | apply keeps_ite | apply updTile_keeps | apply clearAcc_keeps | apply updInteg_keeps | apply updKernel_keeps) | (with_reducible apply keeps_mk; first | (with_reducible first | assumption | apply keeps_ite | apply updTile_keeps | apply clearAcc_keeps | apply updInteg_keeps | apply updKernel_keeps) | split) | split)

theorem quarantine_keeps {s0 : State} {t} {s : State} (h : Keeps s0 s) :
    Keeps s0 (quarantine t s) := by
  unfold quarantine; try dsimp only
  repeat' (first | (with_reducible first | assumption | apply keeps_ite | apply redispatch_keeps | apply emit_keeps | apply updTile_keeps) | split)

theorem calibrationDone_keeps {s0 : State} {t} {margin} {s : State} (h : Keeps s0 s) :
    Keeps s0 (calibrationDone t margin s) := by
  unfold calibrationDone; try dsimp only
  repeat' (first | (with_reducible first | assumption | apply keeps_ite | apply updInteg_keeps | apply updTele_keeps | apply emit_keeps | apply quarantine_keeps) | split)

theorem cancelSets_keeps {s0 : State} {at_} {s : State} (h : Keeps s0 s) :
    Keeps s0 (cancelSets at_ s) := by
  unfold cancelSets; try dsimp only
  repeat' (first | intro _ | (with_reducible first | assumption | apply keeps_ite | apply finishFlight_keeps | apply updSet_keeps | apply keeps_foldl | apply keeps_foldl_fst | apply keeps_foldl_snd) | split)

theorem setCheck_keeps {s0 : State} {c} {f} {s : State} (h : Keeps s0 s) :
    Keeps s0 (setCheck c f s) := by
  unfold setCheck; try dsimp only
  repeat' (first | (with_reducible first | assumption | apply keeps_ite | apply updInteg_keeps) | split)

theorem checkStart_keeps {s0 : State} {f} {k} {c} {x} {t} {s : State} (h : Keeps s0 s) :
    Keeps s0 (checkStart f k c x t s) := by
  unfold checkStart; try dsimp only
  repeat' (first | (with_reducible first | assumption | apply keeps_ite | apply beginRun_keeps | apply setCheck_keeps) | split)

theorem clampVectors_keeps {s0 : State} {s : State} (h : Keeps s0 s) :
    Keeps s0 (clampVectors s) := by
  unfold clampVectors; try dsimp only
  repeat' (first | intro _ | (with_reducible first | assumption | apply keeps_ite | apply updMem_keeps) | exact keepsRes_fault | split)

theorem clearHdm_keeps {s0 : State} {p} {s : State} (h : Keeps s0 s) :
    Keeps s0 (clearHdm p s) := by
  unfold clearHdm; try dsimp only
  repeat' (first | intro _ | (with_reducible first | assumption | apply keeps_ite | apply updMem_keeps) | split)

theorem markRefused_keeps {s0 : State} {peer} {mseq} {s : State} (h : Keeps s0 s) :
    Keeps s0 (markRefused peer mseq s) := by
  unfold markRefused; try dsimp only
  repeat' (first | (with_reducible first | assumption | apply keeps_ite | apply updFlow_keeps) | split)

theorem refusalRecord_keeps {s0 : State} {p} {reason} {s : State} (h : Keeps s0 s) :
    Keeps s0 (refusalRecord p reason s) := by
  unfold refusalRecord; try dsimp only
  repeat' (first | (with_reducible first | assumption | apply keeps_ite | apply faultPut_keeps) | exact keepsRes_fault | split)

theorem countRefused_keeps {s0 : State} {p} {reason} {s : State} (h : Keeps s0 s) :
    Keeps s0 (countRefused p reason s) := by
  unfold countRefused; try dsimp only
  repeat' (first | intro _ | (with_reducible first | assumption | apply keeps_ite | apply addParam_keeps | apply keeps_foldl | apply keeps_foldl_fst | apply keeps_foldl_snd) | split)

theorem refuse_keeps {s0 : State} {p} {x} {s : State} (h : Keeps s0 s) :
    Keeps s0 (refuse p x s) := by
  unfold refuse; try dsimp only
  repeat' (first | (with_reducible first | assumption | apply keeps_ite | apply sendNack_keeps | apply refusalRecord_keeps | apply countRefused_keeps) | split)

theorem markTaken_keeps {s0 : State} {peer} {mseq} {s : State} (h : Keeps s0 s) :
    Keeps s0 (markTaken peer mseq s) := by
  unfold markTaken; try dsimp only
  repeat' (first | (with_reducible first | assumption | apply keeps_ite | apply updFlow_keeps) | split)

theorem takeSync_keeps {s0 : State} {m} {s : State} (h : Keeps s0 s) :
    Keeps s0 (takeSync m s) := by
  unfold takeSync; try dsimp only
  repeat' (first | (with_reducible first | assumption | apply keeps_ite | apply updTables_keeps) | split)

theorem touchDone_keeps {s0 : State} {n} {s : State} (h : Keeps s0 s) :
    Keeps s0 (touchDone n s) := by
  unfold touchDone; try dsimp only
  repeat' (first | (with_reducible first | assumption | apply keeps_ite | apply updFlight_keeps) | split)

theorem writeCombined_keeps {s0 : State} {n} {f} {g} {s : State} (h : Keeps s0 s) :
    Keeps s0 (writeCombined n f g s) := by
  unfold writeCombined; try dsimp only
  repeat' (first | intro _ | (with_reducible first | assumption | apply keeps_ite | apply writeVa_keeps | apply noteAcc_keeps | apply keeps_foldl | apply keeps_foldl_fst | apply keeps_foldl_snd) | split)

theorem updTable_keeps {s0 : State} {t} {f} {s : State} (h : Keeps s0 s) :
    Keeps s0 (updTable t f s) := by
  unfold updTable; try dsimp only
  repeat' (first | (with_reducible first | assumption | apply keeps_ite) | (with_reducible apply keeps_mk; first | (with_reducible first | assumption | apply keeps_ite) | split) | split)

theorem signalOpt_keeps {s0 : State} {o} {s : State} (h : Keeps s0 s) :
    Keeps s0 (signalOpt o s) := by
  unfold signalOpt; try dsimp only
  repeat' (first | (with_reducible first | assumption | apply keeps_ite | apply fenceRaise_keeps) | split)

theorem destroyIfEmpty_keeps {s0 : State} {id} {s : State} (h : Keeps s0 s) :
    Keeps s0 (destroyIfEmpty id s) := by
  unfold destroyIfEmpty; try dsimp only
  repeat' (first | (with_reducible first | assumption | apply keeps_ite | apply signalOpt_keeps | apply updTables_keeps) | split)

theorem freeDrained_keeps {s0 : State} {id} {s : State} (h : Keeps s0 s) :
    Keeps s0 (freeDrained id s) := by
  unfold freeDrained; try dsimp only
  repeat' (first | (with_reducible first | assumption | apply keeps_ite | apply emit_keeps | apply updTable_keeps | apply destroyIfEmpty_keeps | apply signalOpt_keeps) | split)

theorem freeAllDrained_keeps {s0 : State} {s : State} (h : Keeps s0 s) :
    Keeps s0 (freeAllDrained s) := by
  unfold freeAllDrained; try dsimp only
  repeat' (first | intro _ | (with_reducible first | assumption | apply keeps_ite | apply freeDrained_keeps | apply keeps_foldl | apply keeps_foldl_fst | apply keeps_foldl_snd) | split)

theorem endGather_keeps {s0 : State} {n} {s : State} (h : Keeps s0 s) :
    Keeps s0 (endGather n s) := by
  unfold endGather; try dsimp only
  repeat' (first | (with_reducible first | assumption | apply keeps_ite | apply updFlight_keeps | apply writeCombined_keeps | apply freeAllDrained_keeps | apply finishFlight_keeps) | split)

theorem poolOne_keeps {s0 : State} {n} {f} {g} {p} {s0_ : State} {x} {i} {s : State} (h : Keeps s0 s0_) (h1 : Keeps s0 s) :
    Keeps s0 (poolOne n f g p s0_ x i s) := by
  unfold poolOne; try dsimp only
  repeat' (first | intro _ | (with_reducible first | assumption | apply keeps_ite | apply noteAcc_keeps | apply updGather_keeps | apply writeVa_keeps | apply keeps_foldl | apply keeps_foldl_fst | apply keeps_foldl_snd) | split)

theorem poolAll_keeps {s0 : State} {n} {f} {g} {s : State} (h : Keeps s0 s) :
    Keeps s0 (poolAll n f g s) := by
  unfold poolAll; try dsimp only
  repeat' (first | intro _ | (with_reducible first | assumption | apply keeps_ite | apply poolOne_keeps | apply keeps_foldl | apply keeps_foldl_fst | apply keeps_foldl_snd) | (with_reducible apply keeps_mk; first | (with_reducible first | assumption | apply keeps_ite | apply poolOne_keeps | apply keeps_foldl | apply keeps_foldl_fst | apply keeps_foldl_snd) | split) | split)

theorem freshDraw_keeps {s0 : State} {s : State} (h : Keeps s0 s) :
    Keeps s0 (freshDraw s).2 := by
  unfold freshDraw; try dsimp only
  repeat' (first | (with_reducible first | assumption | apply keeps_ite) | (with_reducible apply keeps_mk; first | (with_reducible first | assumption | apply keeps_ite) | split) | split)

theorem sampleDraw_keeps {s0 : State} {p} {s : State} (h : Keeps s0 s) :
    Keeps s0 (sampleDraw p s).2 := by
  unfold sampleDraw; try dsimp only
  repeat' (first | (with_reducible first | assumption | apply keeps_ite | apply freshDraw_keeps | apply updInteg_keeps) | exact keepsRes_fault | split)

theorem renewAge_keeps {s0 : State} {ts} {start} {s : State} (h : Keeps s0 s) :
    Keeps s0 (renewAge ts start s) := by
  unfold renewAge; try dsimp only
  repeat' (first | intro _ | (with_reducible first | assumption | apply keeps_ite | apply updTile_keeps | apply keeps_foldl | apply keeps_foldl_fst | apply keeps_foldl_snd) | split)

theorem poolCheck_keeps {s0 : State} {f} {p} {inst} {t} {s : State} (h : Keeps s0 s) :
    Keeps s0 (poolCheck f p inst t s) := by
  unfold poolCheck; try dsimp only
  repeat' (first | (with_reducible first | assumption | apply keeps_ite | apply sampleDraw_keeps | apply renewAge_keeps | apply updTile_keeps | apply updInteg_keeps) | split)

theorem poolChecks_keeps {s0 : State} {f} {g} {s : State} (h : Keeps s0 s) :
    Keeps s0 (poolChecks f g s) := by
  unfold poolChecks; try dsimp only
  repeat' (first | intro _ | (with_reducible first | assumption | apply keeps_ite | apply poolCheck_keeps | apply keeps_foldl | apply keeps_foldl_fst | apply keeps_foldl_snd) | split)

theorem meterHbm_keeps {s0 : State} {p} {bytes} {s : State} (h : Keeps s0 s) :
    Keeps s0 (meterHbm p bytes s) := by
  unfold meterHbm; try dsimp only
  repeat' (first | (with_reducible first | assumption | apply keeps_ite | apply updPart_keeps) | split)

theorem poolNow_keeps {s0 : State} {n} {f} {g} {s : State} (h : Keeps s0 s) :
    Keeps s0 (poolNow n f g s) := by
  unfold poolNow; try dsimp only
  repeat' (first | intro _ | (with_reducible first | assumption | apply keeps_ite | apply updGather_keeps | apply poolAll_keeps | apply poolChecks_keeps | apply updTables_keeps | apply meterHbm_keeps | apply keeps_foldl | apply keeps_foldl_fst | apply keeps_foldl_snd) | split)

theorem settleGather_keeps {s0 : State} {n} {s : State} (h : Keeps s0 s) :
    Keeps s0 (settleGather n s) := by
  unfold settleGather; try dsimp only
  repeat' (first | (with_reducible first | assumption | apply keeps_ite | apply admitStages_keeps | apply endGather_keeps | apply poolNow_keeps) | split)

theorem msgOver_keeps {s0 : State} {n} {s : State} (h : Keeps s0 s) :
    Keeps s0 (msgOver n s) := by
  unfold msgOver; try dsimp only
  repeat' (first | (with_reducible first | assumption | apply keeps_ite | apply trySignal_keeps | apply touchDone_keeps | apply updFlight_keeps | apply finishFlight_keeps | apply settleGather_keeps) | split)

theorem takeResp_keeps {s0 : State} {peer} {m} {s : State} (h : Keeps s0 s) :
    Keeps s0 (takeResp peer m s) := by
  unfold takeResp; try dsimp only
  repeat' (first | (with_reducible first | assumption | apply keeps_ite | apply updFlow_keeps | apply msgOver_keeps) | split)

theorem placeRx_keeps {s0 : State} {peer} {sub} {m} {s : State} (h : Keeps s0 s) :
    Keeps s0 (placeRx peer sub m s) := by
  unfold placeRx; try dsimp only
  repeat' (first | (with_reducible first | assumption | apply keeps_ite | apply emit_keeps | apply faultPut_keeps) | exact keepsRes_fault | split)

theorem closeMsg_keeps {s0 : State} {p} {s : State} (h : Keeps s0 s) :
    Keeps s0 (closeMsg p s) := by
  unfold closeMsg; try dsimp only
  repeat' (first | (with_reducible first | assumption | apply keeps_ite | apply markRefused_keeps | apply refuse_keeps | apply answerRead_keeps | apply markTaken_keeps | apply takeSync_keeps | apply takeResp_keeps | apply placeRx_keeps) | split)

theorem closeWindow_keeps {s0 : State} {w} {s : State} (h : Keeps s0 s) :
    Keeps s0 (closeWindow w s) := by
  unfold closeWindow; try dsimp only
  repeat' (first | intro _ | (with_reducible first | assumption | apply keeps_ite | apply updMem_keeps) | split)

theorem updClover_keeps {s0 : State} {f} {s : State} (h : Keeps s0 s) :
    Keeps s0 (updClover f s) := by
  unfold updClover; try dsimp only
  repeat' (first | (with_reducible first | assumption | apply keeps_ite) | (with_reducible apply keeps_mk; first | (with_reducible first | assumption | apply keeps_ite) | split) | split)

theorem exitS3_keeps {s0 : State} {code} {s : State} (h : Keeps s0 s) :
    Keeps s0 (exitS3 code s) := by
  unfold exitS3; try dsimp only
  repeat' (first | (with_reducible first | assumption | apply keeps_ite | apply updPower_keeps) | split)

theorem wake_keeps {s0 : State} {code} {s : State} (h : Keeps s0 s) :
    Keeps s0 (wake code s) := by
  unfold wake; try dsimp only
  repeat' (first | (with_reducible first | assumption | apply keeps_ite | apply updPower_keeps) | split)

theorem cloverFire_keeps {s0 : State} {k} {code} {s : State} (h : Keeps s0 s) :
    Keeps s0 (cloverFire k code s) := by
  unfold cloverFire; try dsimp only
  repeat' (first | (with_reducible first | assumption | apply keeps_ite | apply emit_keeps | apply updClover_keeps | apply msix_keeps | apply exitS3_keeps | apply wake_keeps) | split)

theorem firedWrite_keeps {s0 : State} {v} {s : State} (h : Keeps s0 s) :
    Keeps s0 (firedWrite v s) := by
  unfold firedWrite; try dsimp only
  repeat' (first | (with_reducible first | assumption | apply keeps_ite | apply updClover_keeps) | split)

theorem cloverWrite_keeps {s0 : State} {i} {v} {s : State} (h : Keeps s0 s) :
    Keeps s0 (cloverWrite i v s) := by
  unfold cloverWrite; try dsimp only
  repeat' (first | (with_reducible first | assumption | apply keeps_ite | apply updClover_keeps | apply firedWrite_keeps) | split)

theorem reqDone_keeps {s0 : State} {id} {data} {st} {s : State} (h : Keeps s0 s) :
    Keeps s0 (reqDone id data st s) := by
  unfold reqDone; try dsimp only
  repeat' (first | intro _ | (with_reducible first | assumption | apply keeps_ite | apply updMem_keeps) | split)

theorem noteReq_keeps {s0 : State} {r} {a} {s : State} (h : Keeps s0 s) :
    Keeps s0 (noteReq r a s) := by
  unfold noteReq; try dsimp only
  repeat' (first | (with_reducible first | assumption | apply keeps_ite | apply noteAcc_keeps | apply countErrors_keeps | apply accessRecord_keeps) | split)

theorem coalesce_keeps {s0 : State} {c} {r} {s : State} (h : Keeps s0 s) :
    Keeps s0 (coalesce c r s) := by
  unfold coalesce; try dsimp only
  repeat' (first | intro _ | (with_reducible first | assumption | apply keeps_ite | apply updMem_keeps | apply updChan_keeps | apply reqDone_keeps | apply noteReq_keeps | apply keeps_foldl | apply keeps_foldl_fst | apply keeps_foldl_snd) | split)

theorem powerLost_keeps {s0 s : State} (h : Keeps s0 s) : Keeps s0 (powerLost s) := ⟨h.1, fun _ => reset_mem_wf⟩

theorem coldState_keeps {s0 : State} {s : State} (h : Keeps s0 s) :
    Keeps s0 (coldState s) := by
  unfold coldState; try dsimp only
  repeat' (first | (with_reducible first | assumption | apply keeps_ite | apply powerLost_keeps) | (with_reducible apply keeps_mk; first | (with_reducible first | assumption | apply keeps_ite | apply powerLost_keeps) | split) | split)

theorem coldReset_keeps {s0 : State} {code} {s : State} (h : Keeps s0 s) :
    Keeps s0 (coldReset code s) := by
  unfold coldReset; try dsimp only
  repeat' (first | (with_reducible first | assumption | apply keeps_ite | apply updPower_keeps | apply coldState_keeps) | split)

theorem nibbleMode_keeps {s0 : State} {mode} {ok} {pa} {high} {v} {x} (h : Keeps s0 x.1) :
    Keeps s0 (nibbleMode mode ok pa high v x).1 := by
  unfold nibbleMode; try dsimp only
  repeat' (first | (with_reducible first | assumption | apply keeps_ite | apply writeMode_keeps) | split)

theorem writeNibble_keeps {s0 : State} {ok} {pa} {high} {v} {x} (h : Keeps s0 x.1) :
    Keeps s0 (writeNibble ok pa high v x).1 := by
  unfold writeNibble; try dsimp only
  repeat' (first | (with_reducible first | assumption | apply keeps_ite | apply nibbleMode_keeps) | split)

theorem writeNibbleVa_keeps {s0 : State} {c} {va} {high} {v} {s : State} (h : Keeps s0 s) :
    Keeps s0 (writeNibbleVa c va high v s).1 := by
  unfold writeNibbleVa; try dsimp only
  repeat' (first | intro _ | (with_reducible first | assumption | apply keeps_ite | apply writeNibble_keeps | apply keeps_foldl | apply keeps_foldl_fst | apply keeps_foldl_snd) | split)

theorem writeOuts_keeps {s0 : State} {ctx} {flight} {outs} {nibs} {s : State} (h : Keeps s0 s) :
    Keeps s0 (writeOuts ctx flight outs nibs s) := by
  unfold writeOuts; try dsimp only
  repeat' (first | intro _ | (with_reducible first | assumption | apply keeps_ite | apply writeNibbleVa_keeps | apply noteAcc_keeps | apply writeVa_keeps | apply keeps_foldl | apply keeps_foldl_fst | apply keeps_foldl_snd) | split)

theorem release_keeps {s0 : State} {k} {e} {s : State} (h : Keeps s0 s) :
    Keeps s0 (release k e s) := by
  unfold release; try dsimp only
  repeat' (first | intro _ | (with_reducible first | assumption | apply keeps_ite | apply writeOuts_keeps | apply fenceRaise_keeps | apply keeps_foldl | apply keeps_foldl_fst | apply keeps_foldl_snd) | split)

theorem signalHeld_keeps {s0 : State} {k} {s : State} (h : Keeps s0 s) :
    Keeps s0 (signalHeld k s) := by
  unfold signalHeld; try dsimp only
  repeat' (first | (with_reducible first | assumption | apply keeps_ite | apply trySignal_keeps) | split)

theorem touchResolved_keeps {s0 : State} {p} {s : State} (h : Keeps s0 s) :
    Keeps s0 (touchResolved p s) := by
  unfold touchResolved; try dsimp only
  repeat' (first | intro _ | (with_reducible first | assumption | apply keeps_ite | apply touchDone_keeps | apply keeps_foldl | apply keeps_foldl_fst | apply keeps_foldl_snd) | split)

theorem markCheck_keeps {s0 : State} {c} {st} {s : State} (h : Keeps s0 s) :
    Keeps s0 (markCheck c st s) := by
  unfold markCheck; try dsimp only
  repeat' (first | (with_reducible first | assumption | apply keeps_ite | apply setCheck_keeps | apply touchResolved_keeps) | (with_reducible apply keeps_mk; first | (with_reducible first | assumption | apply keeps_ite | apply setCheck_keeps | apply touchResolved_keeps) | split) | split)

theorem passCheck_keeps {s0 : State} {c} {k} {good} {s : State} (h : Keeps s0 s) :
    Keeps s0 (passCheck c k good s) := by
  unfold passCheck; try dsimp only
  repeat' (first | intro _ | (with_reducible first | assumption | apply keeps_ite | apply release_keeps | apply signalHeld_keeps | apply markCheck_keeps | apply renewAge_keeps | apply keeps_foldl | apply keeps_foldl_fst | apply keeps_foldl_snd) | split)

theorem logRetracted_keeps {s0 : State} {c} {p} {s : State} (h : Keeps s0 s) :
    Keeps s0 (logRetracted c p s) := by
  unfold logRetracted; try dsimp only
  repeat' (first | (with_reducible first | assumption | apply keeps_ite | apply updInteg_keeps) | split)

theorem quarantineAll_keeps {s0 : State} {ts} {s : State} (h : Keeps s0 s) :
    Keeps s0 (quarantineAll ts s) := by
  unfold quarantineAll; try dsimp only
  repeat' (first | intro _ | (with_reducible first | assumption | apply keeps_ite | apply quarantine_keeps | apply keeps_foldl | apply keeps_foldl_fst | apply keeps_foldl_snd) | split)

theorem sendAll_keeps {s0 : State} {ps} {m} {s : State} (h : Keeps s0 s) :
    Keeps s0 (sendAll ps m s) := by
  unfold sendAll; try dsimp only
  repeat' (first | intro _ | (with_reducible first | assumption | apply keeps_ite | apply sendMsg_keeps | apply keeps_foldl | apply keeps_foldl_fst | apply keeps_foldl_snd) | split)

theorem sendRetract_keeps {s0 : State} {c} {beat} {s : State} (h : Keeps s0 s) :
    Keeps s0 (sendRetract c beat s) := by
  unfold sendRetract; try dsimp only
  repeat' (first | (with_reducible first | assumption | apply keeps_ite | apply sendAll_keeps) | split)

theorem retractFlight_keeps {s0 : State} {n} {s : State} (h : Keeps s0 s) :
    Keeps s0 (retractFlight n s) := by
  unfold retractFlight; try dsimp only
  repeat' (first | intro _ | (with_reducible first | assumption | apply keeps_ite | apply dropFlight_keeps | apply stopFlight_keeps | apply updFlight_keeps | apply finishTop_keeps | apply keeps_foldl | apply keeps_foldl_fst | apply keeps_foldl_snd) | split)

theorem retractDependants_keeps {s0 : State} {c} {s : State} (h : Keeps s0 s) :
    Keeps s0 (retractDependants c s) := by
  unfold retractDependants; try dsimp only
  repeat' (first | intro _ | (with_reducible first | assumption | apply keeps_ite | apply retractFlight_keeps | apply keeps_foldl | apply keeps_foldl_fst | apply keeps_foldl_snd) | split)

theorem failCheck_keeps {s0 : State} {c} {k} {tiles} {s : State} (h : Keeps s0 s) :
    Keeps s0 (failCheck c k tiles s) := by
  unfold failCheck; try dsimp only
  repeat' (first | (with_reducible first | assumption | apply keeps_ite | apply logRetracted_keeps | apply markCheck_keeps | apply quarantineAll_keeps | apply sendRetract_keeps | apply retractDependants_keeps | apply retractFlight_keeps) | split)

theorem settleReplays_keeps {s0 : State} {s : State} (h : Keeps s0 s) :
    Keeps s0 (settleReplays s) := by
  unfold settleReplays; try dsimp only
  repeat' (first | intro _ | (with_reducible first | assumption | apply keeps_ite | apply updInteg_keeps | apply sendAll_keeps | apply keeps_foldl | apply keeps_foldl_fst | apply keeps_foldl_snd) | split)

theorem queueHost_keeps {s0 : State} {n} {q} {s : State} (h : Keeps s0 s) :
    Keeps s0 (queueHost n q s) := by
  unfold queueHost; try dsimp only
  repeat' (first | (with_reducible first | assumption | apply keeps_ite | apply updLink_keeps | apply updFlight_keeps) | split)

theorem queueReads_keeps {s0 : State} {n} {func} {host} {segs} {s : State} (h : Keeps s0 s) :
    Keeps s0 (queueReads n func host segs s) := by
  unfold queueReads; try dsimp only
  repeat' (first | intro _ | (with_reducible first | assumption | apply keeps_ite | apply queueHost_keeps | apply keeps_foldl | apply keeps_foldl_fst | apply keeps_foldl_snd) | split)

theorem takeEngine_keeps {s0 : State} {base} {r} {n} {s : State} (h : Keeps s0 s) :
    Keeps s0 (takeEngine base r n s) := by
  unfold takeEngine; try dsimp only
  repeat' (first | (with_reducible first | assumption | apply keeps_ite | apply updFlight_keeps) | split)

theorem issueHost_keeps {s0 : State} {q} {s : State} (h : Keeps s0 s) :
    Keeps s0 (issueHost q s) := by
  unfold issueHost; try dsimp only
  repeat' (first | (with_reducible first | assumption | apply keeps_ite | apply updLink_keeps | apply updOut_keeps | apply trySignal_keeps | apply touchDone_keeps | apply updFlight_keeps) | split)

theorem issuePieces_keeps {s0 : State} {k : Nat} {s : State} (h : Keeps s0 s) : Keeps s0 (issuePieces k s) := by
  induction k generalizing s with
  | zero => exact h
  | succ n ih =>
    unfold issuePieces
    split
    · exact ih (updLink_keeps (issueHost_keeps h))
    · exact h

theorem rejectReq_keeps {s0 : State} {q} {s : State} (h : Keeps s0 s) :
    Keeps s0 (rejectReq q s) := by
  unfold rejectReq; try dsimp only
  repeat' (first | intro _ | (with_reducible first | assumption | apply keeps_ite | apply updLink_keeps | apply writePhys_keeps | apply noteAcc_keeps | apply updFlight_keeps | apply finishFlight_keeps | apply haltQueue_keeps | apply placeStatus_keeps) | split)

theorem issueHosts_keeps {s0 : State} {s : State} (h : Keeps s0 s) :
    Keeps s0 (issueHosts s) := by
  unfold issueHosts; try dsimp only
  repeat' (first | intro _ | (with_reducible first | assumption | apply keeps_ite | apply issuePieces_keeps | apply rejectReq_keeps | apply keeps_foldl | apply keeps_foldl_fst | apply keeps_foldl_snd) | split)

theorem runH2d_keeps {s0 : State} {ctx} {r} {n} {s : State} (h : Keeps s0 s) :
    Keeps s0 (runH2d ctx r n s) := by
  unfold runH2d; try dsimp only
  repeat' (first | intro _ | (with_reducible first | assumption | apply keeps_ite | apply finishFlight_keeps | apply queueReads_keeps | apply takeEngine_keeps | apply issueHosts_keeps | apply meterHbm_keeps | apply meterHost_keeps | apply updFlight_keeps | apply keeps_foldl | apply keeps_foldl_fst | apply keeps_foldl_snd) | split)

theorem queueWrite_keeps {s0 : State} {n} {func} {host} {bs} {s : State} (h : Keeps s0 s) :
    Keeps s0 (queueWrite n func host bs s) := by
  unfold queueWrite; try dsimp only
  repeat' (first | intro _ | (with_reducible first | assumption | apply keeps_ite | apply queueHost_keeps | apply keeps_foldl | apply keeps_foldl_fst | apply keeps_foldl_snd) | split)

theorem runD2h_keeps {s0 : State} {r} {n} {s : State} (h : Keeps s0 s) :
    Keeps s0 (runD2h r n s) := by
  unfold runD2h; try dsimp only
  repeat' (first | intro _ | (with_reducible first | assumption | apply keeps_ite | apply noteAcc_keeps | apply queueWrite_keeps | apply takeEngine_keeps | apply issueHosts_keeps | apply finishFlight_keeps | apply meterHbm_keeps | apply meterHost_keeps | apply keeps_foldl | apply keeps_foldl_fst | apply keeps_foldl_snd) | split)

theorem meterD2d_keeps {s0 : State} {p} {bytes} {s : State} (h : Keeps s0 s) :
    Keeps s0 (meterD2d p bytes s) := by
  unfold meterD2d; try dsimp only
  repeat' (first | (with_reducible first | assumption | apply keeps_ite | apply updPart_keeps) | split)

theorem runD2d_keeps {s0 : State} {r} {n} {s : State} (h : Keeps s0 s) :
    Keeps s0 (runD2d r n s) := by
  unfold runD2d; try dsimp only
  repeat' (first | intro _ | (with_reducible first | assumption | apply keeps_ite | apply writeVa_keeps | apply meterD2d_keeps | apply noteAcc_keeps | apply finishFlight_keeps | apply meterHbm_keeps | apply keeps_foldl | apply keeps_foldl_fst | apply keeps_foldl_snd) | split)

theorem runNet_keeps {s0 : State} {lc} {r} {n} {s : State} (h : Keeps s0 s) :
    Keeps s0 (runNet lc r n s) := by
  unfold runNet; try dsimp only
  repeat' (first | intro _ | (with_reducible first | assumption | apply keeps_ite | apply finishFlight_keeps | apply updFlight_keeps | apply sendMsg_keeps | apply noteAcc_keeps | apply keeps_foldl | apply keeps_foldl_fst | apply keeps_foldl_snd) | (with_reducible apply keeps_mkMem; exact fun w => w; first | (with_reducible first | assumption | apply keeps_ite | apply finishFlight_keeps | apply updFlight_keeps | apply sendMsg_keeps | apply noteAcc_keeps | apply keeps_foldl | apply keeps_foldl_fst | apply keeps_foldl_snd) | split) | split)

theorem startGraph_keeps {s0 : State} {r} {n} {s : State} (h : Keeps s0 s) :
    Keeps s0 (startGraph r n s) := by
  unfold startGraph; try dsimp only
  repeat' (first | (with_reducible first | assumption | apply keeps_ite | apply updFlight_keeps) | split)

theorem noteUnreachable_keeps {s0 : State} {n} {s : State} (h : Keeps s0 s) :
    Keeps s0 (noteUnreachable n s) := by
  unfold noteUnreachable; try dsimp only
  repeat' (first | (with_reducible first | assumption | apply keeps_ite | apply updFlight_keeps) | split)

theorem sendKeys_keeps {s0 : State} {n} {part} {context} {op} {die} {total} {fs} {g} {peer} {ks} {s : State} (h : Keeps s0 s) :
    Keeps s0 (sendKeys n part context op die total fs g peer ks s) := by
  unfold sendKeys; try dsimp only
  repeat' (first | intro _ | (with_reducible first | assumption | apply keeps_ite | apply sendGw_keeps | apply keeps_foldl | apply keeps_foldl_fst | apply keeps_foldl_snd) | split)

theorem sendGather_keeps {s0 : State} {n} {f} {rs} {g} {s : State} (h : Keeps s0 s) :
    Keeps s0 (sendGather n f rs g s) := by
  unfold sendGather; try dsimp only
  repeat' (first | intro _ | (with_reducible first | assumption | apply keeps_ite | apply noteUnreachable_keeps | apply updGather_keeps | apply sendKeys_keeps | apply keeps_foldl | apply keeps_foldl_fst | apply keeps_foldl_snd) | split)

theorem meterKeys_keeps {s0 : State} {p} {n} {s : State} (h : Keeps s0 s) :
    Keeps s0 (meterKeys p n s) := by
  unfold meterKeys; try dsimp only
  repeat' (first | (with_reducible first | assumption | apply keeps_ite | apply updPart_keeps) | split)

theorem startGather_keeps {s0 : State} {r} {n} {s : State} (h : Keeps s0 s) :
    Keeps s0 (startGather r n s) := by
  unfold startGather; try dsimp only
  repeat' (first | intro _ | (with_reducible first | assumption | apply keeps_ite | apply updTable_keeps | apply writeVa_keeps | apply noteAcc_keeps | apply updFlight_keeps | apply sendGather_keeps | apply beginBatches_keeps | apply meterKeys_keeps | apply keeps_foldl | apply keeps_foldl_fst | apply keeps_foldl_snd) | split)

theorem replayFlight_keeps {s0 : State} {n} {s : State} (h : Keeps s0 s) :
    Keeps s0 (replayFlight n s) := by
  unfold replayFlight; try dsimp only
  repeat' (first | intro _ | (with_reducible first | assumption | apply keeps_ite | apply dropFlight_keeps | apply stopFlight_keeps | apply updFlight_keeps | apply runH2d_keeps | apply runD2h_keeps | apply runD2d_keeps | apply runNet_keeps | apply updKernel_keeps | apply startGraph_keeps | apply startGather_keeps | apply finishFlight_keeps | apply keeps_foldl | apply keeps_foldl_fst | apply keeps_foldl_snd) | split)

theorem replayAll_keeps {s0 : State} {check} {sender} {ns} {s : State} (h : Keeps s0 s) :
    Keeps s0 (replayAll check sender ns s) := by
  unfold replayAll; try dsimp only
  repeat' (first | intro _ | (with_reducible first | assumption | apply keeps_ite | apply retractFlight_keeps | apply replayFlight_keeps | apply updInteg_keeps | apply keeps_foldl | apply keeps_foldl_fst | apply keeps_foldl_snd) | split)

theorem replayNodes_keeps {s0 : State} {g} {is} {s : State} (h : Keeps s0 s) :
    Keeps s0 (replayNodes g is s) := by
  unfold replayNodes; try dsimp only
  repeat' (first | intro _ | (with_reducible first | assumption | apply keeps_ite | apply dropFlight_keeps | apply stopFlight_keeps | apply updFlight_keeps | apply keeps_foldl | apply keeps_foldl_fst | apply keeps_foldl_snd) | split)

theorem correctCheck_keeps {s0 : State} {c} {k} {third} {s : State} (h : Keeps s0 s) :
    Keeps s0 (correctCheck c k third s) := by
  unfold correctCheck; try dsimp only
  repeat' (first | intro _ | (with_reducible first | assumption | apply keeps_ite | apply release_keeps | apply logRetracted_keeps | apply signalHeld_keeps | apply markCheck_keeps | apply quarantineAll_keeps | apply sendRetract_keeps | apply settleReplays_keeps | apply replayAll_keeps | apply retractFlight_keeps | apply updInteg_keeps | apply replayFlight_keeps | apply replayNodes_keeps | apply keeps_foldl | apply keeps_foldl_fst | apply keeps_foldl_snd) | split)

theorem compareCheck_keeps {s0 : State} {c} {s : State} (h : Keeps s0 s) :
    Keeps s0 (compareCheck c s) := by
  unfold compareCheck; try dsimp only
  repeat' (first | (with_reducible first | assumption | apply keeps_ite | apply passCheck_keeps | apply failCheck_keeps | apply emit_keeps | apply quarantineAll_keeps | apply correctCheck_keeps | apply renewAge_keeps) | split)

theorem pushShadow_keeps {s0 : State} {q} {irq} {b} {s : State} (h : Keeps s0 s) :
    Keeps s0 (pushShadow q irq b s) := by
  unfold pushShadow; try dsimp only
  repeat' (first | (with_reducible first | assumption | apply keeps_ite | apply updQueue_keeps) | split)

theorem putRing_keeps {s0 : State} {q} {shadow} {irq} {b} {s : State} (h : Keeps s0 s) :
    Keeps s0 (putRing q shadow irq b s) := by
  unfold putRing; try dsimp only
  repeat' (first | (with_reducible first | assumption | apply keeps_ite | apply updOut_keeps | apply putVa_keeps | apply updQueue_keeps | apply msix_keeps) | split)

theorem writeRecord_keeps {s0 : State} {q} {opcode} {rejected} {irq} {b} {s : State} (h : Keeps s0 s) :
    Keeps s0 (writeRecord q opcode rejected irq b s) := by
  unfold writeRecord; try dsimp only
  repeat' (first | (with_reducible first | assumption | apply keeps_ite | apply pushShadow_keeps | apply updQueue_keeps | apply blockedRecords_keeps | apply putRing_keeps) | split)

theorem firstRecord_keeps {s0 : State} {f} {measured} {rejected} {s : State} (h : Keeps s0 s) :
    Keeps s0 (firstRecord f measured rejected s) := by
  unfold firstRecord; try dsimp only
  repeat' (first | (with_reducible first | assumption | apply keeps_ite | apply updFlight_keeps | apply writeRecord_keeps) | split)

theorem signalNow_keeps {s0 : State} {f} {s : State} (h : Keeps s0 s) :
    Keeps s0 (signalNow f s) := by
  unfold signalNow; try dsimp only
  repeat' (first | (with_reducible first | assumption | apply keeps_ite | apply updFlight_keeps | apply fenceRaise_keeps) | split)

theorem settleEnergy_keeps {s0 : State} {f} {measured} {s : State} (h : Keeps s0 s) :
    Keeps s0 (settleEnergy f measured s) := by
  unfold settleEnergy; try dsimp only
  repeat' (first | (with_reducible first | assumption | apply keeps_ite | apply updPart_keeps | apply emit_keeps) | split)

theorem respond_keeps {s0 : State} {f} {b} {s : State} (h : Keeps s0 s) :
    Keeps s0 (respond f b s) := by
  unfold respond; try dsimp only
  repeat' (first | (with_reducible first | assumption | apply keeps_ite | apply sendMsg_keeps) | split)

theorem finalRecord_keeps {s0 : State} {f} {measured} {rejected} {s : State} (h : Keeps s0 s) :
    Keeps s0 (finalRecord f measured rejected s) := by
  unfold finalRecord; try dsimp only
  repeat' (first | intro _ | (with_reducible first | assumption | apply keeps_ite | apply haltQueue_keeps | apply writeRecord_keeps | apply settleEnergy_keeps | apply monSample_keeps | apply dropFlight_keeps | apply respond_keeps | apply keeps_foldl | apply keeps_foldl_fst | apply keeps_foldl_snd) | split)

theorem completeFlight_keeps {s0 : State} {n} {measured} {rejected} {s : State} (h : Keeps s0 s) :
    Keeps s0 (completeFlight n measured rejected s) := by
  unfold completeFlight; try dsimp only
  repeat' (first | intro _ | (with_reducible first | assumption | apply keeps_ite | apply afterSnoops_keeps | apply firstRecord_keeps | apply signalNow_keeps | apply finalRecord_keeps) | split)

theorem writeHist_keeps {s0 : State} {f} {k} {i} {d} {s : State} (h : Keeps s0 s) :
    Keeps s0 (writeHist f k i d s) := by
  unfold writeHist; try dsimp only
  repeat' (first | (with_reducible first | assumption | apply keeps_ite | apply writeVa_keeps | apply noteAcc_keeps) | split)

theorem completeKernel_keeps {s0 : State} {f} {k} {s : State} (h : Keeps s0 s) :
    Keeps s0 (completeKernel f k s) := by
  unfold completeKernel; try dsimp only
  repeat' (first | intro _ | (with_reducible first | assumption | apply keeps_ite | apply writeHist_keeps | apply writeVa_keeps | apply noteAcc_keeps | apply settleReplays_keeps | apply finishFlight_keeps | apply keeps_foldl | apply keeps_foldl_fst | apply keeps_foldl_snd) | split)

theorem sendMismatch_keeps {s0 : State} {peer} {peerEpoch} {peerDigest} {s : State} (h : Keeps s0 s) :
    Keeps s0 (sendMismatch peer peerEpoch peerDigest s) := by
  unfold sendMismatch; try dsimp only
  repeat' (first | (with_reducible first | assumption | apply keeps_ite | apply updGroup_keeps | apply sendMsg_keeps) | split)

theorem configNack_keeps {s0 : State} {peer} {epoch} {digest} {s : State} (h : Keeps s0 s) :
    Keeps s0 (configNack peer epoch digest s) := by
  unfold configNack; try dsimp only
  repeat' (first | (with_reducible first | assumption | apply keeps_ite | apply updGroup_keeps | apply sendMismatch_keeps) | split)

theorem consumer_keeps {s0 : State} {v} {n} {s : State} (h : Keeps s0 s) :
    Keeps s0 (consumer v n s) := by
  unfold consumer; try dsimp only
  repeat' (first | (with_reducible first | assumption | apply keeps_ite | apply updQueue_keeps) | split)

theorem updSub_keeps {s0 : State} {k} {f} {s : State} (h : Keeps s0 s) :
    Keeps s0 (updSub k f s) := by
  unfold updSub; try dsimp only
  repeat' (first | (with_reducible first | assumption | apply keeps_ite) | (with_reducible apply keeps_mk; first | (with_reducible first | assumption | apply keeps_ite) | split) | split)

theorem countDrop_keeps {s0 : State} {sub} {s : State} (h : Keeps s0 s) :
    Keeps s0 (countDrop sub s) := by
  unfold countDrop; try dsimp only
  repeat' (first | (with_reducible first | assumption | apply keeps_ite | apply updSub_keeps) | split)

theorem countNull_keeps {s0 : State} {x} {s : State} (h : Keeps s0 s) :
    Keeps s0 (countNull x s) := by
  unfold countNull; try dsimp only
  repeat' (first | (with_reducible first | assumption | apply keeps_ite | apply updTable_keeps) | split)

theorem countRejected_keeps {s0 : State} {m} {s : State} (h : Keeps s0 s) :
    Keeps s0 (countRejected m s) := by
  unfold countRejected; try dsimp only
  repeat' (first | (with_reducible first | assumption | apply keeps_ite | apply addParam_keeps) | split)

theorem createDomain_keeps {s0 : State} {k} {s : State} (h : Keeps s0 s) :
    Keeps s0 (createDomain k s) := by
  unfold createDomain; try dsimp only
  repeat' (first | (with_reducible first | assumption | apply keeps_ite | apply updSec_keeps) | split)

theorem createTable_keeps {s0 : State} {r} {s : State} (h : Keeps s0 s) :
    Keeps s0 (createTable r s) := by
  unfold createTable; try dsimp only
  repeat' (first | (with_reducible first | assumption | apply keeps_ite | apply updTables_keeps) | split)

theorem cxlDenied_keeps {s0 : State} {write} {pa} {s : State} (h : Keeps s0 s) :
    Keeps s0 (cxlDenied write pa s) := by
  unfold cxlDenied; try dsimp only
  repeat' (first | (with_reducible first | assumption | apply keeps_ite | apply emit_keeps) | split)

theorem cxlBlocked_keeps {s0 : State} {pa} {s : State} (h : Keeps s0 s) :
    Keeps s0 (cxlBlocked pa s) := by
  unfold cxlBlocked; try dsimp only
  repeat' (first | (with_reducible first | assumption | apply keeps_ite | apply cxlDenied_keeps | apply faultPut_keeps) | exact keepsRes_fault | split)

theorem cxlReply_keeps {s0 : State} {addr} {poison} {data} {s : State} (h : Keeps s0 s) :
    Keeps s0 (cxlReply addr poison data s) := by
  unfold cxlReply; try dsimp only
  repeat' (first | (with_reducible first | assumption | apply keeps_ite | apply updOut_keeps) | split)

theorem meterCxl_keeps {s0 : State} {line} {s : State} (h : Keeps s0 s) :
    Keeps s0 (meterCxl line s) := by
  unfold meterCxl; try dsimp only
  repeat' (first | (with_reducible first | assumption | apply keeps_ite | apply meterHost_keeps) | split)

theorem cxlStore_keeps {s0 : State} {line} {data} {s : State} (h : Keeps s0 s) :
    Keeps s0 (cxlStore line data s) := by
  unfold cxlStore; try dsimp only
  repeat' (first | intro _ | (with_reducible first | assumption | apply keeps_ite | apply writePhys_keeps | apply countErrors_keeps) | split)

theorem filterPut_keeps {s0 : State} {line} {ex} {s : State} (h : Keeps s0 s) :
    Keeps s0 (filterPut line ex s) := by
  unfold filterPut; try dsimp only
  repeat' (first | (with_reducible first | assumption | apply keeps_ite | apply updLink_keeps) | split)

theorem cxlServe_keeps {s0 : State} {line} {ex} {data} {s : State} (h : Keeps s0 s) :
    Keeps s0 (cxlServe line ex data s) := by
  unfold cxlServe; try dsimp only
  repeat' (first | (with_reducible first | assumption | apply keeps_ite | apply meterCxl_keeps | apply cxlStore_keeps | apply filterPut_keeps | apply countErrors_keeps | apply emit_keeps | apply cxlReply_keeps) | split)

theorem cxlRequest_keeps {s0 : State} {line} {ex} {data} {s : State} (h : Keeps s0 s) :
    Keeps s0 (cxlRequest line ex data s) := by
  unfold cxlRequest; try dsimp only
  repeat' (first | (with_reducible first | assumption | apply keeps_ite | apply cxlServe_keeps | apply updOut_keeps | apply updLink_keeps) | split)

theorem dbgAbort_keeps {s0 : State} {func} {s : State} (h : Keeps s0 s) :
    Keeps s0 (dbgAbort func s) := by
  unfold dbgAbort; try dsimp only
  repeat' (first | (with_reducible first | assumption | apply keeps_ite | apply abortFlight_keeps) | split)

theorem dbgResume_keeps {s0 : State} {func} {s : State} (h : Keeps s0 s) :
    Keeps s0 (dbgResume func s) := by
  unfold dbgResume; try dsimp only
  repeat' (first | (with_reducible first | assumption | apply keeps_ite | apply updTile_keeps) | split)

theorem outPut_keeps {s0 : State} {t} {a} {bs} {s : State} (h : Keeps s0 s) :
    Keeps s0 (outPut t a bs s) := by
  unfold outPut; try dsimp only
  repeat' (first | (with_reducible first | assumption | apply keeps_ite | apply updTile_keeps) | split)

theorem nibPut_keeps {s0 : State} {t} {x} {s : State} (h : Keeps s0 s) :
    Keeps s0 (nibPut t x s) := by
  unfold nibPut; try dsimp only
  repeat' (first | (with_reducible first | assumption | apply keeps_ite | apply updTile_keeps) | split)

theorem storeOut_keeps {s0 : State} {t} {r} {f} {stores} {nibbles} {s : State} (h : Keeps s0 s) :
    Keeps s0 (storeOut t r f stores nibbles s) := by
  unfold storeOut; try dsimp only
  repeat' (first | intro _ | (with_reducible first | assumption | apply keeps_ite | apply writeVa_keeps | apply noteAcc_keeps | apply outPut_keeps | apply writeNibbleVa_keeps | apply nibPut_keeps | apply keeps_foldl | apply keeps_foldl_fst | apply keeps_foldl_snd) | split)

theorem deliver_keeps {s0 : State} {t} {r} {f} {m} {d} {o} {q} {replays} {s : State} (h : Keeps s0 s) :
    Keeps s0 (deliver t r f m d o q replays s) := by
  unfold deliver; try dsimp only
  repeat' (first | (with_reducible first | assumption | apply keeps_ite | apply clearAcc_keeps | apply storeOut_keeps | apply updTile_keeps) | split)

theorem destroyTables_keeps {s0 : State} {bs} {s : State} (h : Keeps s0 s) :
    Keeps s0 (destroyTables bs s) := by
  unfold destroyTables; try dsimp only
  repeat' (first | (with_reducible first | assumption | apply keeps_ite | apply updTables_keeps) | split)

theorem dieLost_keeps {s0 : State} {d : Nat} {s : State} (h : Keeps s0 s) : Keeps s0 (dieLost d s) :=
  ⟨h.1, fun w => filter_wf _ (h.2 w)⟩

theorem disableQueue_keeps {s0 : State} {q} {s : State} (h : Keeps s0 s) :
    Keeps s0 (disableQueue q s) := by
  unfold disableQueue; try dsimp only
  repeat' (first | (with_reducible first | assumption | apply keeps_ite | apply updQueue_keeps) | split)

theorem discardFlight_keeps {s0 : State} {n} {s : State} (h : Keeps s0 s) :
    Keeps s0 (discardFlight n s) := by
  unfold discardFlight; try dsimp only
  repeat' (first | intro _ | (with_reducible first | assumption | apply keeps_ite | apply dropFlight_keeps | apply stopFlight_keeps | apply keeps_foldl | apply keeps_foldl_fst | apply keeps_foldl_snd) | split)

theorem dispatchReady_keeps {s0 : State} {q} {c} {own} {start} {s : State} (ha : ∀ r n s, Keeps s0 s → Keeps s0 (start r n s)) (h : Keeps s0 s) :
    Keeps s0 (dispatchReady q c own start s) := by
  unfold dispatchReady; try dsimp only
  repeat' (first | (with_reducible first | assumption | apply keeps_ite | apply addFlight_keeps | apply popHead_keeps | apply badHead_keeps | apply ha) | split)

theorem makeReady_keeps {s0 : State} {r} {charge} {s : State} (h : Keeps s0 s) :
    Keeps s0 (makeReady r charge s) := by
  unfold makeReady; try dsimp only
  repeat' (first | (with_reducible first | assumption | apply keeps_ite | apply updQueue_keeps) | split)

theorem dispatch_keeps {s0 : State} {q} {match_} {charge} {own} {start} {s : State} (ha : ∀ r n s, Keeps s0 s → Keeps s0 (start r n s)) (h : Keeps s0 s) :
    Keeps s0 (dispatch q match_ charge own start s) := by
  unfold dispatch; try dsimp only
  repeat' (first | intro _ | (with_reducible first | assumption | apply keeps_ite | apply dispatchReady_keeps | apply failHead_keeps | apply updQueue_keeps | apply admitReady_keeps | apply makeReady_keeps | apply badHead_keeps | apply ha) | split)

theorem finishArmed_keeps {s0 : State} {n} {v} {s : State} (h : Keeps s0 s) :
    Keeps s0 (finishArmed n v s) := by
  unfold finishArmed; try dsimp only
  repeat' (first | (with_reducible first | assumption | apply keeps_ite | apply finishFlight_keeps | apply updFlight_keeps) | split)

theorem settleSync_keeps {s0 : State} {n} {s : State} (h : Keeps s0 s) :
    Keeps s0 (settleSync n s) := by
  unfold settleSync; try dsimp only
  repeat' (first | (with_reducible first | assumption | apply keeps_ite | apply finishFlight_keeps | apply updGroup_keeps | apply updFlight_keeps) | split)

theorem doCommit_keeps {s0 : State} {a} {s : State} (h : Keeps s0 s) :
    Keeps s0 (doCommit a s) := by
  unfold doCommit; try dsimp only
  repeat' (first | (with_reducible first | assumption | apply keeps_ite | apply finishArmed_keeps | apply updTable_keeps | apply updGroup_keeps | apply settleSync_keeps) | split)

theorem doPrepare_keeps {s0 : State} {a} {s : State} (h : Keeps s0 s) :
    Keeps s0 (doPrepare a s) := by
  unfold doPrepare; try dsimp only
  repeat' (first | (with_reducible first | assumption | apply keeps_ite | apply finishArmed_keeps | apply updTable_keeps | apply updTables_keeps) | split)

theorem hostAccess_keeps {s0 : State} {act} {s : State} (ha : ∀ s, Keeps s0 s → Keeps s0 (act s)) (h : Keeps s0 s) :
    Keeps s0 (hostAccess act s) := by
  unfold hostAccess; try dsimp only
  repeat' (first | (with_reducible first | assumption | apply keeps_ite | apply wake_keeps | apply ha) | split)

theorem onQueue_keeps {s0 : State} {func} {q} {act} {s : State} (ha : ∀ n s, Keeps s0 s → Keeps s0 (act n s)) (h : Keeps s0 s) :
    Keeps s0 (onQueue func q act s) := by
  unfold onQueue; try dsimp only
  repeat' (first | intro _ | (with_reducible first | assumption | apply keeps_ite | apply hostAccess_keeps | apply ha) | split)

theorem doorbell_keeps {s0 : State} {func} {q} {gen} {act} {s : State} (ha : ∀ n s, Keeps s0 s → Keeps s0 (act n s)) (h : Keeps s0 s) :
    Keeps s0 (doorbell func q gen act s) := by
  unfold doorbell; try dsimp only
  repeat' (first | intro _ | (with_reducible first | assumption | apply keeps_ite | apply onQueue_keeps | apply updQueue_keeps | apply wake_keeps | apply ha) | split)

theorem serveWriteBack_keeps {s0 : State} {r} {s : State} (h : Keeps s0 s) :
    Keeps s0 (serveWriteBack r s) := by
  unfold serveWriteBack; try dsimp only
  repeat' (first | intro _ | (with_reducible first | assumption | apply keeps_ite | apply updMem_keeps | (apply putGranule_wf)) | split)

theorem serveWrite_keeps {s0 : State} {r} {s : State} (h : Keeps s0 s) :
    Keeps s0 (serveWrite r s) := by
  unfold serveWrite; try dsimp only
  repeat' (first | intro _ | (with_reducible first | assumption | apply keeps_ite | apply writeMode_keeps | apply nibbleMode_keeps | apply reqDone_keeps | apply noteReq_keeps | apply keeps_foldl | apply keeps_foldl_fst | apply keeps_foldl_snd) | split)

theorem drainChannels_keeps {s0 : State} {s : State} (h : Keeps s0 s) :
    Keeps s0 (drainChannels s) := by
  unfold drainChannels; try dsimp only
  repeat' (first | intro _ | (with_reducible first | assumption | apply keeps_ite | apply serveWriteBack_keeps | apply serveWrite_keeps | apply updMem_keeps | apply keeps_foldl | apply keeps_foldl_fst | apply keeps_foldl_snd) | split)

theorem putFrame_keeps {s0 : State} {sub} {kind} {data} {s : State} (h : Keeps s0 s) :
    Keeps s0 (putFrame sub kind data s) := by
  unfold putFrame; try dsimp only
  repeat' (first | (with_reducible first | assumption | apply keeps_ite | apply updOut_keeps) | split)

theorem updPort_keeps {s0 : State} {k} {f} {s : State} (h : Keeps s0 s) :
    Keeps s0 (updPort k f s) := by
  unfold updPort; try dsimp only
  repeat' (first | (with_reducible first | assumption | apply keeps_ite) | (with_reducible apply keeps_mk; first | (with_reducible first | assumption | apply keeps_ite) | split) | split)

theorem pfcCheck_keeps {s0 : State} {sub} {s : State} (h : Keeps s0 s) :
    Keeps s0 (pfcCheck sub s) := by
  unfold pfcCheck; try dsimp only
  repeat' (first | intro _ | (with_reducible first | assumption | apply keeps_ite | apply putFrame_keeps | apply updPort_keeps | apply keeps_foldl | apply keeps_foldl_fst | apply keeps_foldl_snd) | split)

theorem drainRx_keeps {s0 : State} {sub} {cls} {payload} {s : State} (h : Keeps s0 s) :
    Keeps s0 (drainRx sub cls payload s) := by
  unfold drainRx; try dsimp only
  repeat' (first | (with_reducible first | assumption | apply keeps_ite | apply pfcCheck_keeps | apply updPort_keeps) | split)

theorem dropArmed_keeps {s0 : State} {l} {s : State} (h : Keeps s0 s) :
    Keeps s0 (dropArmed l s) := by
  unfold dropArmed; try dsimp only
  repeat' (first | (with_reducible first | assumption | apply keeps_ite | apply updTables_keeps) | split)

theorem recheckMapouts_keeps {s0 : State} {s : State} (h : Keeps s0 s) :
    Keeps s0 (recheckMapouts s) := by
  unfold recheckMapouts; try dsimp only
  repeat' (first | intro _ | (with_reducible first | assumption | apply keeps_ite | apply mapoutTry_keeps | apply keeps_foldl | apply keeps_foldl_fst | apply keeps_foldl_snd) | split)

theorem removeExtent_keeps {s0 : State} {i} {s : State} (h : Keeps s0 s) :
    Keeps s0 (removeExtent i s) := by
  unfold removeExtent; try dsimp only
  repeat' (first | intro _ | (with_reducible first | assumption | apply keeps_ite | apply updMem_keeps) | split)

theorem removeExtents_keeps {s0 : State} {is} {s : State} (h : Keeps s0 s) :
    Keeps s0 (removeExtents is s) := by
  unfold removeExtents; try dsimp only
  repeat' (first | intro _ | (with_reducible first | assumption | apply keeps_ite | apply removeExtent_keeps | apply faultPut_keeps | apply keeps_foldl | apply keeps_foldl_fst | apply keeps_foldl_snd) | exact keepsRes_fault | split)

theorem dropExtents_keeps {s0 : State} {is} {s : State} (h : Keeps s0 s) :
    Keeps s0 (dropExtents is s) := by
  unfold dropExtents; try dsimp only
  repeat' (first | (with_reducible first | assumption | apply keeps_ite | apply recheckMapouts_keeps | apply removeExtents_keeps) | split)

theorem dropOldChecks_keeps {s0 : State} {s : State} (h : Keeps s0 s) :
    Keeps s0 (dropOldChecks s) := by
  unfold dropOldChecks; try dsimp only
  repeat' (first | (with_reducible first | assumption | apply keeps_ite | apply updInteg_keeps) | split)

theorem dropProv_keeps {s0 : State} {p} {s : State} (h : Keeps s0 s) :
    Keeps s0 (dropProv p s) := by
  unfold dropProv; try dsimp only
  repeat' (first | (with_reducible first | assumption | apply keeps_ite | apply updInteg_keeps | apply touchResolved_keeps) | split)

theorem recorderStop_keeps {s0 : State} {s : State} (h : Keeps s0 s) :
    Keeps s0 (recorderStop s) := by
  unfold recorderStop; try dsimp only
  repeat' (first | (with_reducible first | assumption | apply keeps_ite | apply updTele_keeps) | split)

theorem dropRegions_keeps {s0 : State} {hit} {s : State} (h : Keeps s0 s) :
    Keeps s0 (dropRegions hit s) := by
  unfold dropRegions; try dsimp only
  repeat' (first | intro _ | (with_reducible first | assumption | apply keeps_ite | apply updMem_keeps | apply updTele_keeps | apply recorderStop_keeps) | exact keepsRes_fault | split)

theorem dropRetracted_keeps {s0 : State} {d} {c} {s : State} (h : Keeps s0 s) :
    Keeps s0 (dropRetracted d c s) := by
  unfold dropRetracted; try dsimp only
  repeat' (first | (with_reducible first | assumption | apply keeps_ite | apply updFlow_keeps | apply dropProv_keeps) | split)

theorem dropSlots_keeps {s0 : State} {k} {s : State} (h : Keeps s0 s) :
    Keeps s0 (dropSlots k s) := by
  unfold dropSlots; try dsimp only
  repeat' (first | intro _ | (with_reducible first | assumption | apply keeps_ite | apply fillSlots_keeps | apply updMem_keeps) | split)

theorem dropTracking_keeps {s0 : State} {id} {t} {s : State} (h : Keeps s0 s) :
    Keeps s0 (dropTracking id t s) := by
  unfold dropTracking; try dsimp only
  repeat' (first | (with_reducible first | assumption | apply keeps_ite | apply addParam_keeps | apply updTables_keeps) | split)

theorem echoBeat_keeps {s0 : State} {n} {t} {s : State} (h : Keeps s0 s) :
    Keeps s0 (echoBeat n t s) := by
  unfold echoBeat; try dsimp only
  repeat' (first | (with_reducible first | assumption | apply keeps_ite | apply updFlight_keeps) | split)

theorem wakeForBeat_keeps {s0 : State} {s : State} (h : Keeps s0 s) :
    Keeps s0 (wakeForBeat s) := by
  unfold wakeForBeat; try dsimp only
  repeat' (first | (with_reducible first | assumption | apply keeps_ite | apply wake_keeps) | split)

theorem suppressedBeat_keeps {s0 : State} {s : State} (h : Keeps s0 s) :
    Keeps s0 (suppressedBeat s) := by
  unfold suppressedBeat; try dsimp only
  repeat' (first | intro _ | (with_reducible first | assumption | apply keeps_ite | apply updTele_keeps | apply emit_keeps | apply keeps_foldl | apply keeps_foldl_fst | apply keeps_foldl_snd) | split)

theorem monClose_keeps {s0 : State} {isPartial} {m} {s : State} (h : Keeps s0 s) :
    Keeps s0 (monClose isPartial m s).1 := by
  unfold monClose; try dsimp only
  repeat' (first | (with_reducible first | assumption | apply keeps_ite | apply putVa_keeps) | split)

theorem monBeat_keeps {s0 : State} {beat} {degr} {x} {m} (h : Keeps s0 x.1) :
    Keeps s0 (monBeat beat degr x m).1 := by
  unfold monBeat; try dsimp only
  repeat' (first | (with_reducible first | assumption | apply keeps_ite | apply monClose_keeps) | split)

theorem monitorsBeat_keeps {s0 : State} {s : State} (h : Keeps s0 s) :
    Keeps s0 (monitorsBeat s) := by
  unfold monitorsBeat; try dsimp only
  repeat' (first | intro _ | (with_reducible first | assumption | apply keeps_ite | apply monBeat_keeps | apply updTele_keeps | apply keeps_foldl | apply keeps_foldl_fst | apply keeps_foldl_snd) | split)

theorem seedStreams_keeps {s0 : State} {s : State} (h : Keeps s0 s) :
    Keeps s0 (seedStreams s) := by
  unfold seedStreams; try dsimp only
  repeat' (first | (with_reducible first | assumption | apply keeps_ite | apply updInteg_keeps | apply updSec_keeps) | split)

theorem edgeBegin_keeps {s0 : State} {e} {s : State} (h : Keeps s0 s) :
    Keeps s0 (edgeBegin e s) := by
  unfold edgeBegin; try dsimp only
  repeat' (first | (with_reducible first | assumption | apply keeps_ite | apply advance_keeps | apply updBeat_keeps | apply wakeForBeat_keeps | apply suppressedBeat_keeps | apply monitorsBeat_keeps | apply seedStreams_keeps | apply billBeat_keeps) | split)

theorem retireEnd_keeps {s0 : State} {c} {s : State} (h : Keeps s0 s) :
    Keeps s0 (retireEnd c s) := by
  unfold retireEnd; try dsimp only
  repeat' (first | intro _ | (with_reducible first | assumption | apply keeps_ite | apply dropExtents_keeps | apply updMem_keeps | apply finishFlight_keeps | apply keeps_foldl | apply keeps_foldl_fst | apply keeps_foldl_snd) | split)

theorem retireStart_keeps {s0 : State} {c} {n} {s : State} (h : Keeps s0 s) :
    Keeps s0 (retireStart c n s) := by
  unfold retireStart; try dsimp only
  repeat' (first | intro _ | (with_reducible first | assumption | apply keeps_ite | apply updMem_keeps | apply abortFlight_keeps | apply discardFlight_keeps | apply clearStreams_keeps | apply updTables_keeps | apply dropRegions_keeps | apply keeps_foldl | apply keeps_foldl_fst | apply keeps_foldl_snd) | split)

theorem loseSegs_keeps {s0 : State} {es} {s : State} (h : Keeps s0 s) :
    Keeps s0 (loseSegs es s) := by
  unfold loseSegs; try dsimp only
  repeat' (first | (with_reducible first | assumption | apply keeps_ite) | (with_reducible apply keeps_mk; first | (with_reducible first | assumption | apply keeps_ite) | split) | split)

theorem revokeExtents_keeps {s0 : State} {is} {st} {s : State} (h : Keeps s0 s) :
    Keeps s0 (revokeExtents is st s) := by
  unfold revokeExtents; try dsimp only
  repeat' (first | intro _ | (with_reducible first | assumption | apply keeps_ite | apply abortFlight_keeps | apply discardFlight_keeps | apply loseSegs_keeps | apply queueResetNow_keeps | apply dropExtents_keeps | apply dropRegions_keeps | apply keeps_foldl | apply keeps_foldl_fst | apply keeps_foldl_snd) | split)

theorem eraseDomain_keeps {s0 : State} {k} {s : State} (h : Keeps s0 s) :
    Keeps s0 (eraseDomain k s) := by
  unfold eraseDomain; try dsimp only
  repeat' (first | (with_reducible first | assumption | apply keeps_ite | apply updSec_keeps) | split)

theorem updNet_keeps {s0 : State} {f} {s : State} (h : Keeps s0 s) :
    Keeps s0 (updNet f s) := by
  unfold updNet; try dsimp only
  repeat' (first | (with_reducible first | assumption | apply keeps_ite) | (with_reducible apply keeps_mk; first | (with_reducible first | assumption | apply keeps_ite) | split) | split)

theorem trimMonitors_keeps {s0 : State} {p} {bs} {quota} {s : State} (h : Keeps s0 s) :
    Keeps s0 (trimMonitors p bs quota s) := by
  unfold trimMonitors; try dsimp only
  repeat' (first | intro _ | (with_reducible first | assumption | apply keeps_ite | apply updTele_keeps | apply keeps_foldl | apply keeps_foldl_fst | apply keeps_foldl_snd) | split)

theorem wipeTiles_keeps {s0 : State} {bs} {s : State} (h : Keeps s0 s) :
    Keeps s0 (wipeTiles bs s) := by
  unfold wipeTiles; try dsimp only
  repeat' (first | intro _ | (with_reducible first | assumption | apply keeps_ite | apply updTile_keeps | apply keeps_foldl | apply keeps_foldl_fst | apply keeps_foldl_snd) | split)

theorem resetBlocks_keeps {s0 : State} {p} {bs} {quota} {s : State} (h : Keeps s0 s) :
    Keeps s0 (resetBlocks p bs quota s) := by
  unfold resetBlocks; try dsimp only
  repeat' (first | intro _ | (with_reducible first | assumption | apply keeps_ite | apply discardFlight_keeps | apply queueResetNow_keeps | apply updMem_keeps | apply retireEnd_keeps | apply retireStart_keeps | apply revokeExtents_keeps | apply eraseDomain_keeps | apply destroyTables_keeps | apply updNet_keeps | apply trimMonitors_keeps | apply wipeTiles_keeps | apply keeps_foldl | apply keeps_foldl_fst | apply keeps_foldl_snd) | (with_reducible apply keeps_mk; first | (with_reducible first | assumption | apply keeps_ite | apply discardFlight_keeps | apply queueResetNow_keeps | apply updMem_keeps | apply retireEnd_keeps | apply retireStart_keeps | apply revokeExtents_keeps | apply eraseDomain_keeps | apply destroyTables_keeps | apply updNet_keeps | apply trimMonitors_keeps | apply wipeTiles_keeps | apply keeps_foldl | apply keeps_foldl_fst | apply keeps_foldl_snd) | split) | split)

theorem resetWhole_keeps {s0 : State} {p} {s : State} (h : Keeps s0 s) :
    Keeps s0 (resetWhole p s) := by
  unfold resetWhole; try dsimp only
  repeat' (first | intro _ | (with_reducible first | assumption | apply keeps_ite | apply updSched_keeps | apply updTele_keeps | apply updMem_keeps) | exact keepsRes_fault | split)

theorem removalReset_keeps {s0 : State} {r} {s : State} (h : Keeps s0 s) :
    Keeps s0 (removalReset r s) := by
  unfold removalReset; try dsimp only
  repeat' (first | (with_reducible first | assumption | apply keeps_ite | apply resetBlocks_keeps | apply resetWhole_keeps) | split)

theorem removalFree_keeps {s0 : State} {r} {s : State} (h : Keeps s0 s) :
    Keeps s0 (removalFree r s) := by
  unfold removalFree; try dsimp only
  repeat' (first | (with_reducible first | assumption | apply keeps_ite | apply updPart_keeps | apply updSched_keeps) | split)

theorem removalsStep5_keeps {s0 : State} {s : State} (h : Keeps s0 s) :
    Keeps s0 (removalsStep5 s) := by
  unfold removalsStep5; try dsimp only
  repeat' (first | intro _ | (with_reducible first | assumption | apply keeps_ite | apply removalReset_keeps | apply removalFree_keeps | apply updSched_keeps | apply keeps_foldl | apply keeps_foldl_fst | apply keeps_foldl_snd) | split)

theorem monitorsSwitch_keeps {s0 : State} {newBeat} {s : State} (h : Keeps s0 s) :
    Keeps s0 (monitorsSwitch newBeat s) := by
  unfold monitorsSwitch; try dsimp only
  repeat' (first | intro _ | (with_reducible first | assumption | apply keeps_ite | apply monClose_keeps | apply updTele_keeps | apply keeps_foldl | apply keeps_foldl_fst | apply keeps_foldl_snd) | split)

theorem groupDigest_keeps {s0 : State} {s : State} (h : Keeps s0 s) :
    Keeps s0 (groupDigest s) := by
  unfold groupDigest; try dsimp only
  repeat' (first | (with_reducible first | assumption | apply keeps_ite | apply updGroup_keeps) | split)

theorem serveGather_keeps {s0 : State} {w} {s : State} (h : Keeps s0 s) :
    Keeps s0 (serveGather w s) := by
  unfold serveGather; try dsimp only
  repeat' (first | intro _ | (with_reducible first | assumption | apply keeps_ite | apply countErrors_keeps | apply sendGw_keeps | apply meterKeys_keeps | apply updTables_keeps | apply keeps_foldl | apply keeps_foldl_fst | apply keeps_foldl_snd) | split)

theorem settleServed_keeps {s0 : State} {s : State} (h : Keeps s0 s) :
    Keeps s0 (settleServed s) := by
  unfold settleServed; try dsimp only
  repeat' (first | intro _ | (with_reducible first | assumption | apply keeps_ite | apply serveGather_keeps | apply freeAllDrained_keeps | apply keeps_foldl | apply keeps_foldl_fst | apply keeps_foldl_snd) | split)

theorem takeKeys_keeps {s0 : State} {peer} {part} {base} {context} {b} {s : State} (h : Keeps s0 s) :
    Keeps s0 (takeKeys peer part base context b s) := by
  unfold takeKeys; try dsimp only
  repeat' (first | (with_reducible first | assumption | apply keeps_ite | apply settleServed_keeps | apply updTables_keeps) | split)

theorem takeVec_keeps {s0 : State} {n} {f} {op} {g} {v} {s : State} (h : Keeps s0 s) :
    Keeps s0 (takeVec n f op g v s) := by
  unfold takeVec; try dsimp only
  repeat' (first | (with_reducible first | assumption | apply keeps_ite | apply updGather_keeps | apply writeVa_keeps | apply noteAcc_keeps) | split)

theorem takeAnswer_keeps {s0 : State} {peer} {b} {s : State} (h : Keeps s0 s) :
    Keeps s0 (takeAnswer peer b s) := by
  unfold takeAnswer; try dsimp only
  repeat' (first | intro _ | (with_reducible first | assumption | apply keeps_ite | apply takeVec_keeps | apply settleGather_keeps | apply updGather_keeps | apply keeps_foldl | apply keeps_foldl_fst | apply keeps_foldl_snd) | split)

theorem takeGrads_keeps {s0 : State} {peer} {base} {context} {src} {beat} {b} {s : State} (h : Keeps s0 s) :
    Keeps s0 (takeGrads peer base context src beat b s) := by
  unfold takeGrads; try dsimp only
  repeat' (first | intro _ | (with_reducible first | assumption | apply keeps_ite | apply updTables_keeps | apply collect_keeps | apply keeps_foldl | apply keeps_foldl_fst | apply keeps_foldl_snd) | split)

theorem takeGw_keeps {s0 : State} {peer} {m} {w} {s : State} (h : Keeps s0 s) :
    Keeps s0 (takeGw peer m w s) := by
  unfold takeGw; try dsimp only
  repeat' (first | intro _ | (with_reducible first | assumption | apply keeps_ite | apply takeKeys_keeps | apply takeAnswer_keeps | apply takeGrads_keeps | apply collect_keeps | apply keeps_foldl | apply keeps_foldl_fst | apply keeps_foldl_snd) | split)

theorem takeCopy_keeps {s0 : State} {e} {s : State} (h : Keeps s0 s) :
    Keeps s0 (takeCopy e s) := by
  unfold takeCopy; try dsimp only
  repeat' (first | (with_reducible first | assumption | apply keeps_ite | apply updTables_keeps | apply putPart_keeps) | split)

theorem takeFence_keeps {s0 : State} {h_} {s : State} (h : Keeps s0 s) :
    Keeps s0 (takeFence h_ s) := by
  unfold takeFence; try dsimp only
  repeat' (first | (with_reducible first | assumption | apply keeps_ite | apply fenceRaise_keeps) | split)

theorem takeSend_keeps {s0 : State} {m} {s : State} (h : Keeps s0 s) :
    Keeps s0 (takeSend m s) := by
  unfold takeSend; try dsimp only
  repeat' (first | (with_reducible first | assumption | apply keeps_ite | apply putVa_keeps | apply updQueue_keeps) | split)

theorem onClear_keeps {s0 : State} {d} {h_} {s : State} (h : Keeps s0 s) :
    Keeps s0 (onClear d h_ s) := by
  unfold onClear; try dsimp only
  repeat' (first | (with_reducible first | assumption | apply keeps_ite | apply replayAll_keeps | apply dropRetracted_keeps | apply updFlow_keeps | apply dropProv_keeps) | split)

theorem provFailed_keeps {s0 : State} {gone} {s : State} (h : Keeps s0 s) :
    Keeps s0 (provFailed gone s) := by
  unfold provFailed; try dsimp only
  repeat' (first | intro _ | (with_reducible first | assumption | apply keeps_ite | apply retractFlight_keeps | apply updInteg_keeps | apply keeps_foldl | apply keeps_foldl_fst | apply keeps_foldl_snd) | split)

theorem retractFailed_keeps {s0 : State} {d} {c} {s : State} (h : Keeps s0 s) :
    Keeps s0 (retractFailed d c s) := by
  unfold retractFailed; try dsimp only
  repeat' (first | intro _ | (with_reducible first | assumption | apply keeps_ite | apply dropRetracted_keeps | apply provFailed_keeps | apply retractFlight_keeps | apply keeps_foldl | apply keeps_foldl_fst | apply keeps_foldl_snd) | split)

theorem onRetract_keeps {s0 : State} {d} {h_} {s : State} (h : Keeps s0 s) :
    Keeps s0 (onRetract d h_ s) := by
  unfold onRetract; try dsimp only
  repeat' (first | (with_reducible first | assumption | apply keeps_ite | apply retractFailed_keeps | apply updFlow_keeps | apply updInteg_keeps) | split)

theorem onJoinReq_keeps {s0 : State} {h_} {b} {s : State} (h : Keeps s0 s) :
    Keeps s0 (onJoinReq h_ b s) := by
  unfold onJoinReq; try dsimp only
  repeat' (first | (with_reducible first | assumption | apply keeps_ite | apply updGroup_keeps | apply sendMsg_keeps) | split)

theorem onJoinAccept_keeps {s0 : State} {h_} {s : State} (h : Keeps s0 s) :
    Keeps s0 (onJoinAccept h_ s) := by
  unfold onJoinAccept; try dsimp only
  repeat' (first | (with_reducible first | assumption | apply keeps_ite | apply updGroup_keeps) | split)

theorem joinFail_keeps {s0 : State} {st} {s : State} (h : Keeps s0 s) :
    Keeps s0 (joinFail st s) := by
  unfold joinFail; try dsimp only
  repeat' (first | (with_reducible first | assumption | apply keeps_ite | apply finishFlight_keeps | apply updGroup_keeps) | split)

theorem onJoinRefuse_keeps {s0 : State} {h_} {s : State} (h : Keeps s0 s) :
    Keeps s0 (onJoinRefuse h_ s) := by
  unfold onJoinRefuse; try dsimp only
  repeat' (first | (with_reducible first | assumption | apply keeps_ite | apply joinFail_keeps) | split)

theorem onConfigPush_keeps {s0 : State} {h_} {b} {s : State} (h : Keeps s0 s) :
    Keeps s0 (onConfigPush h_ b s) := by
  unfold onConfigPush; try dsimp only
  repeat' (first | (with_reducible first | assumption | apply keeps_ite | apply updGroup_keeps) | split)

theorem onMemberUp_keeps {s0 : State} {b} {s : State} (h : Keeps s0 s) :
    Keeps s0 (onMemberUp b s) := by
  unfold onMemberUp; try dsimp only
  repeat' (first | (with_reducible first | assumption | apply keeps_ite | apply updGroup_keeps) | split)

theorem onLeave_keeps {s0 : State} {b} {s : State} (h : Keeps s0 s) :
    Keeps s0 (onLeave b s) := by
  unfold onLeave; try dsimp only
  repeat' (first | (with_reducible first | assumption | apply keeps_ite | apply updGroup_keeps) | split)

theorem onMismatch_keeps {s0 : State} {h_} {s : State} (h : Keeps s0 s) :
    Keeps s0 (onMismatch h_ s) := by
  unfold onMismatch; try dsimp only
  repeat' (first | (with_reducible first | assumption | apply keeps_ite | apply sendMsg_keeps) | split)

theorem onVersionQuery_keeps {s0 : State} {h_} {b} {s : State} (h : Keeps s0 s) :
    Keeps s0 (onVersionQuery h_ b s) := by
  unfold onVersionQuery; try dsimp only
  repeat' (first | (with_reducible first | assumption | apply keeps_ite | apply sendMsg_keeps) | split)

theorem onVersionReply_keeps {s0 : State} {h_} {b} {s : State} (h : Keeps s0 s) :
    Keeps s0 (onVersionReply h_ b s) := by
  unfold onVersionReply; try dsimp only
  repeat' (first | intro _ | (with_reducible first | assumption | apply keeps_ite | apply updGroup_keeps | apply keeps_foldl | apply keeps_foldl_fst | apply keeps_foldl_snd) | split)

theorem groupEffect_keeps {s0 : State} {h_} {b} {s : State} (h : Keeps s0 s) :
    Keeps s0 (groupEffect h_ b s) := by
  unfold groupEffect; try dsimp only
  repeat' (first | (with_reducible first | assumption | apply keeps_ite | apply onJoinReq_keeps | apply onJoinAccept_keeps | apply onJoinRefuse_keeps | apply onConfigPush_keeps | apply onMemberUp_keeps | apply onLeave_keeps | apply onMismatch_keeps | apply onVersionQuery_keeps | apply onVersionReply_keeps) | split)

theorem effectsOf_keeps {s0 : State} {peer} {m} {s : State} (h : Keeps s0 s) :
    Keeps s0 (effectsOf peer m s) := by
  unfold effectsOf; try dsimp only
  repeat' (first | intro _ | (with_reducible first | assumption | apply keeps_ite | apply takeGw_keeps | apply collect_keeps | apply takeCopy_keeps | apply takeFence_keeps | apply takeSend_keeps | apply takeSync_keeps | apply onClear_keeps | apply onRetract_keeps | apply groupEffect_keeps | apply keeps_foldl | apply keeps_foldl_fst | apply keeps_foldl_snd) | split)

theorem runEffects_keeps {s0 : State} {peer} {x1} {x2 : State} (h : Keeps s0 x2) :
    Keeps s0 (runEffects peer x1 x2) := by
  induction x1 generalizing x2 with
  | zero =>
    unfold runEffects
    repeat' (first | (with_reducible first | assumption | apply keeps_ite | apply updFlow_keeps | apply effectsOf_keeps) | split)
  | succ n ih =>
    unfold runEffects; try dsimp only
    repeat' (first | (with_reducible first | assumption | apply keeps_ite | apply updFlow_keeps | apply effectsOf_keeps | apply ih) | split)

theorem switchNow_keeps {s0 : State} {s : State} (h : Keeps s0 s) :
    Keeps s0 (switchNow s) := by
  unfold switchNow; try dsimp only
  repeat' (first | intro _ | (with_reducible first | assumption | apply keeps_ite | apply cancelSets_keeps | apply updGroup_keeps | apply updTables_keeps | apply monitorsSwitch_keeps | apply groupDigest_keeps | apply updBeat_keeps | apply runEffects_keeps | apply keeps_foldl | apply keeps_foldl_fst | apply keeps_foldl_snd) | split)

theorem redigest_keeps {s0 : State} {s : State} (h : Keeps s0 s) :
    Keeps s0 (redigest s) := by
  unfold redigest; try dsimp only
  repeat' (first | (with_reducible first | assumption | apply keeps_ite | apply updSec_keeps) | split)

theorem tilesBeatHead_keeps {s0 : State} {s : State} (h : Keeps s0 s) :
    Keeps s0 (tilesBeatHead s) := by
  unfold tilesBeatHead; try dsimp only
  repeat' (first | (with_reducible first | assumption | apply keeps_ite) | (with_reducible apply keeps_mk; first | (with_reducible first | assumption | apply keeps_ite) | split) | split)

theorem tablesStep5_keeps {s0 : State} {s : State} (h : Keeps s0 s) :
    Keeps s0 (tablesStep5 s) := by
  unfold tablesStep5; try dsimp only
  repeat' (first | intro _ | (with_reducible first | assumption | apply keeps_ite | apply doPrepare_keeps | apply dropArmed_keeps | apply keeps_foldl | apply keeps_foldl_fst | apply keeps_foldl_snd) | split)

theorem stepMembersUp_keeps {s0 : State} {s : State} (h : Keeps s0 s) :
    Keeps s0 (stepMembersUp s) := by
  unfold stepMembersUp; try dsimp only
  repeat' (first | intro _ | (with_reducible first | assumption | apply keeps_ite | apply updGroup_keeps | apply onMemberUp_keeps | apply sendAll_keeps | apply keeps_foldl | apply keeps_foldl_fst | apply keeps_foldl_snd) | split)

theorem sendQueries_keeps {s0 : State} {s : State} (h : Keeps s0 s) :
    Keeps s0 (sendQueries s) := by
  unfold sendQueries; try dsimp only
  repeat' (first | intro _ | (with_reducible first | assumption | apply keeps_ite | apply updGroup_keeps | apply sendAll_keeps | apply keeps_foldl | apply keeps_foldl_fst | apply keeps_foldl_snd) | split)

theorem unserveTables_keeps {s0 : State} {s : State} (h : Keeps s0 s) :
    Keeps s0 (unserveTables s) := by
  unfold unserveTables; try dsimp only
  repeat' (first | (with_reducible first | assumption | apply keeps_ite | apply updTables_keeps) | split)

theorem leaveNow_keeps {s0 : State} {s : State} (h : Keeps s0 s) :
    Keeps s0 (leaveNow s) := by
  unfold leaveNow; try dsimp only
  repeat' (first | (with_reducible first | assumption | apply keeps_ite | apply sendAll_keeps | apply groupChange_keeps | apply updGroup_keeps) | split)

theorem stepPush_keeps {s0 : State} {s : State} (h : Keeps s0 s) :
    Keeps s0 (stepPush s) := by
  unfold stepPush; try dsimp only
  repeat' (first | (with_reducible first | assumption | apply keeps_ite | apply updGroup_keeps | apply adopt_keeps | apply sendQueries_keeps | apply unserveTables_keeps | apply leaveNow_keeps | apply finishFlight_keeps | apply updFlight_keeps) | split)

theorem stepJoin_keeps {s0 : State} {s : State} (h : Keeps s0 s) :
    Keeps s0 (stepJoin s) := by
  unfold stepJoin; try dsimp only
  repeat' (first | (with_reducible first | assumption | apply keeps_ite | apply adopt_keeps | apply updGroup_keeps | apply sendAll_keeps | apply finishFlight_keeps | apply updFlight_keeps | apply sendQueries_keeps) | split)

theorem stepLeave_keeps {s0 : State} {s : State} (h : Keeps s0 s) :
    Keeps s0 (stepLeave s) := by
  unfold stepLeave; try dsimp only
  repeat' (first | (with_reducible first | assumption | apply keeps_ite | apply unserveTables_keeps | apply leaveNow_keeps | apply updGroup_keeps | apply finishFlight_keeps) | split)

theorem settleQuery_keeps {s0 : State} {q} {s : State} (h : Keeps s0 s) :
    Keeps s0 (settleQuery q s) := by
  unfold settleQuery; try dsimp only
  repeat' (first | (with_reducible first | assumption | apply keeps_ite | apply updTable_keeps | apply updGroup_keeps | apply updTables_keeps) | split)

theorem settleQueries_keeps {s0 : State} {s : State} (h : Keeps s0 s) :
    Keeps s0 (settleQueries s) := by
  unfold settleQueries; try dsimp only
  repeat' (first | intro _ | (with_reducible first | assumption | apply keeps_ite | apply updGroup_keeps | apply settleQuery_keeps | apply keeps_foldl | apply keeps_foldl_fst | apply keeps_foldl_snd) | split)

theorem groupStep5_keeps {s0 : State} {s : State} (h : Keeps s0 s) :
    Keeps s0 (groupStep5 s) := by
  unfold groupStep5; try dsimp only
  repeat' (first | (with_reducible first | assumption | apply keeps_ite | apply groupDigest_keeps | apply updGroup_keeps | apply stepMembersUp_keeps | apply stepPush_keeps | apply stepJoin_keeps | apply stepLeave_keeps | apply settleQueries_keeps) | split)

theorem schedCtrlNow_keeps {s0 : State} {s : State} (h : Keeps s0 s) :
    Keeps s0 (schedCtrlNow s) := by
  unfold schedCtrlNow; try dsimp only
  repeat' (first | (with_reducible first | assumption | apply keeps_ite | apply updSched_keeps) | split)

theorem endTransitions_keeps {s0 : State} {s : State} (h : Keeps s0 s) :
    Keeps s0 (endTransitions s) := by
  unfold endTransitions; try dsimp only
  repeat' (first | intro _ | (with_reducible first | assumption | apply keeps_ite | apply finishFlight_keeps | apply updSet_keeps | apply keeps_foldl | apply keeps_foldl_fst | apply keeps_foldl_snd) | split)

theorem edgeConfig_keeps {s0 : State} {e} {s : State} (h : Keeps s0 s) :
    Keeps s0 (edgeConfig e s) := by
  unfold edgeConfig; try dsimp only
  repeat' (first | (with_reducible first | assumption | apply keeps_ite | apply clampVectors_keeps | apply applySets_keeps | apply removalsStep5_keeps | apply advance_keeps | apply switchNow_keeps | apply redigest_keeps | apply tilesBeatHead_keeps | apply tablesStep5_keeps | apply groupStep5_keeps | apply schedCtrlNow_keeps | apply endTransitions_keeps) | split)

theorem setBrownout_keeps {s0 : State} {s : State} (h : Keeps s0 s) :
    Keeps s0 (setBrownout s) := by
  unfold setBrownout; try dsimp only
  repeat' (first | (with_reducible first | assumption | apply keeps_ite | apply updPower_keeps | apply updBeat_keeps) | split)

theorem stepDie_keeps {s0 : State} {s0_ : State} {s : State} {d} (h : Keeps s0 s0_) (h1 : Keeps s0 s) :
    Keeps s0 (stepDie s0_ s d) := by
  unfold stepDie; try dsimp only
  repeat' (first | (with_reducible first | assumption | apply keeps_ite | apply emit_keeps | apply updPower_keeps | apply updSched_keeps) | split)

theorem stepDies_keeps {s0 : State} {s : State} (h : Keeps s0 s) :
    Keeps s0 (stepDies s) := by
  unfold stepDies; try dsimp only
  repeat' (first | intro _ | (with_reducible first | assumption | apply keeps_ite | apply stepDie_keeps | apply keeps_foldl | apply keeps_foldl_fst | apply keeps_foldl_snd) | split)

theorem edgePower_keeps {s0 : State} {e} {s : State} (h : Keeps s0 s) :
    Keeps s0 (edgePower e s) := by
  unfold edgePower; try dsimp only
  repeat' (first | intro _ | (with_reducible first | assumption | apply keeps_ite | apply setBrownout_keeps | apply advance_keeps | apply stepDies_keeps | apply applyPower_keeps | apply keeps_foldl | apply keeps_foldl_fst | apply keeps_foldl_snd) | split)

theorem enableQueue_keeps {s0 : State} {q} {s : State} (h : Keeps s0 s) :
    Keeps s0 (enableQueue q s) := by
  unfold enableQueue; try dsimp only
  repeat' (first | (with_reducible first | assumption | apply keeps_ite | apply updQueue_keeps) | split)

theorem endRetiring_keeps {s0 : State} {s : State} (h : Keeps s0 s) :
    Keeps s0 (endRetiring s) := by
  unfold endRetiring; try dsimp only
  repeat' (first | intro _ | (with_reducible first | assumption | apply keeps_ite | apply freeDrained_keeps | apply updTable_keeps | apply keeps_foldl | apply keeps_foldl_fst | apply keeps_foldl_snd) | split)

theorem leaveArray_keeps {s0 : State} {t} {r} {part} {s : State} (h : Keeps s0 s) :
    Keeps s0 (leaveArray t r part s) := by
  unfold leaveArray; try dsimp only
  repeat' (first | intro _ | (with_reducible first | assumption | apply keeps_ite | apply updTile_keeps | apply updPart_keeps | apply keeps_foldl | apply keeps_foldl_fst | apply keeps_foldl_snd) | split)

theorem rearmNow_keeps {s0 : State} {t e : Nat} {x : Stream} {s : State} (h : Keeps s0 s) : Keeps s0 (rearmNow t e x s) := ⟨h.1, h.2⟩

theorem settleRearms_keeps {s0 : State} {s : State} (h : Keeps s0 s) :
    Keeps s0 (settleRearms s) := by
  unfold settleRearms; try dsimp only
  repeat' (first | intro _ | (with_reducible first | assumption | apply keeps_ite | apply finishFlight_keeps | apply rearmNow_keeps | apply updFlight_keeps | apply keeps_foldl | apply keeps_foldl_fst | apply keeps_foldl_snd) | split)

theorem endRun_keeps {s0 : State} {t} {r} {s : State} (h : Keeps s0 s) :
    Keeps s0 (endRun t r s) := by
  unfold endRun; try dsimp only
  repeat' (first | intro _ | (with_reducible first | assumption | apply keeps_ite | apply updTile_keeps | apply leaveArray_keeps | apply updKernel_keeps | apply settleRearms_keeps | apply compareCheck_keeps | apply setCheck_keeps | apply keeps_foldl | apply keeps_foldl_fst | apply keeps_foldl_snd) | split)

theorem endUpdate_keeps {s0 : State} {n} {s : State} (h : Keeps s0 s) :
    Keeps s0 (endUpdate n s) := by
  unfold endUpdate; try dsimp only
  repeat' (first | (with_reducible first | assumption | apply keeps_ite | apply finishFlight_keeps | apply updFlight_keeps) | split)

theorem flushCounts_keeps {s0 : State} {p} {s : State} (h : Keeps s0 s) :
    Keeps s0 (flushCounts p s) := by
  unfold flushCounts; try dsimp only
  repeat' (first | intro _ | (with_reducible first | assumption | apply keeps_ite | apply putVa_keeps | apply updTables_keeps | apply keeps_foldl | apply keeps_foldl_fst | apply keeps_foldl_snd) | split)

theorem settleGathers_keeps {s0 : State} {s : State} (h : Keeps s0 s) :
    Keeps s0 (settleGathers s) := by
  unfold settleGathers; try dsimp only
  repeat' (first | intro _ | (with_reducible first | assumption | apply keeps_ite | apply settleServed_keeps | apply settleGather_keeps | apply keeps_foldl | apply keeps_foldl_fst | apply keeps_foldl_snd) | split)

theorem releaseGathers_keeps {s0 : State} {s : State} (h : Keeps s0 s) :
    Keeps s0 (releaseGathers s) := by
  unfold releaseGathers; try dsimp only
  repeat' (first | (with_reducible first | assumption | apply keeps_ite | apply settleGathers_keeps) | (with_reducible apply keeps_mk; first | (with_reducible first | assumption | apply keeps_ite | apply settleGathers_keeps) | split) | split)

theorem endWindow_keeps {s0 : State} {p} {w} {s : State} (h : Keeps s0 s) :
    Keeps s0 (endWindow p w s) := by
  unfold endWindow; try dsimp only
  repeat' (first | intro _ | (with_reducible first | assumption | apply keeps_ite | apply applyTable_keeps | apply flushCounts_keeps | apply updTables_keeps | apply applyCopies_keeps | apply releaseGathers_keeps | apply keeps_foldl | apply keeps_foldl_fst | apply keeps_foldl_snd) | split)

theorem serveRead_keeps {s0 : State} {r} {s : State} (h : Keeps s0 s) :
    Keeps s0 (serveRead r s) := by
  unfold serveRead; try dsimp only
  repeat' (first | (with_reducible first | assumption | apply keeps_ite | apply reqDone_keeps | apply noteReq_keeps) | split)

theorem enqueueReq_keeps {s0 : State} {r} {s : State} (h : Keeps s0 s) :
    Keeps s0 (enqueueReq r s) := by
  unfold enqueueReq; try dsimp only
  repeat' (first | intro _ | (with_reducible first | assumption | apply keeps_ite | apply updMem_keeps | apply noteAcc_keeps | apply reqDone_keeps | apply noteReq_keeps | apply serveRead_keeps | apply updChan_keeps) | split)

theorem enterS1_keeps {s0 : State} {s : State} (h : Keeps s0 s) :
    Keeps s0 (enterS1 s) := by
  unfold enterS1; try dsimp only
  repeat' (first | (with_reducible first | assumption | apply keeps_ite | apply updPower_keeps) | split)

theorem noteAuth_keeps {s0 : State} {p} {s : State} (h : Keeps s0 s) :
    Keeps s0 (noteAuth p s) := by
  unfold noteAuth; try dsimp only
  repeat' (first | (with_reducible first | assumption | apply keeps_ite | apply updFlow_keeps) | split)

theorem meterNet_keeps {s0 : State} {p} {bytes} {s : State} (h : Keeps s0 s) :
    Keeps s0 (meterNet p bytes s) := by
  unfold meterNet; try dsimp only
  repeat' (first | (with_reducible first | assumption | apply keeps_ite | apply updPart_keeps) | split)

theorem sendPkt_keeps {s0 : State} {peer} {psn} {seg} {again} {syn} {m} {s : State} (h : Keeps s0 s) :
    Keeps s0 (sendPkt peer psn seg again syn m s) := by
  unfold sendPkt; try dsimp only
  repeat' (first | (with_reducible first | assumption | apply keeps_ite | apply updOut_keeps | apply meterNet_keeps | apply updFlow_keeps) | split)

theorem resend_keeps {s0 : State} {again} {peer} {q} {s : State} (h : Keeps s0 s) :
    Keeps s0 (resend again peer q s) := by
  unfold resend; try dsimp only
  repeat' (first | (with_reducible first | assumption | apply keeps_ite | apply sendPkt_keeps) | split)

theorem syncOver_keeps {s0 : State} {peer} {mseq} {bad} {s : State} (h : Keeps s0 s) :
    Keeps s0 (syncOver peer mseq bad s) := by
  unfold syncOver; try dsimp only
  repeat' (first | intro _ | (with_reducible first | assumption | apply keeps_ite | apply updGroup_keeps | apply settleSync_keeps | apply keeps_foldl | apply keeps_foldl_fst | apply keeps_foldl_snd) | split)

theorem msgAcked_keeps {s0 : State} {peer} {m} {s : State} (h : Keeps s0 s) :
    Keeps s0 (msgAcked peer m s) := by
  unfold msgAcked; try dsimp only
  repeat' (first | (with_reducible first | assumption | apply keeps_ite | apply updFlow_keeps | apply syncOver_keeps | apply msgOver_keeps) | split)

theorem takeAck_keeps {s0 : State} {peer} {h_} {s : State} (h : Keeps s0 s) :
    Keeps s0 (takeAck peer h_ s) := by
  unfold takeAck; try dsimp only
  repeat' (first | intro _ | (with_reducible first | assumption | apply keeps_ite | apply updFlow_keeps | apply resend_keeps | apply msgAcked_keeps | apply keeps_foldl | apply keeps_foldl_fst | apply keeps_foldl_snd) | split)

theorem msgFailed_keeps {s0 : State} {peer} {m} {st} {reason} {detail} {s : State} (h : Keeps s0 s) :
    Keeps s0 (msgFailed peer m st reason detail s) := by
  unfold msgFailed; try dsimp only
  repeat' (first | (with_reducible first | assumption | apply keeps_ite | apply updFlow_keeps | apply syncOver_keeps | apply joinFail_keeps | apply msgOver_keeps | apply updGather_keeps | apply updFlight_keeps) | split)

theorem takeNack_keeps {s0 : State} {peer} {h_} {s : State} (h : Keeps s0 s) :
    Keeps s0 (takeNack peer h_ s) := by
  unfold takeNack; try dsimp only
  repeat' (first | (with_reducible first | assumption | apply keeps_ite | apply configNack_keeps | apply msgFailed_keeps | apply updFlow_keeps | apply countRejected_keeps) | split)

theorem takeSyn_keeps {s0 : State} {p} {s : State} (h : Keeps s0 s) :
    Keeps s0 (takeSyn p s) := by
  unfold takeSyn; try dsimp only
  repeat' (first | intro _ | (with_reducible first | assumption | apply keeps_ite | apply updFlow_keeps | apply effectsOf_keeps | apply keeps_foldl | apply keeps_foldl_fst | apply keeps_foldl_snd) | split)

theorem noteProv_keeps {s0 : State} {p} {part} {s : State} (h : Keeps s0 s) :
    Keeps s0 (noteProv p part s) := by
  unfold noteProv; try dsimp only
  repeat' (first | (with_reducible first | assumption | apply keeps_ite | apply updInteg_keeps) | split)

theorem openMsg_keeps {s0 : State} {p} {why} {s : State} (h : Keeps s0 s) :
    Keeps s0 (openMsg p why s) := by
  unfold openMsg; try dsimp only
  repeat' (first | (with_reducible first | assumption | apply keeps_ite | apply updFlow_keeps | apply noteProv_keeps) | split)

theorem keepSegment_keeps {s0 : State} {p} {s : State} (h : Keeps s0 s) :
    Keeps s0 (keepSegment p s) := by
  unfold keepSegment; try dsimp only
  repeat' (first | (with_reducible first | assumption | apply keeps_ite | apply updFlow_keeps) | split)

theorem writeSegment_keeps {s0 : State} {p} {s : State} (h : Keeps s0 s) :
    Keeps s0 (writeSegment p s) := by
  unfold writeSegment; try dsimp only
  repeat' (first | (with_reducible first | assumption | apply keeps_ite | apply writeVa_keeps | apply noteAcc_keeps | apply noteRx_keeps | apply addFloats_keeps) | split)

theorem takePacket_keeps {s0 : State} {p} {s : State} (h : Keeps s0 s) :
    Keeps s0 (takePacket p s) := by
  unfold takePacket; try dsimp only
  repeat' (first | (with_reducible first | assumption | apply keeps_ite | apply sendNack_keeps | apply configNack_keeps | apply refuse_keeps | apply markRefused_keeps | apply openMsg_keeps | apply runEffects_keeps | apply acceptPsn_keeps | apply keepSegment_keeps | apply meterNet_keeps | apply writeSegment_keeps | apply closeMsg_keeps) | split)

theorem reliablePacket_keeps {s0 : State} {p} {s : State} (h : Keeps s0 s) :
    Keeps s0 (reliablePacket p s) := by
  unfold reliablePacket; try dsimp only
  repeat' (first | (with_reducible first | assumption | apply keeps_ite | apply takeSyn_keeps | apply oweAck_keeps | apply takePacket_keeps) | split)

theorem receive_keeps {s0 : State} {kind} {p} {s : State} (h : Keeps s0 s) :
    Keeps s0 (receive kind p s) := by
  unfold receive; try dsimp only
  repeat' (first | intro _ | (with_reducible first | assumption | apply keeps_ite | apply updSub_keeps | apply wake_keeps | apply afterSnoops_keeps | apply noteAuth_keeps | apply drainRx_keeps | apply takeAck_keeps | apply takeNack_keeps | apply reliablePacket_keeps) | split)

theorem holdGathers_keeps {s0 : State} {ts} {s : State} (h : Keeps s0 s) :
    Keeps s0 (holdGathers ts s) := by
  unfold holdGathers; try dsimp only
  repeat' (first | (with_reducible first | assumption | apply keeps_ite) | (with_reducible apply keeps_mk; first | (with_reducible first | assumption | apply keeps_ite) | split) | split)

theorem overrunOf_keeps {s0 : State} {p} {w} {s : State} (h : Keeps s0 s) :
    Keeps s0 (overrunOf p w s) := by
  unfold overrunOf; try dsimp only
  repeat' (first | intro _ | (with_reducible first | assumption | apply keeps_ite | apply emit_keeps | apply updTables_keeps | apply keeps_foldl | apply keeps_foldl_fst | apply keeps_foldl_snd) | split)

theorem startWindow_keeps {s0 : State} {p} {a} {s : State} (h : Keeps s0 s) :
    Keeps s0 (startWindow p a s) := by
  unfold startWindow; try dsimp only
  repeat' (first | intro _ | (with_reducible first | assumption | apply keeps_ite | apply advance_keeps | apply updTables_keeps | apply holdGathers_keeps | apply overrunOf_keeps | apply keeps_foldl | apply keeps_foldl_fst | apply keeps_foldl_snd) | split)

theorem seqOp_keeps {s0 : State} {tile} {f} {s : State} (h : Keeps s0 s) :
    KeepsRes s0 (seqOp tile f s) := by
  unfold seqOp; try dsimp only
  repeat' (first | (with_reducible first | assumption | apply keeps_ite | apply updTile_keeps | apply keepsRes_doWhen | apply keepsRes_next | apply keepsRes_ite) | split)

theorem resultTo_keeps {s0 : State} {dst} {b} {r} {n} {s : State} (h : Keeps s0 s) :
    Keeps s0 (resultTo dst b r n s) := by
  unfold resultTo; try dsimp only
  repeat' (first | (with_reducible first | assumption | apply keeps_ite | apply writeVa_keeps | apply finishFlight_keeps | apply noteAcc_keeps) | split)

theorem startAttest_keeps {s0 : State} {r} {n} {s : State} (h : Keeps s0 s) :
    Keeps s0 (startAttest r n s) := by
  unfold startAttest; try dsimp only
  repeat' (first | (with_reducible first | assumption | apply keeps_ite | apply resultTo_keeps | apply updFlight_keeps) | split)

theorem startNow_keeps {s0 : State} {eff} {echo} {r} {n} {s : State} (ha : ∀ r s, Keeps s0 s → Keeps s0 (eff r s)) (h : Keeps s0 s) :
    Keeps s0 (startNow eff echo r n s) := by
  unfold startNow; try dsimp only
  repeat' (first | (with_reducible first | assumption | apply keeps_ite | apply finishFlight_keeps | apply updFlight_keeps | apply ha) | split)

theorem openBudgets_keeps {s0 : State} {ePart} {s : State} (h : Keeps s0 s) :
    Keeps s0 (openBudgets ePart s) := by
  unfold openBudgets; try dsimp only
  repeat' (first | (with_reducible first | assumption | apply keeps_ite | apply updSched_keeps) | (with_reducible apply keeps_mk; first | (with_reducible first | assumption | apply keeps_ite | apply updSched_keeps) | split) | split)

theorem settleNet_keeps {s0 : State} {s : State} (h : Keeps s0 s) :
    Keeps s0 (settleNet s) := by
  unfold settleNet; try dsimp only
  repeat' (first | intro _ | (with_reducible first | assumption | apply keeps_ite | apply finishFlight_keeps | apply keeps_foldl | apply keeps_foldl_fst | apply keeps_foldl_snd) | split)

theorem settleWindows_keeps {s0 : State} {s : State} (h : Keeps s0 s) :
    Keeps s0 (settleWindows s) := by
  unfold settleWindows; try dsimp only
  repeat' (first | intro _ | (with_reducible first | assumption | apply keeps_ite | apply finishFlight_keeps | apply keeps_foldl | apply keeps_foldl_fst | apply keeps_foldl_snd) | split)

theorem finishUnmap_keeps {s0 : State} {n} {is} {s : State} (h : Keeps s0 s) :
    Keeps s0 (finishUnmap n is s) := by
  unfold finishUnmap; try dsimp only
  repeat' (first | (with_reducible first | assumption | apply keeps_ite | apply finishFlight_keeps | apply dropExtents_keeps | apply loseSegs_keeps) | split)

theorem settleUnmaps_keeps {s0 : State} {s : State} (h : Keeps s0 s) :
    Keeps s0 (settleUnmaps s) := by
  unfold settleUnmaps; try dsimp only
  repeat' (first | intro _ | (with_reducible first | assumption | apply keeps_ite | apply finishUnmap_keeps | apply keeps_foldl | apply keeps_foldl_fst | apply keeps_foldl_snd) | split)

theorem settleFences_keeps {s0 : State} {s : State} (h : Keeps s0 s) :
    Keeps s0 (settleFences s) := by
  unfold settleFences; try dsimp only
  repeat' (first | intro _ | (with_reducible first | assumption | apply keeps_ite | apply finishFlight_keeps | apply keeps_foldl | apply keeps_foldl_fst | apply keeps_foldl_snd) | split)

theorem settle_keeps {s0 : State} {s : State} (h : Keeps s0 s) :
    Keeps s0 (settle s) := by
  unfold settle; try dsimp only
  repeat' (first | (with_reducible first | assumption | apply keeps_ite | apply settleNet_keeps | apply freeAllDrained_keeps | apply settleReplays_keeps | apply settleGathers_keeps | apply settleRearms_keeps | apply settleWindows_keeps | apply settleUnmaps_keeps | apply settleFences_keeps) | split)

theorem noteTargets_keeps {s0 : State} {s : State} (h : Keeps s0 s) :
    Keeps s0 (noteTargets s) := by
  unfold noteTargets; try dsimp only
  repeat' (first | (with_reducible first | assumption | apply keeps_ite | apply updTables_keeps) | split)

theorem tablesStep6_keeps {s0 : State} {s : State} (h : Keeps s0 s) :
    Keeps s0 (tablesStep6 s) := by
  unfold tablesStep6; try dsimp only
  repeat' (first | intro _ | (with_reducible first | assumption | apply keeps_ite | apply endRetiring_keeps | apply noteTargets_keeps | apply doCommit_keeps | apply dropArmed_keeps | apply keeps_foldl | apply keeps_foldl_fst | apply keeps_foldl_snd) | split)

theorem overrunEvents_keeps {s0 : State} {s : State} (h : Keeps s0 s) :
    Keeps s0 (overrunEvents s) := by
  unfold overrunEvents; try dsimp only
  repeat' (first | intro _ | (with_reducible first | assumption | apply keeps_ite | apply overrunOf_keeps | apply keeps_foldl | apply keeps_foldl_fst | apply keeps_foldl_snd) | split)

theorem stage_keeps {s0 : State} {set} {item} {echo} {check} {queue} {op} {s : State} (h : Keeps s0 s) :
    KeepsRes s0 (stage set item echo check queue op s) := by
  unfold stage; try dsimp only
  repeat' (first | intro _ | (with_reducible first | assumption | apply keeps_ite | apply dispatch_keeps | apply startNow_keeps | apply updSet_keeps | apply keepsRes_next | apply keepsRes_ite) | split)

theorem linkLost_keeps {s0 : State} {cause} {s : State} (h : Keeps s0 s) :
    Keeps s0 (linkLost cause s) := by
  unfold linkLost; try dsimp only
  repeat' (first | intro _ | (with_reducible first | assumption | apply keeps_ite | apply rejectReq_keeps | apply updLink_keeps | apply emit_keeps | apply keeps_foldl | apply keeps_foldl_fst | apply keeps_foldl_snd) | (with_reducible apply keeps_mk; first | (with_reducible first | assumption | apply keeps_ite | apply rejectReq_keeps | apply updLink_keeps | apply emit_keeps | apply keeps_foldl | apply keeps_foldl_fst | apply keeps_foldl_snd) | split) | split)

theorem filterDel_keeps {s0 : State} {line} {s : State} (h : Keeps s0 s) :
    Keeps s0 (filterDel line s) := by
  unfold filterDel; try dsimp only
  repeat' (first | (with_reducible first | assumption | apply keeps_ite | apply updLink_keeps) | split)

theorem spdm_keeps {s0 : State} {t} {stage} {act} {s : State} (ha : ∀ s, Keeps s0 s → Keeps s0 (act s)) (h : Keeps s0 s) :
    KeepsRes s0 (spdm t stage act s) := by
  unfold spdm; try dsimp only
  repeat' (first | (with_reducible first | assumption | apply keeps_ite | apply answer_keeps | apply keepsRes_next | apply keepsRes_ite | apply ha) | split)

theorem fresh32_keeps {s0 : State} {s : State} (h : Keeps s0 s) :
    Keeps s0 (fresh32 s).2 := by
  unfold fresh32; try dsimp only
  repeat' (first | intro _ | (with_reducible first | assumption | apply keeps_ite | apply freshDraw_keeps | apply keeps_foldl | apply keeps_foldl_fst | apply keeps_foldl_snd) | split)

theorem memRow_keeps {s0 : State} {s : State} {r} (ha : KeepsRes s0 r) (h : Keeps s0 s) :
    KeepsRes s0 (memRow s r) := by
  unfold memRow; try dsimp only
  repeat' (first | (with_reducible first | assumption | apply keeps_ite | apply keepsRes_next | apply keepsRes_ite | apply ha) | split)

theorem issueTags_keeps {s0 : State} {s : State} (h : Keeps s0 s) :
    Keeps s0 (issueTags s) := by
  unfold issueTags; try dsimp only
  repeat' (first | intro _ | (with_reducible first | assumption | apply keeps_ite | apply enqueueReq_keeps | apply updMem_keeps | apply keeps_foldl | apply keeps_foldl_fst | apply keeps_foldl_snd) | split)

theorem takeReq_keeps {s0 : State} {c} {r} {s : State} (h : Keeps s0 s) :
    Keeps s0 (takeReq c r s) := by
  unfold takeReq; try dsimp only
  repeat' (first | (with_reducible first | assumption | apply keeps_ite | apply updChan_keeps) | split)

theorem findErrors_keeps {s0 : State} {pa} {len} {symbols} {s : State} (h : Keeps s0 s) :
    Keeps s0 (findErrors pa len symbols s) := by
  unfold findErrors; try dsimp only
  repeat' (first | intro _ | (with_reducible first | assumption | apply keeps_ite | apply freshFree_keeps | apply updMem_keeps | apply keeps_foldl | apply keeps_foldl_fst | apply keeps_foldl_snd) | split)

theorem writeBack_keeps {s0 : State} {r} {g} {s : State} (h : Keeps s0 s) :
    Keeps s0 (writeBack r g s) := by
  unfold writeBack; try dsimp only
  repeat' (first | intro _ | (with_reducible first | assumption | apply keeps_ite | apply updChan_keeps | apply updMem_keeps) | split)

theorem serveScrub_keeps {s0 : State} {c} {r} {s : State} (h : Keeps s0 s) :
    Keeps s0 (serveScrub c r s) := by
  unfold serveScrub; try dsimp only
  repeat' (first | intro _ | (with_reducible first | assumption | apply keeps_ite | apply writeBack_keeps | apply noteCorrected_keeps | apply updChan_keeps | apply updMem_keeps | apply noteReq_keeps | apply keeps_foldl | apply keeps_foldl_fst | apply keeps_foldl_snd) | split)

theorem flushStack_keeps {s0 : State} {k} {c} {s : State} (h : Keeps s0 s) :
    Keeps s0 (flushStack k c s) := by
  unfold flushStack; try dsimp only
  repeat' (first | intro _ | (with_reducible first | assumption | apply keeps_ite | apply updChan_keeps | apply updMem_keeps | apply updFlight_keeps | apply keeps_foldl | apply keeps_foldl_fst | apply keeps_foldl_snd) | split)

theorem killChannel_keeps {s0 : State} {c} {cause} {s : State} (h : Keeps s0 s) :
    Keeps s0 (killChannel c cause s) := by
  unfold killChannel; try dsimp only
  repeat' (first | intro _ | (with_reducible first | assumption | apply keeps_ite | apply updChan_keeps | apply emit_keeps | apply flushStack_keeps | apply dropSlots_keeps | apply updStack_keeps | apply faultPut_keeps | apply msix_keeps | apply revokeExtents_keeps | apply updMem_keeps) | exact keepsRes_fault | split)

theorem killsDue_keeps {s0 : State} {s : State} (h : Keeps s0 s) :
    Keeps s0 (killsDue s) := by
  unfold killsDue; try dsimp only
  repeat' (first | intro _ | (with_reducible first | assumption | apply keeps_ite | apply killChannel_keeps | apply keeps_foldl | apply keeps_foldl_fst | apply keeps_foldl_snd) | split)

theorem startCheckStatus_keeps {s0 : State} {r} {n} {s : State} (h : Keeps s0 s) :
    Keeps s0 (startCheckStatus r n s) := by
  unfold startCheckStatus; try dsimp only
  repeat' (first | (with_reducible first | assumption | apply keeps_ite | apply resultTo_keeps | apply updFlight_keeps) | split)

theorem watermarkTick_keeps {s0 : State} {s : State} (h : Keeps s0 s) :
    Keeps s0 (watermarkTick s) := by
  unfold watermarkTick; try dsimp only
  repeat' (first | intro _ | (with_reducible first | assumption | apply keeps_ite | apply advance_keeps | apply sendAll_keeps | apply updFlow_keeps | apply dropOldChecks_keeps | apply updInteg_keeps | apply keeps_foldl | apply keeps_foldl_fst | apply keeps_foldl_snd) | split)

theorem startArm_keeps {s0 : State} {r} {n} {s : State} (h : Keeps s0 s) :
    Keeps s0 (startArm r n s) := by
  unfold startArm; try dsimp only
  repeat' (first | (with_reducible first | assumption | apply keeps_ite | apply updSet_keeps | apply updFlight_keeps) | split)

theorem stageSet_keeps {s0 : State} {r} {s : State} (h : Keeps s0 s) :
    Keeps s0 (stageSet r s) := by
  unfold stageSet; try dsimp only
  repeat' (first | (with_reducible first | assumption | apply keeps_ite | apply finishFlight_keeps | apply updSet_keeps) | split)

theorem fillAcc_keeps {s0 : State} {t} {els} {s : State} (h : Keeps s0 s) :
    Keeps s0 (fillAcc t els s) := by
  unfold fillAcc; try dsimp only
  repeat' (first | intro _ | (with_reducible first | assumption | apply keeps_ite | apply updTile_keeps | apply keeps_foldl | apply keeps_foldl_fst | apply keeps_foldl_snd) | split)

theorem retractAll_keeps {s0 : State} {s : State} (h : Keeps s0 s) :
    Keeps s0 (retractAll s) := by
  unfold retractAll; try dsimp only
  repeat' (first | intro _ | (with_reducible first | assumption | apply keeps_ite | apply stopRuns_keeps | apply retractFlight_keeps | apply keeps_foldl | apply keeps_foldl_fst | apply keeps_foldl_snd) | split)

theorem moduleFault_keeps {s0 : State} {cause} {unit} {s : State} (h : Keeps s0 s) :
    Keeps s0 (moduleFault cause unit s) := by
  unfold moduleFault; try dsimp only
  repeat' (first | intro _ | (with_reducible first | assumption | apply keeps_ite | apply updPower_keeps | apply retractAll_keeps | apply sendAll_keeps | apply updInteg_keeps | apply leaveNow_keeps | apply emit_keeps | apply updSec_keeps | apply msix_keeps | apply keeps_foldl | apply keeps_foldl_fst | apply keeps_foldl_snd) | exact keepsRes_fault | split)

theorem readSlot_keeps {s0 : State} {q} {host} {act} {s : State} (ha : ∀ n s, Keeps s0 s → Keeps s0 (act n s)) (h : Keeps s0 s) :
    Keeps s0 (readSlot q host act s) := by
  unfold readSlot; try dsimp only
  repeat' (first | intro _ | (with_reducible first | assumption | apply keeps_ite | apply updOut_keeps | apply afterSnoops_keeps | apply countErrors_keeps | apply ha) | split)

theorem sweepQueue_keeps {s0 : State} {host} {q} {s : State} (h : Keeps s0 s) :
    Keeps s0 (sweepQueue host q s) := by
  unfold sweepQueue; try dsimp only
  repeat' (first | intro _ | (with_reducible first | assumption | apply keeps_ite | apply readSlot_keeps | apply updQueue_keeps | apply wake_keeps) | split)

theorem setSessions_keeps {s0 : State} {t} {l} {s : State} (h : Keeps s0 s) :
    Keeps s0 (setSessions t l s) := by
  unfold setSessions; try dsimp only
  repeat' (first | (with_reducible first | assumption | apply keeps_ite | apply updSec_keeps) | split)

theorem recWrite_keeps {s0 : State} {e} {s : State} (h : Keeps s0 s) :
    Keeps s0 (recWrite e s) := by
  unfold recWrite; try dsimp only
  repeat' (first | (with_reducible first | assumption | apply keeps_ite | apply putVa_keeps | apply updTele_keeps) | split)

theorem recordEvent_keeps {s0 : State} {e} {waiting} {s : State} (h : Keeps s0 s) :
    Keeps s0 (recordEvent e waiting s) := by
  unfold recordEvent; try dsimp only
  repeat' (first | (with_reducible first | assumption | apply keeps_ite | apply updTele_keeps | apply recWrite_keeps) | split)

theorem mapExtent_keeps {s0 : State} {r} {s : State} (h : Keeps s0 s) :
    Keeps s0 (mapExtent r s) := by
  unfold mapExtent; try dsimp only
  repeat' (first | intro _ | (with_reducible first | assumption | apply keeps_ite | apply updMem_keeps | apply meterHbm_keeps | apply keeps_foldl | apply keeps_foldl_fst | apply keeps_foldl_snd | (apply zeroFrame_wf)) | split)

theorem startUnmap_keeps {s0 : State} {r} {n} {s : State} (h : Keeps s0 s) :
    Keeps s0 (startUnmap r n s) := by
  unfold startUnmap; try dsimp only
  repeat' (first | (with_reducible first | assumption | apply keeps_ite | apply finishUnmap_keeps | apply updFlight_keeps) | split)

theorem faultqHead_keeps {s0 : State} {operator} {func} {v} {s : State} (h : Keeps s0 s) :
    Keeps s0 (faultqHead operator func v s) := by
  unfold faultqHead; try dsimp only
  repeat' (first | (with_reducible first | assumption | apply keeps_ite | apply afterHead_keeps | apply setFaultq_keeps) | exact keepsRes_fault | split)

theorem failUnmapped_keeps {s0 : State} {q} {s : State} (h : Keeps s0 s) :
    Keeps s0 (failUnmapped q s) := by
  unfold failUnmapped; try dsimp only
  repeat' (first | (with_reducible first | assumption | apply keeps_ite | apply haltQueue_keeps | apply addFlight_keeps | apply popHead_keeps) | split)

theorem timeoutHead_keeps {s0 : State} {q} {s : State} (h : Keeps s0 s) :
    Keeps s0 (timeoutHead q s) := by
  unfold timeoutHead; try dsimp only
  repeat' (first | (with_reducible first | assumption | apply keeps_ite | apply failUnmapped_keeps | apply failHeadNow_keeps) | split)

theorem failWork_keeps {s0 : State} {n} {st} {s : State} (h : Keeps s0 s) :
    Keeps s0 (failWork n st s) := by
  unfold failWork; try dsimp only
  repeat' (first | (with_reducible first | assumption | apply keeps_ite | apply abortFlight_keeps | apply finishFlight_keeps | apply stopFlight_keeps) | split)

theorem timeoutFlight_keeps {s0 : State} {n} {s : State} (h : Keeps s0 s) :
    Keeps s0 (timeoutFlight n s) := by
  unfold timeoutFlight; try dsimp only
  repeat' (first | (with_reducible first | assumption | apply keeps_ite | apply failWork_keeps) | split)

theorem timeouts_keeps {s0 : State} {s : State} (h : Keeps s0 s) :
    Keeps s0 (timeouts s) := by
  unfold timeouts; try dsimp only
  repeat' (first | intro _ | (with_reducible first | assumption | apply keeps_ite | apply timeoutHead_keeps | apply timeoutFlight_keeps | apply keeps_foldl | apply keeps_foldl_fst | apply keeps_foldl_snd) | split)

theorem signalAll_keeps {s0 : State} {r} {s : State} (h : Keeps s0 s) :
    Keeps s0 (signalAll r s) := by
  unfold signalAll; try dsimp only
  repeat' (first | intro _ | (with_reducible first | assumption | apply keeps_ite | apply fenceRaise_keeps | apply keeps_foldl | apply keeps_foldl_fst | apply keeps_foldl_snd) | split)

theorem startFenceWait_keeps {s0 : State} {r} {n} {s : State} (h : Keeps s0 s) :
    Keeps s0 (startFenceWait r n s) := by
  unfold startFenceWait; try dsimp only
  repeat' (first | (with_reducible first | assumption | apply keeps_ite | apply finishFlight_keeps | apply updFlight_keeps) | split)

theorem setFlowKey_keeps {s0 : State} {r} {s : State} (h : Keeps s0 s) :
    Keeps s0 (setFlowKey r s) := by
  unfold setFlowKey; try dsimp only
  repeat' (first | (with_reducible first | assumption | apply keeps_ite | apply updNet_keeps) | split)

theorem runFence_keeps {s0 : State} {tile} {f} {v} {s : State} (h : Keeps s0 s) :
    Keeps s0 (runFence tile f v s) := by
  unfold runFence; try dsimp only
  repeat' (first | (with_reducible first | assumption | apply keeps_ite | apply updTile_keeps | apply fenceRaise_keeps) | split)

theorem resetFunc_keeps {s0 : State} {f} {s : State} (h : Keeps s0 s) :
    Keeps s0 (resetFunc f s) := by
  unfold resetFunc; try dsimp only
  repeat' (first | intro _ | (with_reducible first | assumption | apply keeps_ite | apply queueResetNow_keeps | apply updFunc_keeps | apply keeps_foldl | apply keeps_foldl_fst | apply keeps_foldl_snd) | split)

theorem setStage_keeps {s0 : State} {t} {n} {s : State} (h : Keeps s0 s) :
    Keeps s0 (setStage t n s) := by
  unfold setStage; try dsimp only
  repeat' (first | (with_reducible first | assumption | apply keeps_ite | apply updSec_keeps) | split)

theorem pldm_keeps {s0 : State} {act} {s : State} (ha : ∀ s, Keeps s0 s → Keeps s0 (act s)) (h : Keeps s0 s) :
    KeepsRes s0 (pldm act s) := by
  unfold pldm; try dsimp only
  repeat' (first | (with_reducible first | assumption | apply keeps_ite | apply answer_keeps | apply keepsRes_next | apply keepsRes_ite | apply ha) | split)

theorem failNode_keeps {s0 : State} {g} {i} {r} {v} {s : State} (h : Keeps s0 s) :
    Keeps s0 (failNode g i r v s) := by
  unfold failNode; try dsimp only
  repeat' (first | (with_reducible first | assumption | apply keeps_ite | apply finishFlight_keeps | apply addFlight_keeps | apply beginNode_keeps | apply takeStage_keeps) | split)

theorem preloadTiles_keeps {s0 : State} {f} {k} {s : State} (h : Keeps s0 s) :
    Keeps s0 (preloadTiles f k s) := by
  unfold preloadTiles; try dsimp only
  repeat' (first | (with_reducible first | assumption | apply keeps_ite | apply noteAcc_keeps) | (with_reducible apply keeps_mk; first | (with_reducible first | assumption | apply keeps_ite | apply noteAcc_keeps) | split) | split)

theorem startKernel_keeps {s0 : State} {ds} {r} {n} {s : State} (h : Keeps s0 s) :
    Keeps s0 (startKernel ds r n s) := by
  unfold startKernel; try dsimp only
  repeat' (first | (with_reducible first | assumption | apply keeps_ite | apply finishFlight_keeps | apply preloadTiles_keeps | apply updFlight_keeps) | split)

theorem runTopK_keeps {s0 : State} {c} {n} {x} {s : State} (h : Keeps s0 s) :
    Keeps s0 (runTopK c n x s) := by
  unfold runTopK; try dsimp only
  repeat' (first | intro _ | (with_reducible first | assumption | apply keeps_ite | apply writeVa_keeps | apply noteAcc_keeps | apply finishFlight_keeps | apply fenceRaise_keeps | apply keeps_foldl | apply keeps_foldl_fst | apply keeps_foldl_snd) | split)

theorem sendRows_keeps {s0 : State} {n} {id} {kind} {version} {eflags} {stamp} {beat} {devs} {rows} {s : State} (h : Keeps s0 s) :
    Keeps s0 (sendRows n id kind version eflags stamp beat devs rows s) := by
  unfold sendRows; try dsimp only
  repeat' (first | intro _ | (with_reducible first | assumption | apply keeps_ite | apply addParam_keeps | apply sendEntry_keeps | apply keeps_foldl | apply keeps_foldl_fst | apply keeps_foldl_snd) | split)

theorem sendGrads_keeps {s0 : State} {n} {r} {id} {version} {stamp} {beat} {t} {s : State} (h : Keeps s0 s) :
    Keeps s0 (sendGrads n r id version stamp beat t s) := by
  unfold sendGrads; try dsimp only
  repeat' (first | intro _ | (with_reducible first | assumption | apply keeps_ite | apply noteReject_keeps | apply sendGw_keeps | apply keeps_foldl | apply keeps_foldl_fst | apply keeps_foldl_snd) | split)

theorem startUpdate_keeps {s0 : State} {r} {n} {s : State} (h : Keeps s0 s) :
    Keeps s0 (startUpdate r n s) := by
  unfold startUpdate; try dsimp only
  repeat' (first | (with_reducible first | assumption | apply keeps_ite | apply finishFlight_keeps | apply echoBeat_keeps | apply endUpdate_keeps | apply sendRows_keeps | apply sendGrads_keeps) | split)

theorem nodeStart_keeps {s0 : State} {kind} {ds} {r} {n} {s : State} (h : Keeps s0 s) :
    Keeps s0 (nodeStart kind ds r n s) := by
  unfold nodeStart; try dsimp only
  repeat' (first | (with_reducible first | assumption | apply keeps_ite | apply startKernel_keeps | apply runTopK_keeps | apply startGather_keeps | apply startUpdate_keeps | apply runD2d_keeps | apply finishFlight_keeps | apply signalAll_keeps) | split)

theorem runNode_keeps {s0 : State} {g} {i} {x} {ds} {s : State} (h : Keeps s0 s) :
    Keeps s0 (runNode g i x ds s) := by
  unfold runNode; try dsimp only
  repeat' (first | (with_reducible first | assumption | apply keeps_ite | apply sendSnoops_keeps | apply failNode_keeps | apply offerStage_keeps | apply takeStage_keeps | apply nodeStart_keeps | apply addFlight_keeps | apply beginNode_keeps) | split)

theorem startJoin_keeps {s0 : State} {r} {n} {s : State} (h : Keeps s0 s) :
    Keeps s0 (startJoin r n s) := by
  unfold startJoin; try dsimp only
  repeat' (first | (with_reducible first | assumption | apply keeps_ite | apply updFlight_keeps | apply sendAll_keeps | apply updGroup_keeps | apply joinFail_keeps | apply sendMsg_keeps) | split)

theorem startLeave_keeps {s0 : State} {n} {s : State} (h : Keeps s0 s) :
    Keeps s0 (startLeave n s) := by
  unfold startLeave; try dsimp only
  repeat' (first | (with_reducible first | assumption | apply keeps_ite | apply updGroup_keeps | apply updFlight_keeps) | split)

theorem hostData_keeps {s0 : State} {q} {data} {s : State} (h : Keeps s0 s) :
    Keeps s0 (hostData q data s) := by
  unfold hostData; try dsimp only
  repeat' (first | intro _ | (with_reducible first | assumption | apply keeps_ite | apply updLink_keeps | apply writePhys_keeps | apply updFlight_keeps | apply noteAcc_keeps | apply finishFlight_keeps) | split)

theorem railsOff_keeps {s0 : State} {r} {s : State} (h : Keeps s0 s) :
    Keeps s0 (railsOff r s) := by
  unfold railsOff; try dsimp only
  repeat' (first | (with_reducible first | assumption | apply keeps_ite | apply updPower_keeps | apply coldState_keeps) | split)

theorem streamFence_keeps {s0 : State} {t} {x} {s : State} (h : Keeps s0 s) :
    Keeps s0 (streamFence t x s) := by
  unfold streamFence; try dsimp only
  repeat' (first | (with_reducible first | assumption | apply keeps_ite | apply runFence_keeps) | split)

theorem gatherFences_keeps {s0 : State} {tile} {s : State} (h : Keeps s0 s) :
    Keeps s0 (gatherFences tile s) := by
  unfold gatherFences; try dsimp only
  repeat' (first | intro _ | (with_reducible first | assumption | apply keeps_ite | apply streamFence_keeps | apply keeps_foldl | apply keeps_foldl_fst | apply keeps_foldl_snd) | split)

theorem takeInstance_keeps {s0 : State} {n} {inst} {s : State} (h : Keeps s0 s) :
    Keeps s0 (takeInstance n inst s) := by
  unfold takeInstance; try dsimp only
  repeat' (first | (with_reducible first | assumption | apply keeps_ite | apply updKernel_keeps) | split)

theorem startDup_keeps {s0 : State} {c} {f} {k} {s : State} (h : Keeps s0 s) :
    Keeps s0 (startDup c f k s) := by
  unfold startDup; try dsimp only
  repeat' (first | (with_reducible first | assumption | apply keeps_ite | apply beginRun_keeps | apply setCheck_keeps) | split)

theorem reserveFor_keeps {s0 : State} {c} {k} {s : State} (h : Keeps s0 s) :
    Keeps s0 (reserveFor c k s) := by
  unfold reserveFor; try dsimp only
  repeat' (first | intro _ | (with_reducible first | assumption | apply keeps_ite | apply updTile_keeps | apply keeps_foldl | apply keeps_foldl_fst | apply keeps_foldl_snd) | split)

theorem startPrimary.startChecked_keeps {s0 : State} {f} {k} {t} {inst} {reason} {ip} {big} {s : State} (h : Keeps s0 s) :
    Keeps s0 (startPrimary.startChecked f k t inst reason ip big s) := by
  unfold startPrimary.startChecked; try dsimp only
  repeat' (first | (with_reducible first | assumption | apply keeps_ite | apply addCheck_keeps | apply takeInstance_keeps | apply updTile_keeps | apply beginRun_keeps | apply startDup_keeps | apply reserveFor_keeps) | split)

theorem startPrimary_keeps {s0 : State} {f} {k} {t} {inst} {s : State} (h : Keeps s0 s) :
    Keeps s0 (startPrimary f k t inst s) := by
  unfold startPrimary; try dsimp only
  repeat' (first | (with_reducible first | assumption | apply keeps_ite | apply sampleDraw_keeps | apply beginRun_keeps | apply takeInstance_keeps | apply updPart_keeps | apply startPrimary.startChecked_keeps) | split)

theorem startFirst_keeps {s0 : State} {f} {k} {t} {inst} {s : State} (h : Keeps s0 s) :
    Keeps s0 (startFirst f k t inst s) := by
  unfold startFirst; try dsimp only
  repeat' (first | (with_reducible first | assumption | apply keeps_ite | apply startPrimary_keeps | apply finishFlight_keeps | apply updFlight_keeps | apply updKernel_keeps) | split)

theorem primaryStart_keeps {s0 : State} {f} {k} {t} {inst} {s : State} (h : Keeps s0 s) :
    Keeps s0 (primaryStart f k t inst s) := by
  unfold primaryStart; try dsimp only
  repeat' (first | (with_reducible first | assumption | apply keeps_ite | apply beginRun_keeps | apply startFirst_keeps) | split)

theorem linkTrained_keeps {s0 : State} {width} {speed} {cxl} {s : State} (h : Keeps s0 s) :
    Keeps s0 (linkTrained width speed cxl s) := by
  unfold linkTrained; try dsimp only
  repeat' (first | intro _ | (with_reducible first | assumption | apply keeps_ite | apply rejectReq_keeps | apply updLink_keeps | apply updPower_keeps | apply keeps_foldl | apply keeps_foldl_fst | apply keeps_foldl_snd) | split)

theorem mapoutCmd_keeps {s0 : State} {v} {s : State} (h : Keeps s0 s) :
    Keeps s0 (mapoutCmd v s) := by
  unfold mapoutCmd; try dsimp only
  repeat' (first | (with_reducible first | assumption | apply keeps_ite | apply mapoutBegin_keeps) | split)

theorem reroute_keeps {s0 : State} {k} {s : State} (h : Keeps s0 s) :
    Keeps s0 (reroute k s) := by
  unfold reroute; try dsimp only
  repeat' (first | intro _ | (with_reducible first | assumption | apply keeps_ite | apply updChan_keeps | apply serveRead_keeps | apply keeps_foldl | apply keeps_foldl_fst | apply keeps_foldl_snd) | split)

theorem stageFrame_keeps {s0 : State} {stack} {slot} {v} {s : State} (h : Keeps s0 s) :
    Keeps s0 (stageFrame stack slot v s) := by
  unfold stageFrame; try dsimp only
  repeat' (first | intro _ | (with_reducible first | assumption | apply keeps_ite | apply reroute_keeps | apply fillSlots_keeps | apply updMem_keeps) | split)

theorem mapoutDone_keeps {s0 : State} {stack} {s : State} (h : Keeps s0 s) :
    Keeps s0 (mapoutDone stack s) := by
  unfold mapoutDone; try dsimp only
  repeat' (first | (with_reducible first | assumption | apply keeps_ite | apply updStack_keeps | apply updChan_keeps | apply emit_keeps | apply dropSlots_keeps) | split)

theorem writeFrame_keeps {s0 : State} {stack} {slot} {v} {s : State} (h : Keeps s0 s) :
    Keeps s0 (writeFrame stack slot v s) := by
  unfold writeFrame; try dsimp only
  repeat' (first | intro _ | (with_reducible first | assumption | apply keeps_ite | apply updMem_keeps | apply mapoutDone_keeps | apply fillSlots_keeps | apply reroute_keeps) | split)

theorem markerEvent_keeps {s0 : State} {r} {s : State} (h : Keeps s0 s) :
    Keeps s0 (markerEvent r s) := by
  unfold markerEvent; try dsimp only
  repeat' (first | (with_reducible first | assumption | apply keeps_ite | apply emit_keeps) | split)

theorem noteGuard_keeps {s0 : State} {t} {b} {s : State} (h : Keeps s0 s) :
    Keeps s0 (noteGuard t b s) := by
  unfold noteGuard; try dsimp only
  repeat' (first | (with_reducible first | assumption | apply keeps_ite | apply updTile_keeps) | split)

theorem matrixEnd_keeps {s0 : State} {t} {r} {f} {k} {m} {s : State} (h : Keeps s0 s) :
    Keeps s0 (matrixEnd t r f k m s) := by
  unfold matrixEnd; try dsimp only
  repeat' (first | (with_reducible first | assumption | apply keeps_ite | apply noteAcc_keeps | apply noteGuard_keeps | apply updTile_keeps | apply deliver_keeps) | split)

theorem setLock_keeps {s0 : State} {l} {s : State} (h : Keeps s0 s) :
    Keeps s0 (setLock l s) := by
  unfold setLock; try dsimp only
  repeat' (first | (with_reducible first | assumption | apply keeps_ite | apply updClock_keeps | apply updTele_keeps | apply emit_keeps) | split)

theorem haltCheck_keeps {s0 : State} {tile} {f} {d} {s : State} (h : Keeps s0 s) :
    Keeps s0 (haltCheck tile f d s) := by
  unfold haltCheck; try dsimp only
  repeat' (first | (with_reducible first | assumption | apply keeps_ite | apply addCheck_keeps | apply setCheck_keeps | apply updTile_keeps) | split)

theorem rampUp_keeps {s0 : State} {tile} {s : State} (h : Keeps s0 s) :
    Keeps s0 (rampUp tile s) := by
  unfold rampUp; try dsimp only
  repeat' (first | intro _ | (with_reducible first | assumption | apply keeps_ite | apply updTile_keeps | apply keeps_foldl | apply keeps_foldl_fst | apply keeps_foldl_snd) | split)

theorem msixUnmask_keeps {s0 : State} {func} {vector} {s : State} (h : Keeps s0 s) :
    Keeps s0 (msixUnmask func vector s) := by
  unfold msixUnmask; try dsimp only
  repeat' (first | (with_reducible first | assumption | apply keeps_ite | apply updFunc_keeps | apply msix_keeps) | split)

theorem sendNext_keeps {s0 : State} {peer} {m} {s : State} (h : Keeps s0 s) :
    Keeps s0 (sendNext peer m s) := by
  unfold sendNext; try dsimp only
  repeat' (first | (with_reducible first | assumption | apply keeps_ite | apply sendPkt_keeps | apply updFlow_keeps) | split)

theorem transmit_keeps {s0 : State} {k} {cls} {x} {s : State} (h : Keeps s0 s) :
    Keeps s0 (transmit k cls x s) := by
  unfold transmit; try dsimp only
  repeat' (first | (with_reducible first | assumption | apply keeps_ite | apply sendNext_keeps | apply updSub_keeps) | split)

theorem staleEntries_keeps {s0 : State} {s : State} (h : Keeps s0 s) :
    Keeps s0 (staleEntries s) := by
  unfold staleEntries; try dsimp only
  repeat' (first | intro _ | (with_reducible first | assumption | apply keeps_ite | apply updTables_keeps | apply addParam_keeps | apply keeps_foldl | apply keeps_foldl_fst | apply keeps_foldl_snd) | split)

theorem warmQueues_keeps {s0 : State} {s : State} (h : Keeps s0 s) :
    Keeps s0 (warmQueues s) := by
  unfold warmQueues; try dsimp only
  repeat' (first | intro _ | (with_reducible first | assumption | apply keeps_ite | apply queueResetNow_keeps | apply keeps_foldl | apply keeps_foldl_fst | apply keeps_foldl_snd) | (with_reducible apply keeps_mk; first | (with_reducible first | assumption | apply keeps_ite | apply queueResetNow_keeps | apply keeps_foldl | apply keeps_foldl_fst | apply keeps_foldl_snd) | split) | split)

theorem warmReset_keeps {s0 : State} {code} {hubIntact} {s : State} (h : Keeps s0 s) :
    Keeps s0 (warmReset code hubIntact s) := by
  unfold warmReset; try dsimp only
  repeat' (first | intro _ | (with_reducible first | assumption | apply keeps_ite | apply coldReset_keeps | apply staleEntries_keeps | apply drainChannels_keeps | apply warmQueues_keeps | apply updMem_keeps | apply updTables_keeps | apply updSched_keeps | apply updNet_keeps | apply unserveTables_keeps | apply updInteg_keeps | apply recorderStop_keeps | apply updTele_keeps | apply updLink_keeps | apply updBeat_keeps | apply updSec_keeps | apply updPower_keeps) | (with_reducible apply keeps_mk; first | (with_reducible first | assumption | apply keeps_ite | apply coldReset_keeps | apply staleEntries_keeps | apply drainChannels_keeps | apply warmQueues_keeps | apply updMem_keeps | apply updTables_keeps | apply updSched_keeps | apply updNet_keeps | apply unserveTables_keeps | apply updInteg_keeps | apply recorderStop_keeps | apply updTele_keeps | apply updLink_keeps | apply updBeat_keeps | apply updSec_keeps | apply updPower_keeps) | split) | split)

theorem setLinkState_keeps {s0 : State} {sub} {up} {locked} {s : State} (h : Keeps s0 s) :
    Keeps s0 (setLinkState sub up locked s) := by
  unfold setLinkState; try dsimp only
  repeat' (first | (with_reducible first | assumption | apply keeps_ite | apply emit_keeps | apply updSub_keeps) | split)

theorem portsDown_keeps {s0 : State} {s : State} (h : Keeps s0 s) :
    Keeps s0 (portsDown s) := by
  unfold portsDown; try dsimp only
  repeat' (first | intro _ | (with_reducible first | assumption | apply keeps_ite | apply setLinkState_keeps | apply keeps_foldl | apply keeps_foldl_fst | apply keeps_foldl_snd) | split)

theorem measure_keeps {s0 : State} {off} {s : State} (h : Keeps s0 s) :
    Keeps s0 (measure off s) := by
  unfold measure; try dsimp only
  repeat' (first | (with_reducible first | assumption | apply keeps_ite | apply updClock_keeps | apply emitAt_keeps | apply setLock_keeps) | split)

theorem startPublish_keeps {s0 : State} {r} {n} {s : State} (h : Keeps s0 s) :
    Keeps s0 (startPublish r n s) := by
  unfold startPublish; try dsimp only
  repeat' (first | (with_reducible first | assumption | apply keeps_ite | apply finishFlight_keeps | apply endUpdate_keeps | apply sendRows_keeps | apply echoBeat_keeps) | split)

theorem targetS0_keeps {s0 : State} {s : State} (h : Keeps s0 s) :
    Keeps s0 (targetS0 s) := by
  unfold targetS0; try dsimp only
  repeat' (first | (with_reducible first | assumption | apply keeps_ite | apply updPower_keeps | apply admitReady_keeps | apply updGroup_keeps | apply wake_keeps) | split)

theorem startEntry_keeps {s0 : State} {t} {s : State} (h : Keeps s0 s) :
    Keeps s0 (startEntry t s) := by
  unfold startEntry; try dsimp only
  repeat' (first | (with_reducible first | assumption | apply keeps_ite | apply updPower_keeps | apply updGroup_keeps) | split)

theorem tileState_keeps {s0 : State} {t} {width} {retired} {lane} {inter} {s : State} (h : Keeps s0 s) :
    Keeps s0 (tileState t width retired lane inter s) := by
  unfold tileState; try dsimp only
  repeat' (first | (with_reducible first | assumption | apply keeps_ite | apply emit_keeps) | split)

theorem quarantineDone_keeps {s0 : State} {t} {r} {s : State} (h : Keeps s0 s) :
    Keeps s0 (quarantineDone t r s) := by
  unfold quarantineDone; try dsimp only
  repeat' (first | (with_reducible first | assumption | apply keeps_ite | apply updTile_keeps | apply tileState_keeps) | split)

theorem startQuery_keeps {s0 : State} {r} {n} {s : State} (h : Keeps s0 s) :
    Keeps s0 (startQuery r n s) := by
  unfold startQuery; try dsimp only
  repeat' (first | (with_reducible first | assumption | apply keeps_ite | apply resultTo_keeps | apply updFlight_keeps) | split)

theorem startQueueReset_keeps {s0 : State} {q} {s : State} (h : Keeps s0 s) :
    Keeps s0 (startQueueReset q s) := by
  unfold startQueueReset; try dsimp only
  repeat' (first | (with_reducible first | assumption | apply keeps_ite | apply queueResetStart_keeps) | split)

theorem queueRegWrite_keeps {s0 : State} {f} {q} {off} {size} {v} {s : State} (h : Keeps s0 s) :
    Keeps s0 (queueRegWrite f q off size v s) := by
  unfold queueRegWrite; try dsimp only
  repeat' (first | (with_reducible first | assumption | apply keeps_ite | apply updQueue_keeps | apply startQueueReset_keeps | apply enableQueue_keeps | apply disableQueue_keeps) | split)

theorem subWrite_keeps {s0 : State} {k} {off} {size} {v} {s : State} (h : Keeps s0 s) :
    Keeps s0 (subWrite k off size v s) := by
  unfold subWrite; try dsimp only
  repeat' (first | (with_reducible first | assumption | apply keeps_ite | apply updSub_keeps) | split)

theorem operator64_keeps {s0 : State} {off} {size} {v} {s : State} (h : Keeps s0 s) :
    Keeps s0 (operator64 off size v s) := by
  unfold operator64; try dsimp only
  repeat' (first | (with_reducible first | assumption | apply keeps_ite | apply updClover_keeps | apply billBase_keeps | apply faultqBase_keeps | apply subWrite_keeps) | exact keepsRes_fault | split)

theorem msixWrite_keeps {s0 : State} {f} {vec} {word} {v} {s : State} (h : Keeps s0 s) :
    Keeps s0 (msixWrite f vec word v s) := by
  unfold msixWrite; try dsimp only
  repeat' (first | (with_reducible first | assumption | apply keeps_ite | apply updFunc_keeps | apply msixUnmask_keeps) | split)

theorem faultqCtrl_keeps {s0 : State} {operator} {func} {v} {s : State} (h : Keeps s0 s) :
    Keeps s0 (faultqCtrl operator func v s) := by
  unfold faultqCtrl; try dsimp only
  repeat' (first | (with_reducible first | assumption | apply keeps_ite | apply setFaultq_keeps) | exact keepsRes_fault | split)

theorem expertWrite_keeps {s0 : State} {f} {off} {v} {s : State} (h : Keeps s0 s) :
    Keeps s0 (expertWrite f off v s) := by
  unfold expertWrite; try dsimp only
  repeat' (first | (with_reducible first | assumption | apply keeps_ite | apply updFunc_keeps | apply dbgResume_keeps | apply dbgAbort_keeps) | split)

theorem mapoutCtrl_keeps {s0 : State} {v} {s : State} (h : Keeps s0 s) :
    Keeps s0 (mapoutCtrl v s) := by
  unfold mapoutCtrl; try dsimp only
  repeat' (first | intro _ | (with_reducible first | assumption | apply keeps_ite | apply updMem_keeps) | split)

theorem schedCtrlWrite_keeps {s0 : State} {v} {s : State} (h : Keeps s0 s) :
    Keeps s0 (schedCtrlWrite v s) := by
  unfold schedCtrlWrite; try dsimp only
  repeat' (first | (with_reducible first | assumption | apply keeps_ite | apply updSched_keeps) | split)

theorem pfCtrl_keeps {s0 : State} {v} {s : State} (h : Keeps s0 s) :
    Keeps s0 (pfCtrl v s) := by
  unfold pfCtrl; try dsimp only
  repeat' (first | (with_reducible first | assumption | apply keeps_ite | apply updLink_keeps) | split)

theorem pwrCtrl_keeps {s0 : State} {v} {s : State} (h : Keeps s0 s) :
    Keeps s0 (pwrCtrl v s) := by
  unfold pwrCtrl; try dsimp only
  repeat' (first | (with_reducible first | assumption | apply keeps_ite | apply updPower_keeps | apply coldReset_keeps | apply warmReset_keeps | apply targetS0_keeps | apply enterS1_keeps | apply startEntry_keeps) | split)

theorem modWrite_keeps {s0 : State} {i} {v} {s : State} (h : Keeps s0 s) :
    Keeps s0 (modWrite i v s) := by
  unfold modWrite; try dsimp only
  repeat' (first | (with_reducible first | assumption | apply keeps_ite | apply updPower_keeps) | split)

theorem netCtrl_keeps {s0 : State} {v} {s : State} (h : Keeps s0 s) :
    Keeps s0 (netCtrl v s) := by
  unfold netCtrl; try dsimp only
  repeat' (first | (with_reducible first | assumption | apply keeps_ite | apply updNet_keeps) | split)

theorem netCc_keeps {s0 : State} {v} {s : State} (h : Keeps s0 s) :
    Keeps s0 (netCc v s) := by
  unfold netCc; try dsimp only
  repeat' (first | (with_reducible first | assumption | apply keeps_ite | apply updNet_keeps) | split)

theorem operatorWrite_keeps {s0 : State} {off} {v} {s : State} (h : Keeps s0 s) :
    Keeps s0 (operatorWrite off v s) := by
  unfold operatorWrite; try dsimp only
  repeat' (first | intro _ | (with_reducible first | assumption | apply keeps_ite | apply updClock_keeps | apply cloverWrite_keeps | apply updMem_keeps | apply mapoutCtrl_keeps | apply mapoutCmd_keeps | apply schedCtrlWrite_keeps | apply billHead_keeps | apply faultqCtrl_keeps | apply faultqHead_keeps | apply pfCtrl_keeps | apply pwrCtrl_keeps | apply modWrite_keeps | apply netCtrl_keeps | apply netCc_keeps | apply updPort_keeps) | (with_reducible apply keeps_mk; first | (with_reducible first | assumption | apply keeps_ite | apply updClock_keeps | apply cloverWrite_keeps | apply updMem_keeps | apply mapoutCtrl_keeps | apply mapoutCmd_keeps | apply schedCtrlWrite_keeps | apply billHead_keeps | apply faultqCtrl_keeps | apply faultqHead_keeps | apply pfCtrl_keeps | apply pwrCtrl_keeps | apply modWrite_keeps | apply netCtrl_keeps | apply netCc_keeps | apply updPort_keeps) | split) | exact keepsRes_fault | split)

theorem write32_keeps {s0 : State} {f} {off} {v} {s : State} (h : Keeps s0 s) :
    Keeps s0 (write32 f off v s) := by
  unfold write32; try dsimp only
  repeat' (first | (with_reducible first | assumption | apply keeps_ite | apply msixWrite_keeps | apply updClock_keeps | apply faultqCtrl_keeps | apply faultqHead_keeps | apply expertWrite_keeps | apply operatorWrite_keeps) | exact keepsRes_fault | split)

theorem regWrite_keeps {s0 : State} {f} {off} {size} {v} {s : State} (h : Keeps s0 s) :
    Keeps s0 (regWrite f off size v s) := by
  unfold regWrite; try dsimp only
  repeat' (first | (with_reducible first | assumption | apply keeps_ite | apply queueRegWrite_keeps | apply basic64_keeps | apply operator64_keeps | apply write32_keeps) | split)

theorem replayShadow_keeps {s0 : State} {q} {x1} {x2} {x3 : State} (h : Keeps s0 x3) :
    Keeps s0 (replayShadow q x1 x2 x3) := by
  induction x1 generalizing x2 x3 with
  | nil =>
    unfold replayShadow
    repeat' (first | (with_reducible first | assumption | apply keeps_ite | apply updQueue_keeps | apply blockedRecords_keeps | apply putRing_keeps) | split)
  | cons x l ih =>
    unfold replayShadow; try dsimp only
    repeat' (first | (with_reducible first | assumption | apply keeps_ite | apply updQueue_keeps | apply blockedRecords_keeps | apply putRing_keeps | apply ih) | split)

theorem startRetireCtx_keeps {s0 : State} {r} {n} {s : State} (h : Keeps s0 s) :
    Keeps s0 (startRetireCtx r n s) := by
  unfold startRetireCtx; try dsimp only
  repeat' (first | (with_reducible first | assumption | apply keeps_ite | apply retireStart_keeps | apply updFlight_keeps) | split)

theorem startRetrain_keeps {s0 : State} {c} {s : State} (h : Keeps s0 s) :
    Keeps s0 (startRetrain c s) := by
  unfold startRetrain; try dsimp only
  repeat' (first | (with_reducible first | assumption | apply keeps_ite | apply updChan_keeps) | split)

theorem takeSlot_keeps {s0 : State} {n} {s : State} (h : Keeps s0 s) :
    Keeps s0 (takeSlot n s) := by
  unfold takeSlot; try dsimp only
  repeat' (first | intro _ | (with_reducible first | assumption | apply keeps_ite | apply updMem_keeps | apply startRetrain_keeps | apply keeps_foldl | apply keeps_foldl_fst | apply keeps_foldl_snd) | split)

theorem giveUp_keeps {s0 : State} {peer} {psn} {s : State} (h : Keeps s0 s) :
    Keeps s0 (giveUp peer psn s) := by
  unfold giveUp; try dsimp only
  repeat' (first | intro _ | (with_reducible first | assumption | apply keeps_ite | apply emit_keeps | apply updFlow_keeps | apply msgFailed_keeps | apply keeps_foldl | apply keeps_foldl_fst | apply keeps_foldl_snd) | split)

theorem scrubStep_keeps {s0 : State} {s : State} (h : Keeps s0 s) :
    Keeps s0 (scrubStep s) := by
  unfold scrubStep; try dsimp only
  repeat' (first | intro _ | (with_reducible first | assumption | apply keeps_ite | apply updTele_keeps | apply emit_keeps | apply updChan_keeps | apply keeps_foldl | apply keeps_foldl_fst | apply keeps_foldl_snd) | split)

theorem scrubErrors_keeps {s0 : State} {pa} {few} {many} {s : State} (h : Keeps s0 s) :
    Keeps s0 (scrubErrors pa few many s) := by
  unfold scrubErrors; try dsimp only
  repeat' (first | intro _ | (with_reducible first | assumption | apply keeps_ite | apply updMem_keeps | apply keeps_foldl | apply keeps_foldl_fst | apply keeps_foldl_snd) | split)

theorem takeSample_keeps {s0 : State} {x} {s : State} (h : Keeps s0 s) :
    Keeps s0 (takeSample x s) := by
  unfold takeSample; try dsimp only
  repeat' (first | (with_reducible first | assumption | apply keeps_ite | apply updTele_keeps | apply updPower_keeps | apply monSample_keeps | apply answer_keeps) | split)

theorem producer_keeps {s0 : State} {v} {n} {s : State} (h : Keeps s0 s) :
    Keeps s0 (producer v n s) := by
  unfold producer; try dsimp only
  repeat' (first | (with_reducible first | assumption | apply keeps_ite | apply updQueue_keeps) | split)

theorem noteStore_keeps {s0 : State} {u} {x} {p} {s : State} (h : Keeps s0 s) :
    Keeps s0 (noteStore u x p s) := by
  unfold noteStore; try dsimp only
  repeat' (first | intro _ | (with_reducible first | assumption | apply keeps_ite | apply outPut_keeps | apply keeps_foldl | apply keeps_foldl_fst | apply keeps_foldl_snd) | split)

theorem streamSpend_keeps {s0 : State} {t} {p} {x} {parts} {n} {s : State} (h : Keeps s0 s) :
    Keeps s0 (streamSpend t p x parts n s) := by
  unfold streamSpend; try dsimp only
  repeat' (first | (with_reducible first | assumption | apply keeps_ite | apply meterHost_keeps | apply meterHbm_keeps | apply meterD2d_keeps) | split)

theorem storeDone_keeps {s0 : State} {t} {e} {f} {u} {r} {x} {index} {p} {s : State} (h : Keeps s0 s) :
    Keeps s0 (storeDone t e f u r x index p s) := by
  unfold storeDone; try dsimp only
  repeat' (first | intro _ | (with_reducible first | assumption | apply keeps_ite | apply updTile_keeps | apply noteStore_keeps | apply streamFence_keeps | apply updOut_keeps | apply streamSpend_keeps | apply afterSnoops_keeps | apply writePhys_keeps | apply noteAcc_keeps | apply keeps_foldl | apply keeps_foldl_fst | apply keeps_foldl_snd) | split)

theorem startRearm_keeps {s0 : State} {r} {n} {s : State} (h : Keeps s0 s) :
    Keeps s0 (startRearm r n s) := by
  unfold startRearm; try dsimp only
  repeat' (first | (with_reducible first | assumption | apply keeps_ite | apply finishFlight_keeps | apply updFlight_keeps | apply rearmNow_keeps) | split)

theorem loadDeliver_keeps {s0 : State} {t} {e} {n} {host} {f} {x} {s : State} (h : Keeps s0 s) :
    Keeps s0 (loadDeliver t e n host f x s) := by
  unfold loadDeliver; try dsimp only
  repeat' (first | intro _ | (with_reducible first | assumption | apply keeps_ite | apply arrayFlags_keeps | apply updTile_keeps | apply streamFence_keeps | apply streamSpend_keeps | apply afterSnoops_keeps | apply noteAcc_keeps | apply keeps_foldl | apply keeps_foldl_fst | apply keeps_foldl_snd) | split)

theorem gatherDeliver_keeps {s0 : State} {t} {e} {host} {f} {x} {s : State} (h : Keeps s0 s) :
    Keeps s0 (gatherDeliver t e host f x s) := by
  unfold gatherDeliver; try dsimp only
  repeat' (first | intro _ | (with_reducible first | assumption | apply keeps_ite | apply arrayFlags_keeps | apply updTile_keeps | apply countNull_keeps | apply streamSpend_keeps | apply afterSnoops_keeps | apply noteAcc_keeps | apply keeps_foldl | apply keeps_foldl_fst | apply keeps_foldl_snd) | split)

theorem sendSyncs_keeps {s0 : State} {r} {n} {beat} {t} {s : State} (h : Keeps s0 s) :
    Keeps s0 (sendSyncs r n beat t s) := by
  unfold sendSyncs; try dsimp only
  repeat' (first | intro _ | (with_reducible first | assumption | apply keeps_ite | apply updGroup_keeps | apply sendMsg_keeps | apply keeps_foldl | apply keeps_foldl_fst | apply keeps_foldl_snd) | split)

theorem startCommit_keeps {s0 : State} {r} {n} {s : State} (h : Keeps s0 s) :
    Keeps s0 (startCommit r n s) := by
  unfold startCommit; try dsimp only
  repeat' (first | (with_reducible first | assumption | apply keeps_ite | apply armTable_keeps | apply sendSyncs_keeps) | split)

theorem loadCopy_keeps {s0 : State} {n} {t} {src} {dst} {f} {s : State} (h : Keeps s0 s) :
    Keeps s0 (loadCopy n t src dst f s) := by
  unfold loadCopy; try dsimp only
  repeat' (first | intro _ | (with_reducible first | assumption | apply keeps_ite | apply writeRow_keeps | apply putPart_keeps | apply updFlight_keeps | apply sendMsg_keeps | apply keeps_foldl | apply keeps_foldl_fst | apply keeps_foldl_snd) | split)

theorem loadDense_keeps {s0 : State} {n} {r} {t} {l} {f} {host} {s : State} (h : Keeps s0 s) :
    Keeps s0 (loadDense n r t l f host s) := by
  unfold loadDense; try dsimp only
  repeat' (first | intro _ | (with_reducible first | assumption | apply keeps_ite | apply writeRow_keeps | apply noteAcc_keeps | apply keeps_foldl | apply keeps_foldl_fst | apply keeps_foldl_snd) | split)

theorem loadHostRead_keeps {s0 : State} {r} {t} {f} {s : State} (h : Keeps s0 s) :
    Keeps s0 (loadHostRead r t f s) := by
  unfold loadHostRead; try dsimp only
  repeat' (first | (with_reducible first | assumption | apply keeps_ite | apply meterHost_keeps | apply updOut_keeps) | split)

theorem startLoad_keeps {s0 : State} {host} {r} {n} {s : State} (h : Keeps s0 s) :
    Keeps s0 (startLoad host r n s) := by
  unfold startLoad; try dsimp only
  repeat' (first | (with_reducible first | assumption | apply keeps_ite | apply finishFlight_keeps | apply updTable_keeps | apply updFlight_keeps | apply loadCopy_keeps | apply loadDense_keeps | apply loadHostRead_keeps) | split)

theorem startRetire_keeps {s0 : State} {r} {n} {s : State} (h : Keeps s0 s) :
    Keeps s0 (startRetire r n s) := by
  unfold startRetire; try dsimp only
  repeat' (first | (with_reducible first | assumption | apply keeps_ite | apply finishFlight_keeps | apply updTable_keeps | apply dropTracking_keeps | apply signalOpt_keeps | apply destroyIfEmpty_keeps | apply updFlight_keeps | apply armTable_keeps) | split)

theorem loopDown_keeps {s0 : State} {p} {s : State} (h : Keeps s0 s) :
    Keeps s0 (loopDown p s) := by
  unfold loopDown; try dsimp only
  repeat' (first | intro _ | (with_reducible first | assumption | apply keeps_ite | apply setLinkState_keeps | apply keeps_foldl | apply keeps_foldl_fst | apply keeps_foldl_snd) | split)

theorem startTest_keeps {s0 : State} {r} {n} {s : State} (h : Keeps s0 s) :
    Keeps s0 (startTest r n s) := by
  unfold startTest; try dsimp only
  repeat' (first | intro _ | (with_reducible first | assumption | apply keeps_ite | apply loopDown_keeps | apply updFlight_keeps | apply keeps_foldl | apply keeps_foldl_fst | apply keeps_foldl_snd) | split)

theorem testUnitDone_keeps {s0 : State} {n} {u} {r} {detail} {action} {s : State} (h : Keeps s0 s) :
    Keeps s0 (testUnitDone n u r detail action s) := by
  unfold testUnitDone; try dsimp only
  repeat' (first | intro _ | (with_reducible first | assumption | apply keeps_ite | apply updFlight_keeps | apply writeVa_keeps | apply finishFlight_keeps | apply noteAcc_keeps | apply keeps_foldl | apply keeps_foldl_fst | apply keeps_foldl_snd) | exact keepsRes_fault | split)

theorem slotEnd_keeps {s0 : State} {t} {r} {s : State} (h : Keeps s0 s) :
    Keeps s0 (slotEnd t r s) := by
  unfold slotEnd; try dsimp only
  repeat' (first | (with_reducible first | assumption | apply keeps_ite | apply updTile_keeps | apply quarantine_keeps | apply calibrationDone_keeps | apply testUnitDone_keeps) | exact keepsRes_fault | split)

theorem unitEnd_keeps {s0 : State} {u} {r} {s : State} (h : Keeps s0 s) :
    Keeps s0 (unitEnd u r s) := by
  unfold unitEnd; try dsimp only
  repeat' (first | intro _ | (with_reducible first | assumption | apply keeps_ite | apply quarantineAll_keeps | apply updSub_keeps | apply updChan_keeps | apply emit_keeps | apply testUnitDone_keeps | apply keeps_foldl | apply keeps_foldl_fst | apply keeps_foldl_snd) | exact keepsRes_fault | split)

theorem startClose_keeps {s0 : State} {r} {n} {s : State} (h : Keeps s0 s) :
    Keeps s0 (startClose r n s) := by
  unfold startClose; try dsimp only
  repeat' (first | (with_reducible first | assumption | apply keeps_ite | apply updFlight_keeps | apply closeWindow_keeps | apply finishFlight_keeps) | split)

theorem openWindow_keeps {s0 : State} {r} {s : State} (h : Keeps s0 s) :
    Keeps s0 (openWindow r s) := by
  unfold openWindow; try dsimp only
  repeat' (first | intro _ | (with_reducible first | assumption | apply keeps_ite | apply updMem_keeps) | split)

theorem writeYarrow_keeps {s0 : State} {n} {c} {w} {recs} {k} {s : State} (h : Keeps s0 s) :
    Keeps s0 (writeYarrow n c w recs k s) := by
  unfold writeYarrow; try dsimp only
  repeat' (first | intro _ | (with_reducible first | assumption | apply keeps_ite | apply writeVa_keeps | apply noteAcc_keeps | apply keeps_foldl | apply keeps_foldl_fst | apply keeps_foldl_snd) | split)

theorem sendRecords_keeps {s0 : State} {n} {f} {g} {d} {s : State} (h : Keeps s0 s) :
    Keeps s0 (sendRecords n f g d s) := by
  unfold sendRecords; try dsimp only
  repeat' (first | intro _ | (with_reducible first | assumption | apply keeps_ite | apply sendKeys_keeps | apply keeps_foldl | apply keeps_foldl_fst | apply keeps_foldl_snd) | split)

theorem yarrowDone_keeps {s0 : State} {n} {d} {s : State} (h : Keeps s0 s) :
    Keeps s0 (yarrowDone n d s) := by
  unfold yarrowDone; try dsimp only
  repeat' (first | (with_reducible first | assumption | apply keeps_ite | apply writeYarrow_keeps | apply writeVa_keeps | apply fenceRaise_keeps | apply noteAcc_keeps | apply sendRecords_keeps | apply updGather_keeps | apply settleGather_keeps | apply beginBatches_keeps) | split)

theorem yarrowProgress_keeps {s0 : State} {n} {d} {k} {s : State} (h : Keeps s0 s) :
    Keeps s0 (yarrowProgress n d k s) := by
  unfold yarrowProgress; try dsimp only
  repeat' (first | (with_reducible first | assumption | apply keeps_ite | apply fenceRaise_keeps | apply writeYarrow_keeps) | split)

theorem tick_keeps {s0 : State} {s : State} (h : Keeps s0 s) :
    Keeps s0 (tick s) := by
  unfold tick; try dsimp only
  repeat' (first | (with_reducible first | assumption | apply keeps_ite | apply updClock_keeps) | split)

end Sys2Proof.Machine
end

