-- ==== Sys2Proof/Laws/KeepsRows.lean ====
section
/-! SUPPORT. The same of every command's meaning: one lemma per meaning, named after it. -/

namespace Sys2Proof.Machine

theorem execAck_keeps {s0 : State} {p} {s : State} (h : Keeps s0 s) :
    KeepsRes s0 (execAck p s) := by
  unfold execAck; try dsimp only
  repeat' (first | (with_reducible first | assumption | apply keeps_ite | apply receive_keeps | apply keepsRes_next | apply keepsRes_ite) | split)

theorem execAckTimer_keeps {s0 : State} {peer} {s : State} (h : Keeps s0 s) :
    KeepsRes s0 (execAckTimer peer s) := by
  unfold execAckTimer; try dsimp only
  repeat' (first | (with_reducible first | assumption | apply keeps_ite | apply sendAck_keeps | apply advance_keeps | apply keepsRes_next | apply keepsRes_ite) | split)

theorem execAdmissionResume_keeps {s0 : State} {s : State} (h : Keeps s0 s) :
    KeepsRes s0 (execAdmissionResume s) := by
  unfold execAdmissionResume; try dsimp only
  repeat' (first | (with_reducible first | assumption | apply keeps_ite | apply admitReady_keeps | apply updBeat_keeps | apply advance_keeps | apply keepsRes_doWhen | apply keepsRes_next | apply keepsRes_ite) | split)

theorem execAgingSummary_keeps {s0 : State} {s : State} (h : Keeps s0 s) :
    KeepsRes s0 (execAgingSummary s) := by
  unfold execAgingSummary; try dsimp only
  repeat' (first | intro _ | (with_reducible first | assumption | apply keeps_ite | apply advance_keeps | apply updTele_keeps | apply emit_keeps | apply keepsRes_next | apply keepsRes_ite | apply keeps_foldl | apply keeps_foldl_fst | apply keeps_foldl_snd) | split)

theorem execApplyWindowEnd_keeps {s0 : State} {part} {s : State} (h : Keeps s0 s) :
    KeepsRes s0 (execApplyWindowEnd part s) := by
  unfold execApplyWindowEnd; try dsimp only
  repeat' (first | (with_reducible first | assumption | apply keeps_ite | apply endWindow_keeps | apply keepsRes_next | apply keepsRes_ite) | split)

theorem execApplyWindowStart_keeps {s0 : State} {part} {s : State} (h : Keeps s0 s) :
    KeepsRes s0 (execApplyWindowStart part s) := by
  unfold execApplyWindowStart; try dsimp only
  repeat' (first | (with_reducible first | assumption | apply keeps_ite | apply startWindow_keeps | apply keepsRes_next | apply keepsRes_ite) | split)

theorem execArith_keeps {s0 : State} {tile} {op} {bf16} {m} {d} {a} {b} {c} {s : State} (h : Keeps s0 s) :
    KeepsRes s0 (execArith tile op bf16 m d a b c s) := by
  unfold execArith; try dsimp only
  repeat' (first | (with_reducible first | assumption | apply keeps_ite | apply seqOp_keeps | apply keepsRes_next | apply keepsRes_ite) | split)

theorem execArpRequest_keeps {s0 : State} {sub} {target} {s : State} (h : Keeps s0 s) :
    KeepsRes s0 (execArpRequest sub target s) := by
  unfold execArpRequest; try dsimp only
  repeat' (first | (with_reducible first | assumption | apply keeps_ite | apply putFrame_keeps | apply keepsRes_doWhen | apply keepsRes_next | apply keepsRes_ite) | split)

theorem execArrayRampDown_keeps {s0 : State} {tile} {s : State} (h : Keeps s0 s) :
    KeepsRes s0 (execArrayRampDown tile s) := by
  unfold execArrayRampDown; try dsimp only
  repeat' (first | intro _ | (with_reducible first | assumption | apply keeps_ite | apply updTile_keeps | apply keepsRes_doWhen | apply keepsRes_next | apply keepsRes_ite | apply keeps_foldl | apply keeps_foldl_fst | apply keeps_foldl_snd) | split)

theorem execAtomicAddF32_keeps {s0 : State} {p} {s : State} (h : Keeps s0 s) :
    KeepsRes s0 (execAtomicAddF32 p s) := by
  unfold execAtomicAddF32; try dsimp only
  repeat' (first | (with_reducible first | assumption | apply keeps_ite | apply receive_keeps | apply keepsRes_next | apply keepsRes_ite) | split)

theorem execAttest_keeps {s0 : State} {queue} {s : State} (h : Keeps s0 s) :
    KeepsRes s0 (execAttest queue s) := by
  unfold execAttest; try dsimp only
  repeat' (first | intro _ | (with_reducible first | assumption | apply keeps_ite | apply dispatch_keeps | apply startAttest_keeps | apply keepsRes_next | apply keepsRes_ite) | split)

theorem execBar_keeps {s0 : State} {tile} {group} {members} {s : State} (h : Keeps s0 s) :
    KeepsRes s0 (execBar tile group members s) := by
  unfold execBar; try dsimp only
  repeat' (first | (with_reducible first | assumption | apply keeps_ite | apply updTile_keeps | apply keepsRes_doWhen | apply keepsRes_next | apply keepsRes_ite) | (with_reducible apply keeps_mk; first | (with_reducible first | assumption | apply keeps_ite | apply updTile_keeps) | split) | split)

theorem execBar4Read_keeps {s0 : State} {func} {off} {len} {s : State} (h : Keeps s0 s) :
    KeepsRes s0 (execBar4Read func off len s) := by
  unfold execBar4Read; try dsimp only
  repeat' (first | intro _ | (with_reducible first | assumption | apply keeps_ite | apply hostAccess_keeps | apply barRead_keeps | apply keepsRes_next | apply keepsRes_ite) | split)

theorem execBar4Write_keeps {s0 : State} {func} {off} {data} {s : State} (h : Keeps s0 s) :
    KeepsRes s0 (execBar4Write func off data s) := by
  unfold execBar4Write; try dsimp only
  repeat' (first | intro _ | (with_reducible first | assumption | apply keeps_ite | apply hostAccess_keeps | apply barWrite_keeps | apply keepsRes_next | apply keepsRes_ite) | split)

theorem execBarGroupComplete_keeps {s0 : State} {die} {group} {s : State} (h : Keeps s0 s) :
    KeepsRes s0 (execBarGroupComplete die group s) := by
  unfold execBarGroupComplete; try dsimp only
  repeat' (first | intro _ | (with_reducible first | assumption | apply keeps_ite | apply updTile_keeps | apply keepsRes_doWhen | apply keepsRes_next | apply keepsRes_ite | apply keeps_foldl | apply keeps_foldl_fst | apply keeps_foldl_snd) | (with_reducible apply keeps_mk; first | (with_reducible first | assumption | apply keeps_ite | apply updTile_keeps | apply keeps_foldl | apply keeps_foldl_fst | apply keeps_foldl_snd) | split) | split)

theorem execBarrier_keeps {s0 : State} {queue} {s : State} (h : Keeps s0 s) :
    KeepsRes s0 (execBarrier queue s) := by
  unfold execBarrier; try dsimp only
  repeat' (first | intro _ | (with_reducible first | assumption | apply keeps_ite | apply dispatch_keeps | apply startNow_keeps | apply keepsRes_next | apply keepsRes_ite) | split)

theorem execBeatEdge_keeps {s0 : State} {devEnergyUj} {s : State} (h : Keeps s0 s) :
    KeepsRes s0 (execBeatEdge devEnergyUj s) := by
  unfold execBeatEdge; try dsimp only
  repeat' (first | (with_reducible first | assumption | apply keeps_ite | apply edgePower_keeps | apply edgeBegin_keeps | apply updTele_keeps | apply openBudgets_keeps | apply edgeConfig_keeps | apply settle_keeps | apply tablesStep6_keeps | apply advance_keeps | apply keepsRes_doWhen | apply keepsRes_next | apply keepsRes_ite) | split)

theorem execBeatHeadEnd_keeps {s0 : State} {s : State} (h : Keeps s0 s) :
    KeepsRes s0 (execBeatHeadEnd s) := by
  unfold execBeatHeadEnd; try dsimp only
  repeat' (first | (with_reducible first | assumption | apply keeps_ite | apply releaseGathers_keeps | apply overrunEvents_keeps | apply updBeat_keeps | apply advance_keeps | apply keepsRes_doWhen | apply keepsRes_next | apply keepsRes_ite) | split)

theorem execBeatPeriodSwitch_keeps {s0 : State} {s : State} (h : Keeps s0 s) :
    KeepsRes s0 (execBeatPeriodSwitch s) := by
  unfold execBeatPeriodSwitch; try dsimp only
  repeat' (first | (with_reducible first | assumption | apply keeps_ite | apply switchNow_keeps | apply advance_keeps | apply keepsRes_doWhen | apply keepsRes_next | apply keepsRes_ite) | split)

theorem execBeatSet_keeps {s0 : State} {queue} {s : State} (h : Keeps s0 s) :
    KeepsRes s0 (execBeatSet queue s) := by
  unfold execBeatSet; try dsimp only
  repeat' (first | intro _ | (with_reducible first | assumption | apply keeps_ite | apply stage_keeps | apply keepsRes_next | apply keepsRes_ite) | split)

theorem execBeatSync_keeps {s0 : State} {p} {s : State} (h : Keeps s0 s) :
    KeepsRes s0 (execBeatSync p s) := by
  unfold execBeatSync; try dsimp only
  repeat' (first | (with_reducible first | assumption | apply keeps_ite | apply receive_keeps | apply keepsRes_next | apply keepsRes_ite) | split)

theorem execBiTimeout_keeps {s0 : State} {line} {s : State} (h : Keeps s0 s) :
    KeepsRes s0 (execBiTimeout line s) := by
  unfold execBiTimeout; try dsimp only
  repeat' (first | (with_reducible first | assumption | apply keeps_ite | apply linkLost_keeps | apply advance_keeps | apply keepsRes_next | apply keepsRes_ite) | split)

theorem execBillBaseWrite_keeps {s0 : State} {value} {s : State} (h : Keeps s0 s) :
    KeepsRes s0 (execBillBaseWrite value s) := by
  unfold execBillBaseWrite; try dsimp only
  repeat' (first | intro _ | (with_reducible first | assumption | apply keeps_ite | apply hostAccess_keeps | apply billBase_keeps | apply keepsRes_next | apply keepsRes_ite) | split)

theorem execBillHeadWrite_keeps {s0 : State} {value} {s : State} (h : Keeps s0 s) :
    KeepsRes s0 (execBillHeadWrite value s) := by
  unfold execBillHeadWrite; try dsimp only
  repeat' (first | intro _ | (with_reducible first | assumption | apply keeps_ite | apply hostAccess_keeps | apply billHead_keeps | apply keepsRes_next | apply keepsRes_ite) | split)

theorem execBirsp_keeps {s0 : State} {line} {data} {s : State} (h : Keeps s0 s) :
    KeepsRes s0 (execBirsp line data s) := by
  unfold execBirsp; try dsimp only
  repeat' (first | (with_reducible first | assumption | apply keeps_ite | apply updLink_keeps | apply cxlStore_keeps | apply filterDel_keeps | apply filterPut_keeps | apply cxlRequest_keeps | apply keepsRes_next | apply keepsRes_ite) | split)

theorem execBootReady_keeps {s0 : State} {okA} {okB} {svnA} {svnB} {minA} {minB} {digest} {components} {regionOk} {s : State} (h : Keeps s0 s) :
    KeepsRes s0 (execBootReady okA okB svnA svnB minA minB digest components regionOk s) := by
  unfold execBootReady; try dsimp only
  repeat' (first | (with_reducible first | assumption | apply keeps_ite | apply bootInto_keeps | apply updSec_keeps | apply keepsRes_doWhen | apply keepsRes_next | apply keepsRes_ite) | split)

theorem execCalibrationTimer_keeps {s0 : State} {s : State} (h : Keeps s0 s) :
    KeepsRes s0 (execCalibrationTimer s) := by
  unfold execCalibrationTimer; try dsimp only
  repeat' (first | (with_reducible first | assumption | apply keeps_ite | apply advance_keeps | apply updInteg_keeps | apply keepsRes_next | apply keepsRes_ite) | split)

theorem execCcTick_keeps {s0 : State} {s : State} (h : Keeps s0 s) :
    KeepsRes s0 (execCcTick s) := by
  unfold execCcTick; try dsimp only
  repeat' (first | (with_reducible first | assumption | apply keeps_ite | apply advance_keeps | apply updNet_keeps | apply keepsRes_next | apply keepsRes_ite) | split)

theorem execCeHourRollover_keeps {s0 : State} {s : State} (h : Keeps s0 s) :
    KeepsRes s0 (execCeHourRollover s) := by
  unfold execCeHourRollover; try dsimp only
  repeat' (first | intro _ | (with_reducible first | assumption | apply keeps_ite | apply updMem_keeps | apply advance_keeps | apply keepsRes_next | apply keepsRes_ite) | split)

theorem execChallenge_keeps {s0 : State} {transport} {nonce} {s : State} (h : Keeps s0 s) :
    KeepsRes s0 (execChallenge transport nonce s) := by
  unfold execChallenge; try dsimp only
  repeat' (first | intro _ | (with_reducible first | assumption | apply keeps_ite | apply spdm_keeps | apply fresh32_keeps | apply answer_keeps | apply keepsRes_next | apply keepsRes_ite) | split)

theorem execChannelRequest_keeps {s0 : State} {context} {who} {write} {pa} {len} {data} {nibbles} {teasel} {lc} {background} {s : State} (h : Keeps s0 s) :
    KeepsRes s0 (execChannelRequest context who write pa len data nibbles teasel lc background s) := by
  unfold execChannelRequest; try dsimp only
  repeat' (first | intro _ | (with_reducible first | assumption | apply keeps_ite | apply memRow_keeps | apply issueTags_keeps | apply updMem_keeps | apply keepsRes_memRow | apply keepsRes_next | apply keepsRes_ite) | split)

theorem execChannelServe_keeps {s0 : State} {channel} {errorSymbols} {s : State} (h : Keeps s0 s) :
    KeepsRes s0 (execChannelServe channel errorSymbols s) := by
  unfold execChannelServe; try dsimp only
  repeat' (first | intro _ | (with_reducible first | assumption | apply keeps_ite | apply memRow_keeps | apply takeReq_keeps | apply monSample_keeps | apply findErrors_keeps | apply serveScrub_keeps | apply serveWriteBack_keeps | apply serveWrite_keeps | apply coalesce_keeps | apply serveRead_keeps | apply killsDue_keeps | apply issueTags_keeps | apply keepsRes_memRow | apply keepsRes_next | apply keepsRes_ite) | (with_reducible apply keeps_mk; first | (with_reducible first | assumption | apply keeps_ite | apply memRow_keeps | apply takeReq_keeps | apply monSample_keeps | apply findErrors_keeps | apply serveScrub_keeps | apply serveWriteBack_keeps | apply serveWrite_keeps | apply coalesce_keeps | apply serveRead_keeps | apply killsDue_keeps | apply issueTags_keeps) | split) | split)

theorem execCheckAgeExpiry_keeps {s0 : State} {tile} {s : State} (h : Keeps s0 s) :
    KeepsRes s0 (execCheckAgeExpiry tile s) := by
  unfold execCheckAgeExpiry; try dsimp only
  repeat' (first | (with_reducible first | assumption | apply keeps_ite | apply updTile_keeps | apply advance_keeps | apply keepsRes_doWhen | apply keepsRes_next | apply keepsRes_ite) | split)

theorem execCheckClear_keeps {s0 : State} {p} {s : State} (h : Keeps s0 s) :
    KeepsRes s0 (execCheckClear p s) := by
  unfold execCheckClear; try dsimp only
  repeat' (first | (with_reducible first | assumption | apply keeps_ite | apply receive_keeps | apply keepsRes_next | apply keepsRes_ite) | split)

theorem execCheckStatus_keeps {s0 : State} {queue} {s : State} (h : Keeps s0 s) :
    KeepsRes s0 (execCheckStatus queue s) := by
  unfold execCheckStatus; try dsimp only
  repeat' (first | intro _ | (with_reducible first | assumption | apply keeps_ite | apply dispatch_keeps | apply startCheckStatus_keeps | apply keepsRes_next | apply keepsRes_ite) | split)

theorem execCheckWatermarkTick_keeps {s0 : State} {s : State} (h : Keeps s0 s) :
    KeepsRes s0 (execCheckWatermarkTick s) := by
  unfold execCheckWatermarkTick; try dsimp only
  repeat' (first | (with_reducible first | assumption | apply keeps_ite | apply watermarkTick_keeps | apply keepsRes_next | apply keepsRes_ite) | split)

theorem execClassSet_keeps {s0 : State} {queue} {s : State} (h : Keeps s0 s) :
    KeepsRes s0 (execClassSet queue s) := by
  unfold execClassSet; try dsimp only
  repeat' (first | intro _ | (with_reducible first | assumption | apply keeps_ite | apply stage_keeps | apply keepsRes_next | apply keepsRes_ite) | split)

theorem execClearHalt_keeps {s0 : State} {func} {q} {gen} {s : State} (h : Keeps s0 s) :
    KeepsRes s0 (execClearHalt func q gen s) := by
  unfold execClearHalt; try dsimp only
  repeat' (first | intro _ | (with_reducible first | assumption | apply keeps_ite | apply doorbell_keeps | apply updQueue_keeps | apply keepsRes_next | apply keepsRes_ite) | split)

theorem execCloverFiredWrite_keeps {s0 : State} {value} {s : State} (h : Keeps s0 s) :
    KeepsRes s0 (execCloverFiredWrite value s) := by
  unfold execCloverFiredWrite; try dsimp only
  repeat' (first | intro _ | (with_reducible first | assumption | apply keeps_ite | apply hostAccess_keeps | apply firedWrite_keeps | apply keepsRes_next | apply keepsRes_ite) | split)

theorem execCloverLinkFire_keeps {s0 : State} {source} {s : State} (h : Keeps s0 s) :
    KeepsRes s0 (execCloverLinkFire source s) := by
  unfold execCloverLinkFire; try dsimp only
  repeat' (first | (with_reducible first | assumption | apply keeps_ite | apply cloverFire_keeps | apply keepsRes_doWhen | apply keepsRes_next | apply keepsRes_ite) | split)

theorem execCloverSupplyFire_keeps {s0 : State} {quarterVolts} {s : State} (h : Keeps s0 s) :
    KeepsRes s0 (execCloverSupplyFire quarterVolts s) := by
  unfold execCloverSupplyFire; try dsimp only
  repeat' (first | (with_reducible first | assumption | apply keeps_ite | apply cloverFire_keeps | apply keepsRes_doWhen | apply keepsRes_next | apply keepsRes_ite) | split)

theorem execCloverTempFire_keeps {s0 : State} {n} {celsius} {s : State} (h : Keeps s0 s) :
    KeepsRes s0 (execCloverTempFire n celsius s) := by
  unfold execCloverTempFire; try dsimp only
  repeat' (first | (with_reducible first | assumption | apply keeps_ite | apply cloverFire_keeps | apply keepsRes_doWhen | apply keepsRes_next | apply keepsRes_ite) | split)

theorem execCloverWakeFire_keeps {s0 : State} {n} {s : State} (h : Keeps s0 s) :
    KeepsRes s0 (execCloverWakeFire n s) := by
  unfold execCloverWakeFire; try dsimp only
  repeat' (first | (with_reducible first | assumption | apply keeps_ite | apply cloverFire_keeps | apply advance_keeps | apply keepsRes_doWhen | apply keepsRes_next | apply keepsRes_ite) | split)

theorem execCmp_keeps {s0 : State} {tile} {op} {m} {d} {a} {b} {s : State} (h : Keeps s0 s) :
    KeepsRes s0 (execCmp tile op m d a b s) := by
  unfold execCmp; try dsimp only
  repeat' (first | (with_reducible first | assumption | apply keeps_ite | apply seqOp_keeps | apply keepsRes_next | apply keepsRes_ite) | split)

theorem execColdReset_keeps {s0 : State} {s : State} (h : Keeps s0 s) :
    KeepsRes s0 (execColdReset s) := by
  unfold execColdReset; try dsimp only
  repeat' (first | intro _ | (with_reducible first | assumption | apply keeps_ite | apply hostAccess_keeps | apply coldReset_keeps | apply keepsRes_next | apply keepsRes_ite) | split)

theorem execCollectionClose_keeps {s0 : State} {part} {s : State} (h : Keeps s0 s) :
    KeepsRes s0 (execCollectionClose part s) := by
  unfold execCollectionClose; try dsimp only
  repeat' (first | (with_reducible first | assumption | apply keeps_ite | apply updTables_keeps | apply advance_keeps | apply keepsRes_doWhen | apply keepsRes_next | apply keepsRes_ite) | split)

theorem execCommandCompletion_keeps {s0 : State} {flight} {measuredUj} {rejected} {s : State} (h : Keeps s0 s) :
    KeepsRes s0 (execCommandCompletion flight measuredUj rejected s) := by
  unfold execCommandCompletion; try dsimp only
  repeat' (first | (with_reducible first | assumption | apply keeps_ite | apply completeFlight_keeps | apply settle_keeps | apply keepsRes_next | apply keepsRes_ite) | split)

theorem execConfigArm_keeps {s0 : State} {queue} {s : State} (h : Keeps s0 s) :
    KeepsRes s0 (execConfigArm queue s) := by
  unfold execConfigArm; try dsimp only
  repeat' (first | intro _ | (with_reducible first | assumption | apply keeps_ite | apply dispatch_keeps | apply startArm_keeps | apply keepsRes_next | apply keepsRes_ite) | split)

theorem execConfigNackResend_keeps {s0 : State} {peer} {mseq} {s : State} (h : Keeps s0 s) :
    KeepsRes s0 (execConfigNackResend peer mseq s) := by
  unfold execConfigNackResend; try dsimp only
  repeat' (first | (with_reducible first | assumption | apply keeps_ite | apply advance_keeps | apply msgFailed_keeps | apply updGroup_keeps | apply updFlow_keeps | apply keepsRes_next | apply keepsRes_ite) | split)

theorem execConfigPush_keeps {s0 : State} {p} {s : State} (h : Keeps s0 s) :
    KeepsRes s0 (execConfigPush p s) := by
  unfold execConfigPush; try dsimp only
  repeat' (first | (with_reducible first | assumption | apply keeps_ite | apply receive_keeps | apply keepsRes_next | apply keepsRes_ite) | split)

theorem execConfigStage_keeps {s0 : State} {queue} {s : State} (h : Keeps s0 s) :
    KeepsRes s0 (execConfigStage queue s) := by
  unfold execConfigStage; try dsimp only
  repeat' (first | intro _ | (with_reducible first | assumption | apply keeps_ite | apply dispatch_keeps | apply startNow_keeps | apply stageSet_keeps | apply keepsRes_next | apply keepsRes_ite) | split)

theorem execCopyD2d_keeps {s0 : State} {queue} {s : State} (h : Keeps s0 s) :
    KeepsRes s0 (execCopyD2d queue s) := by
  unfold execCopyD2d; try dsimp only
  repeat' (first | intro _ | (with_reducible first | assumption | apply keeps_ite | apply dispatch_keeps | apply runD2d_keeps | apply keepsRes_next | apply keepsRes_ite) | split)

theorem execCopyD2h_keeps {s0 : State} {queue} {s : State} (h : Keeps s0 s) :
    KeepsRes s0 (execCopyD2h queue s) := by
  unfold execCopyD2h; try dsimp only
  repeat' (first | intro _ | (with_reducible first | assumption | apply keeps_ite | apply dispatch_keeps | apply runD2h_keeps | apply keepsRes_next | apply keepsRes_ite) | split)

theorem execCopyH2d_keeps {s0 : State} {queue} {s : State} (h : Keeps s0 s) :
    KeepsRes s0 (execCopyH2d queue s) := by
  unfold execCopyH2d; try dsimp only
  repeat' (first | intro _ | (with_reducible first | assumption | apply keeps_ite | apply dispatch_keeps | apply runH2d_keeps | apply keepsRes_next | apply keepsRes_ite) | split)

theorem execCopyNet_keeps {s0 : State} {queue} {s : State} (h : Keeps s0 s) :
    KeepsRes s0 (execCopyNet queue s) := by
  unfold execCopyNet; try dsimp only
  repeat' (first | intro _ | (with_reducible first | assumption | apply keeps_ite | apply dispatch_keeps | apply runNet_keeps | apply keepsRes_next | apply keepsRes_ite) | split)

theorem execCqDb_keeps {s0 : State} {func} {q} {value} {s : State} (h : Keeps s0 s) :
    KeepsRes s0 (execCqDb func q value s) := by
  unfold execCqDb; try dsimp only
  repeat' (first | intro _ | (with_reducible first | assumption | apply keeps_ite | apply doorbell_keeps | apply consumer_keeps | apply keepsRes_next | apply keepsRes_ite) | split)

theorem execCvt_keeps {s0 : State} {tile} {op} {m} {d} {a} {s : State} (h : Keeps s0 s) :
    KeepsRes s0 (execCvt tile op m d a s) := by
  unfold execCvt; try dsimp only
  repeat' (first | (with_reducible first | assumption | apply keeps_ite | apply seqOp_keeps | apply keepsRes_next | apply keepsRes_ite) | split)

theorem execCxlMemRead_keeps {s0 : State} {dpa} {exclusive} {s : State} (h : Keeps s0 s) :
    KeepsRes s0 (execCxlMemRead dpa exclusive s) := by
  unfold execCxlMemRead; try dsimp only
  repeat' (first | intro _ | (with_reducible first | assumption | apply keeps_ite | apply hostAccess_keeps | apply cxlRequest_keeps | apply cxlReply_keeps | apply cxlDenied_keeps | apply keepsRes_next | apply keepsRes_ite) | split)

theorem execCxlMemWrite_keeps {s0 : State} {dpa} {data} {s : State} (h : Keeps s0 s) :
    KeepsRes s0 (execCxlMemWrite dpa data s) := by
  unfold execCxlMemWrite; try dsimp only
  repeat' (first | intro _ | (with_reducible first | assumption | apply keeps_ite | apply hostAccess_keeps | apply cxlRequest_keeps | apply cxlBlocked_keeps | apply keepsRes_next | apply keepsRes_ite) | split)

theorem execDataReadReq_keeps {s0 : State} {p} {s : State} (h : Keeps s0 s) :
    KeepsRes s0 (execDataReadReq p s) := by
  unfold execDataReadReq; try dsimp only
  repeat' (first | (with_reducible first | assumption | apply keeps_ite | apply receive_keeps | apply keepsRes_next | apply keepsRes_ite) | split)

theorem execDataReadResp_keeps {s0 : State} {p} {s : State} (h : Keeps s0 s) :
    KeepsRes s0 (execDataReadResp p s) := by
  unfold execDataReadResp; try dsimp only
  repeat' (first | (with_reducible first | assumption | apply keeps_ite | apply receive_keeps | apply keepsRes_next | apply keepsRes_ite) | split)

theorem execDataWrite_keeps {s0 : State} {p} {s : State} (h : Keeps s0 s) :
    KeepsRes s0 (execDataWrite p s) := by
  unfold execDataWrite; try dsimp only
  repeat' (first | (with_reducible first | assumption | apply keeps_ite | apply receive_keeps | apply keepsRes_next | apply keepsRes_ite) | split)

theorem execDbgAbort_keeps {s0 : State} {func} {s : State} (h : Keeps s0 s) :
    KeepsRes s0 (execDbgAbort func s) := by
  unfold execDbgAbort; try dsimp only
  repeat' (first | (with_reducible first | assumption | apply keeps_ite | apply dbgAbort_keeps | apply keepsRes_next | apply keepsRes_ite) | split)

theorem execDbgResume_keeps {s0 : State} {func} {s : State} (h : Keeps s0 s) :
    KeepsRes s0 (execDbgResume func s) := by
  unfold execDbgResume; try dsimp only
  repeat' (first | (with_reducible first | assumption | apply keeps_ite | apply dbgResume_keeps | apply keepsRes_next | apply keepsRes_ite) | split)

theorem execDeadlineExpiry_keeps {s0 : State} {queue} {s : State} (h : Keeps s0 s) :
    KeepsRes s0 (execDeadlineExpiry queue s) := by
  unfold execDeadlineExpiry; try dsimp only
  repeat' (first | (with_reducible first | assumption | apply keeps_ite | apply failHeadNow_keeps | apply advance_keeps | apply keepsRes_next | apply keepsRes_ite) | split)

theorem execDebugHalt_keeps {s0 : State} {tile} {s : State} (h : Keeps s0 s) :
    KeepsRes s0 (execDebugHalt tile s) := by
  unfold execDebugHalt; try dsimp only
  repeat' (first | (with_reducible first | assumption | apply keeps_ite | apply fillAcc_keeps | apply updTile_keeps | apply keepsRes_next | apply keepsRes_ite) | split)

theorem execDieTrip_keeps {s0 : State} {die} {milliC} {s : State} (h : Keeps s0 s) :
    KeepsRes s0 (execDieTrip die milliC s) := by
  unfold execDieTrip; try dsimp only
  repeat' (first | (with_reducible first | assumption | apply keeps_ite | apply dieLost_keeps | apply moduleFault_keeps | apply updPower_keeps | apply keepsRes_doWhen | apply keepsRes_next | apply keepsRes_ite) | split)

theorem execDiv_keeps {s0 : State} {tile} {sqrt} {m} {d} {a} {b} {s : State} (h : Keeps s0 s) :
    KeepsRes s0 (execDiv tile sqrt m d a b s) := by
  unfold execDiv; try dsimp only
  repeat' (first | (with_reducible first | assumption | apply keeps_ite | apply seqOp_keeps | apply keepsRes_next | apply keepsRes_ite) | split)

theorem execDoorbellSweep_keeps {s0 : State} {hostData} {s : State} (h : Keeps s0 s) :
    KeepsRes s0 (execDoorbellSweep hostData s) := by
  unfold execDoorbellSweep; try dsimp only
  repeat' (first | intro _ | (with_reducible first | assumption | apply keeps_ite | apply advance_keeps | apply sweepQueue_keeps | apply keepsRes_next | apply keepsRes_ite | apply keeps_foldl | apply keeps_foldl_fst | apply keeps_foldl_snd) | split)

theorem execDurationOverrun_keeps {s0 : State} {tile} {s : State} (h : Keeps s0 s) :
    KeepsRes s0 (execDurationOverrun tile s) := by
  unfold execDurationOverrun; try dsimp only
  repeat' (first | (with_reducible first | assumption | apply keeps_ite | apply emit_keeps | apply updPart_keeps | apply updTile_keeps | apply keepsRes_next | apply keepsRes_ite) | split)

theorem execEnd_keeps {s0 : State} {tile} {s : State} (h : Keeps s0 s) :
    KeepsRes s0 (execEnd tile s) := by
  unfold execEnd; try dsimp only
  repeat' (first | (with_reducible first | assumption | apply keeps_ite | apply updTile_keeps | apply keepsRes_doWhen | apply keepsRes_next | apply keepsRes_ite) | split)

theorem execEndSession_keeps {s0 : State} {transport} {session} {s : State} (h : Keeps s0 s) :
    KeepsRes s0 (execEndSession transport session s) := by
  unfold execEndSession; try dsimp only
  repeat' (first | intro _ | (with_reducible first | assumption | apply keeps_ite | apply spdm_keeps | apply answer_keeps | apply setSessions_keeps | apply keepsRes_next | apply keepsRes_ite) | split)

theorem execEventArrival_keeps {s0 : State} {s : State} (h : Keeps s0 s) :
    KeepsRes s0 (execEventArrival s) := by
  unfold execEventArrival; try dsimp only
  repeat' (first | (with_reducible first | assumption | apply keeps_ite | apply updTele_keeps | apply bootPut_keeps | apply recordEvent_keeps | apply keepsRes_next | apply keepsRes_ite) | split)

theorem execExtentMap_keeps {s0 : State} {queue} {s : State} (h : Keeps s0 s) :
    KeepsRes s0 (execExtentMap queue s) := by
  unfold execExtentMap; try dsimp only
  repeat' (first | intro _ | (with_reducible first | assumption | apply keeps_ite | apply dispatch_keeps | apply startNow_keeps | apply recheckMapouts_keeps | apply mapExtent_keeps | apply keepsRes_next | apply keepsRes_ite) | split)

theorem execExtentUnmap_keeps {s0 : State} {queue} {s : State} (h : Keeps s0 s) :
    KeepsRes s0 (execExtentUnmap queue s) := by
  unfold execExtentUnmap; try dsimp only
  repeat' (first | intro _ | (with_reducible first | assumption | apply keeps_ite | apply dispatch_keeps | apply startUnmap_keeps | apply keepsRes_next | apply keepsRes_ite) | split)

theorem execFaultqBaseWrite_keeps {s0 : State} {operator} {func} {value} {s : State} (h : Keeps s0 s) :
    KeepsRes s0 (execFaultqBaseWrite operator func value s) := by
  unfold execFaultqBaseWrite; try dsimp only
  repeat' (first | intro _ | (with_reducible first | assumption | apply keeps_ite | apply hostAccess_keeps | apply faultqBase_keeps | apply keepsRes_next | apply keepsRes_ite) | exact keepsRes_fault | split)

theorem execFaultqHeadWrite_keeps {s0 : State} {operator} {func} {value} {s : State} (h : Keeps s0 s) :
    KeepsRes s0 (execFaultqHeadWrite operator func value s) := by
  unfold execFaultqHeadWrite; try dsimp only
  repeat' (first | intro _ | (with_reducible first | assumption | apply keeps_ite | apply hostAccess_keeps | apply faultqHead_keeps | apply keepsRes_next | apply keepsRes_ite) | exact keepsRes_fault | split)

theorem execFenceCheckTick_keeps {s0 : State} {s : State} (h : Keeps s0 s) :
    KeepsRes s0 (execFenceCheckTick s) := by
  unfold execFenceCheckTick; try dsimp only
  repeat' (first | (with_reducible first | assumption | apply keeps_ite | apply timeouts_keeps | apply advance_keeps | apply breakCycles_keeps | apply keepsRes_next | apply keepsRes_ite) | split)

theorem execFenceSignal_keeps {s0 : State} {queue} {s : State} (h : Keeps s0 s) :
    KeepsRes s0 (execFenceSignal queue s) := by
  unfold execFenceSignal; try dsimp only
  repeat' (first | intro _ | (with_reducible first | assumption | apply keeps_ite | apply dispatch_keeps | apply startNow_keeps | apply signalAll_keeps | apply keepsRes_next | apply keepsRes_ite) | split)

theorem execFenceTimeout_keeps {s0 : State} {queue} {seq} {s : State} (h : Keeps s0 s) :
    KeepsRes s0 (execFenceTimeout queue seq s) := by
  unfold execFenceTimeout; try dsimp only
  repeat' (first | (with_reducible first | assumption | apply keeps_ite | apply timeoutHead_keeps | apply advance_keeps | apply timeoutFlight_keeps | apply keepsRes_next | apply keepsRes_ite) | split)

theorem execFenceWait_keeps {s0 : State} {queue} {s : State} (h : Keeps s0 s) :
    KeepsRes s0 (execFenceWait queue s) := by
  unfold execFenceWait; try dsimp only
  repeat' (first | intro _ | (with_reducible first | assumption | apply keeps_ite | apply dispatch_keeps | apply startFenceWait_keeps | apply keepsRes_next | apply keepsRes_ite) | split)

theorem execFinish_keeps {s0 : State} {transport} {session} {ok} {s : State} (h : Keeps s0 s) :
    KeepsRes s0 (execFinish transport session ok s) := by
  unfold execFinish; try dsimp only
  repeat' (first | intro _ | (with_reducible first | assumption | apply keeps_ite | apply spdm_keeps | apply answer_keeps | apply setSessions_keeps | apply keepsRes_next | apply keepsRes_ite) | split)

theorem execFlitCrcError_keeps {s0 : State} {link} {replayed} {s : State} (h : Keeps s0 s) :
    KeepsRes s0 (execFlitCrcError link replayed s) := by
  unfold execFlitCrcError; try dsimp only
  repeat' (first | (with_reducible first | assumption | apply keeps_ite | apply updInteg_keeps | apply moduleFault_keeps | apply keepsRes_next | apply keepsRes_ite) | split)

theorem execFlowKey_keeps {s0 : State} {queue} {s : State} (h : Keeps s0 s) :
    KeepsRes s0 (execFlowKey queue s) := by
  unfold execFlowKey; try dsimp only
  repeat' (first | intro _ | (with_reducible first | assumption | apply keeps_ite | apply dispatch_keeps | apply startNow_keeps | apply setFlowKey_keeps | apply keepsRes_next | apply keepsRes_ite) | split)

theorem execFrameReceive_keeps {s0 : State} {f} {s : State} (h : Keeps s0 s) :
    KeepsRes s0 (execFrameReceive f s) := by
  unfold execFrameReceive; try dsimp only
  repeat' (first | (with_reducible first | assumption | apply keeps_ite | apply countDrop_keeps | apply pfcCheck_keeps | apply updPort_keeps | apply keepsRes_next | apply keepsRes_ite) | split)

theorem execFsig_keeps {s0 : State} {tile} {fence} {value} {s : State} (h : Keeps s0 s) :
    KeepsRes s0 (execFsig tile fence value s) := by
  unfold execFsig; try dsimp only
  repeat' (first | (with_reducible first | assumption | apply keeps_ite | apply updTile_keeps | apply runFence_keeps | apply keepsRes_doWhen | apply keepsRes_next | apply keepsRes_ite) | split)

theorem execFunctionLevelReset_keeps {s0 : State} {func} {s : State} (h : Keeps s0 s) :
    KeepsRes s0 (execFunctionLevelReset func s) := by
  unfold execFunctionLevelReset; try dsimp only
  repeat' (first | intro _ | (with_reducible first | assumption | apply keeps_ite | apply hostAccess_keeps | apply resetFunc_keeps | apply updLink_keeps | apply keepsRes_next | apply keepsRes_ite | apply keeps_foldl | apply keeps_foldl_fst | apply keeps_foldl_snd) | split)

theorem execFwait_keeps {s0 : State} {tile} {fence} {value} {s : State} (h : Keeps s0 s) :
    KeepsRes s0 (execFwait tile fence value s) := by
  unfold execFwait; try dsimp only
  repeat' (first | (with_reducible first | assumption | apply keeps_ite | apply updTile_keeps | apply keepsRes_doWhen | apply keepsRes_next | apply keepsRes_ite) | split)

theorem execFwaitMet_keeps {s0 : State} {tile} {s : State} (h : Keeps s0 s) :
    KeepsRes s0 (execFwaitMet tile s) := by
  unfold execFwaitMet; try dsimp only
  repeat' (first | (with_reducible first | assumption | apply keeps_ite | apply updTile_keeps | apply keepsRes_doWhen | apply keepsRes_next | apply keepsRes_ite) | split)

theorem execGather_keeps {s0 : State} {queue} {s : State} (h : Keeps s0 s) :
    KeepsRes s0 (execGather queue s) := by
  unfold execGather; try dsimp only
  repeat' (first | intro _ | (with_reducible first | assumption | apply keeps_ite | apply dispatch_keeps | apply startGather_keeps | apply keepsRes_next | apply keepsRes_ite) | split)

theorem execGetCapabilities_keeps {s0 : State} {transport} {s : State} (h : Keeps s0 s) :
    KeepsRes s0 (execGetCapabilities transport s) := by
  unfold execGetCapabilities; try dsimp only
  repeat' (first | intro _ | (with_reducible first | assumption | apply keeps_ite | apply spdm_keeps | apply answer_keeps | apply setStage_keeps | apply keepsRes_next | apply keepsRes_ite) | split)

theorem execGetCertificate_keeps {s0 : State} {transport} {slot} {off} {len} {s : State} (h : Keeps s0 s) :
    KeepsRes s0 (execGetCertificate transport slot off len s) := by
  unfold execGetCertificate; try dsimp only
  repeat' (first | intro _ | (with_reducible first | assumption | apply keeps_ite | apply spdm_keeps | apply answer_keeps | apply keepsRes_next | apply keepsRes_ite) | split)

theorem execGetDigests_keeps {s0 : State} {transport} {s : State} (h : Keeps s0 s) :
    KeepsRes s0 (execGetDigests transport s) := by
  unfold execGetDigests; try dsimp only
  repeat' (first | intro _ | (with_reducible first | assumption | apply keeps_ite | apply spdm_keeps | apply answer_keeps | apply keepsRes_next | apply keepsRes_ite) | split)

theorem execGetMeasurements_keeps {s0 : State} {transport} {index} {nonce} {s : State} (h : Keeps s0 s) :
    KeepsRes s0 (execGetMeasurements transport index nonce s) := by
  unfold execGetMeasurements; try dsimp only
  repeat' (first | intro _ | (with_reducible first | assumption | apply keeps_ite | apply spdm_keeps | apply answer_keeps | apply keepsRes_next | apply keepsRes_ite) | split)

theorem execGetPdr_keeps {s0 : State} {handle} {s : State} (h : Keeps s0 s) :
    KeepsRes s0 (execGetPdr handle s) := by
  unfold execGetPdr; try dsimp only
  repeat' (first | intro _ | (with_reducible first | assumption | apply keeps_ite | apply pldm_keeps | apply answer_keeps | apply keepsRes_next | apply keepsRes_ite) | split)

theorem execGetPdrRepositoryInfo_keeps {s0 : State} {s : State} (h : Keeps s0 s) :
    KeepsRes s0 (execGetPdrRepositoryInfo s) := by
  unfold execGetPdrRepositoryInfo; try dsimp only
  repeat' (first | intro _ | (with_reducible first | assumption | apply keeps_ite | apply pldm_keeps | apply answer_keeps | apply keepsRes_next | apply keepsRes_ite) | split)

theorem execGetSensorReading_keeps {s0 : State} {sensor} {s : State} (h : Keeps s0 s) :
    KeepsRes s0 (execGetSensorReading sensor s) := by
  unfold execGetSensorReading; try dsimp only
  repeat' (first | intro _ | (with_reducible first | assumption | apply keeps_ite | apply pldm_keeps | apply answer_keeps | apply keepsRes_next | apply keepsRes_ite) | split)

theorem execGetSensorThresholds_keeps {s0 : State} {sensor} {s : State} (h : Keeps s0 s) :
    KeepsRes s0 (execGetSensorThresholds sensor s) := by
  unfold execGetSensorThresholds; try dsimp only
  repeat' (first | intro _ | (with_reducible first | assumption | apply keeps_ite | apply pldm_keeps | apply answer_keeps | apply keepsRes_next | apply keepsRes_ite) | split)

theorem execGetVersion_keeps {s0 : State} {transport} {s : State} (h : Keeps s0 s) :
    KeepsRes s0 (execGetVersion transport s) := by
  unfold execGetVersion; try dsimp only
  repeat' (first | intro _ | (with_reducible first | assumption | apply keeps_ite | apply spdm_keeps | apply answer_keeps | apply setStage_keeps | apply keepsRes_next | apply keepsRes_ite) | split)

theorem execGq_keeps {s0 : State} {tile} {stream} {off} {cnt} {s : State} (h : Keeps s0 s) :
    KeepsRes s0 (execGq tile stream off cnt s) := by
  unfold execGq; try dsimp only
  repeat' (first | (with_reducible first | assumption | apply keeps_ite | apply seqOp_keeps | apply keepsRes_next | apply keepsRes_ite) | split)

theorem execGraphNodeDispatch_keeps {s0 : State} {flight} {node} {streams} {s : State} (h : Keeps s0 s) :
    KeepsRes s0 (execGraphNodeDispatch flight node streams s) := by
  unfold execGraphNodeDispatch; try dsimp only
  repeat' (first | (with_reducible first | assumption | apply keeps_ite | apply runNode_keeps | apply keepsRes_next | apply keepsRes_ite) | split)

theorem execGroupJoin_keeps {s0 : State} {queue} {s : State} (h : Keeps s0 s) :
    KeepsRes s0 (execGroupJoin queue s) := by
  unfold execGroupJoin; try dsimp only
  repeat' (first | intro _ | (with_reducible first | assumption | apply keeps_ite | apply dispatch_keeps | apply startJoin_keeps | apply keepsRes_next | apply keepsRes_ite) | split)

theorem execGroupLeave_keeps {s0 : State} {queue} {s : State} (h : Keeps s0 s) :
    KeepsRes s0 (execGroupLeave queue s) := by
  unfold execGroupLeave; try dsimp only
  repeat' (first | intro _ | (with_reducible first | assumption | apply keeps_ite | apply dispatch_keeps | apply startLeave_keeps | apply keepsRes_next | apply keepsRes_ite) | split)

theorem execGroupMismatch_keeps {s0 : State} {p} {s : State} (h : Keeps s0 s) :
    KeepsRes s0 (execGroupMismatch p s) := by
  unfold execGroupMismatch; try dsimp only
  repeat' (first | (with_reducible first | assumption | apply keeps_ite | apply receive_keeps | apply keepsRes_next | apply keepsRes_ite) | split)

theorem execGroupState_keeps {s0 : State} {queue} {s : State} (h : Keeps s0 s) :
    KeepsRes s0 (execGroupState queue s) := by
  unfold execGroupState; try dsimp only
  repeat' (first | intro _ | (with_reducible first | assumption | apply keeps_ite | apply dispatch_keeps | apply resultTo_keeps | apply updFlight_keeps | apply keepsRes_next | apply keepsRes_ite) | split)

theorem execGuardReplayDone_keeps {s0 : State} {tile} {s : State} (h : Keeps s0 s) :
    KeepsRes s0 (execGuardReplayDone tile s) := by
  unfold execGuardReplayDone; try dsimp only
  repeat' (first | (with_reducible first | assumption | apply keeps_ite | apply deliver_keeps | apply keepsRes_next | apply keepsRes_ite) | split)

theorem execGuardWindowStart_keeps {s0 : State} {channel} {s : State} (h : Keeps s0 s) :
    KeepsRes s0 (execGuardWindowStart channel s) := by
  unfold execGuardWindowStart; try dsimp only
  repeat' (first | intro _ | (with_reducible first | assumption | apply keeps_ite | apply memRow_keeps | apply killsDue_keeps | apply updChan_keeps | apply advance_keeps | apply keepsRes_memRow | apply keepsRes_next | apply keepsRes_ite) | split)

theorem execHeartbeat_keeps {s0 : State} {transport} {session} {s : State} (h : Keeps s0 s) :
    KeepsRes s0 (execHeartbeat transport session s) := by
  unfold execHeartbeat; try dsimp only
  repeat' (first | intro _ | (with_reducible first | assumption | apply keeps_ite | apply spdm_keeps | apply answer_keeps | apply keepsRes_next | apply keepsRes_ite) | split)

theorem execHoldover_keeps {s0 : State} {s : State} (h : Keeps s0 s) :
    KeepsRes s0 (execHoldover s) := by
  unfold execHoldover; try dsimp only
  repeat' (first | (with_reducible first | assumption | apply keeps_ite | apply updClock_keeps | apply advance_keeps | apply keepsRes_next | apply keepsRes_ite) | split)

theorem execHostAccessReject_keeps {s0 : State} {id} {s : State} (h : Keeps s0 s) :
    KeepsRes s0 (execHostAccessReject id s) := by
  unfold execHostAccessReject; try dsimp only
  repeat' (first | (with_reducible first | assumption | apply keeps_ite | apply issueHosts_keeps | apply rejectReq_keeps | apply keepsRes_next | apply keepsRes_ite) | split)

theorem execHostReadCompletion_keeps {s0 : State} {id} {data} {s : State} (h : Keeps s0 s) :
    KeepsRes s0 (execHostReadCompletion id data s) := by
  unfold execHostReadCompletion; try dsimp only
  repeat' (first | intro _ | (with_reducible first | assumption | apply keeps_ite | apply afterSnoops_keeps | apply issueHosts_keeps | apply hostData_keeps | apply keepsRes_next | apply keepsRes_ite) | split)

theorem execHostSnoop_keeps {s0 : State} {line} {s : State} (h : Keeps s0 s) :
    KeepsRes s0 (execHostSnoop line s) := by
  unfold execHostSnoop; try dsimp only
  repeat' (first | (with_reducible first | assumption | apply keeps_ite | apply updOut_keeps | apply keepsRes_doWhen | apply keepsRes_next | apply keepsRes_ite) | split)

theorem execHostWriteGo_keeps {s0 : State} {id} {s : State} (h : Keeps s0 s) :
    KeepsRes s0 (execHostWriteGo id s) := by
  unfold execHostWriteGo; try dsimp only
  repeat' (first | (with_reducible first | assumption | apply keeps_ite | apply updLink_keeps | apply issueHosts_keeps | apply trySignal_keeps | apply touchDone_keeps | apply updFlight_keeps | apply keepsRes_next | apply keepsRes_ite) | split)

theorem execHubSramEccError_keeps {s0 : State} {doubleBit} {s : State} (h : Keeps s0 s) :
    KeepsRes s0 (execHubSramEccError doubleBit s) := by
  unfold execHubSramEccError; try dsimp only
  repeat' (first | (with_reducible first | assumption | apply keeps_ite | apply moduleFault_keeps | apply keepsRes_doWhen | apply keepsRes_next | apply keepsRes_ite) | split)

theorem execHubTrip_keeps {s0 : State} {milliC} {s : State} (h : Keeps s0 s) :
    KeepsRes s0 (execHubTrip milliC s) := by
  unfold execHubTrip; try dsimp only
  repeat' (first | (with_reducible first | assumption | apply keeps_ite | apply updPower_keeps | apply railsOff_keeps | apply keepsRes_doWhen | apply keepsRes_next | apply keepsRes_ite) | split)

theorem execHubTripRecovery_keeps {s0 : State} {milliC} {s : State} (h : Keeps s0 s) :
    KeepsRes s0 (execHubTripRecovery milliC s) := by
  unfold execHubTripRecovery; try dsimp only
  repeat' (first | (with_reducible first | assumption | apply keeps_ite | apply coldReset_keeps | apply keepsRes_doWhen | apply keepsRes_next | apply keepsRes_ite) | split)

theorem execIdeIntegrityFail_keeps {s0 : State} {func} {s : State} (h : Keeps s0 s) :
    KeepsRes s0 (execIdeIntegrityFail func s) := by
  unfold execIdeIntegrityFail; try dsimp only
  repeat' (first | intro _ | (with_reducible first | assumption | apply keeps_ite | apply updLink_keeps | apply tdiError_keeps | apply updFunc_keeps | apply keepsRes_next | apply keepsRes_ite | apply keeps_foldl | apply keeps_foldl_fst | apply keeps_foldl_snd) | split)

theorem execIdeKm_keeps {s0 : State} {func} {s : State} (h : Keeps s0 s) :
    KeepsRes s0 (execIdeKm func s) := by
  unfold execIdeKm; try dsimp only
  repeat' (first | (with_reducible first | assumption | apply keeps_ite | apply answer_keeps | apply updLink_keeps | apply updFunc_keeps | apply keepsRes_next | apply keepsRes_ite) | split)

theorem execIdleTimeout_keeps {s0 : State} {s : State} (h : Keeps s0 s) :
    KeepsRes s0 (execIdleTimeout s) := by
  unfold execIdleTimeout; try dsimp only
  repeat' (first | (with_reducible first | assumption | apply keeps_ite | apply enterS1_keeps | apply advance_keeps | apply keepsRes_doWhen | apply keepsRes_next | apply keepsRes_ite) | split)

theorem execInputPowerLoss_keeps {s0 : State} {s : State} (h : Keeps s0 s) :
    KeepsRes s0 (execInputPowerLoss s) := by
  unfold execInputPowerLoss; try dsimp only
  repeat' (first | (with_reducible first | assumption | apply keeps_ite | apply updPower_keeps | apply powerLost_keeps | apply keepsRes_next | apply keepsRes_ite) | split)

theorem execInstanceEnd_keeps {s0 : State} {tile} {s : State} (h : Keeps s0 s) :
    KeepsRes s0 (execInstanceEnd tile s) := by
  unfold execInstanceEnd; try dsimp only
  repeat' (first | (with_reducible first | assumption | apply keeps_ite | apply gatherFences_keeps | apply endRun_keeps | apply keepsRes_next | apply keepsRes_ite) | split)

theorem execInstanceStart_keeps {s0 : State} {tile} {flight} {inst} {s : State} (h : Keeps s0 s) :
    KeepsRes s0 (execInstanceStart tile flight inst s) := by
  unfold execInstanceStart; try dsimp only
  repeat' (first | (with_reducible first | assumption | apply keeps_ite | apply checkStart_keeps | apply primaryStart_keeps | apply keepsRes_next | apply keepsRes_ite) | split)

theorem execInt_keeps {s0 : State} {tile} {op} {m} {d} {a} {b} {s : State} (h : Keeps s0 s) :
    KeepsRes s0 (execInt tile op m d a b s) := by
  unfold execInt; try dsimp only
  repeat' (first | (with_reducible first | assumption | apply keeps_ite | apply seqOp_keeps | apply keepsRes_next | apply keepsRes_ite) | split)

theorem execJoinAccept_keeps {s0 : State} {p} {s : State} (h : Keeps s0 s) :
    KeepsRes s0 (execJoinAccept p s) := by
  unfold execJoinAccept; try dsimp only
  repeat' (first | (with_reducible first | assumption | apply keeps_ite | apply receive_keeps | apply keepsRes_next | apply keepsRes_ite) | split)

theorem execJoinRefuse_keeps {s0 : State} {p} {s : State} (h : Keeps s0 s) :
    KeepsRes s0 (execJoinRefuse p s) := by
  unfold execJoinRefuse; try dsimp only
  repeat' (first | (with_reducible first | assumption | apply keeps_ite | apply receive_keeps | apply keepsRes_next | apply keepsRes_ite) | split)

theorem execJoinReq_keeps {s0 : State} {p} {s : State} (h : Keeps s0 s) :
    KeepsRes s0 (execJoinReq p s) := by
  unfold execJoinReq; try dsimp only
  repeat' (first | (with_reducible first | assumption | apply keeps_ite | apply receive_keeps | apply keepsRes_next | apply keepsRes_ite) | split)

theorem execJunctionLimit_keeps {s0 : State} {die} {milliC} {s : State} (h : Keeps s0 s) :
    KeepsRes s0 (execJunctionLimit die milliC s) := by
  unfold execJunctionLimit; try dsimp only
  repeat' (first | (with_reducible first | assumption | apply keeps_ite | apply emit_keeps | apply keepsRes_doWhen | apply keepsRes_next | apply keepsRes_ite) | split)

theorem execKernelComplete_keeps {s0 : State} {flight} {s : State} (h : Keeps s0 s) :
    KeepsRes s0 (execKernelComplete flight s) := by
  unfold execKernelComplete; try dsimp only
  repeat' (first | (with_reducible first | assumption | apply keeps_ite | apply completeKernel_keeps | apply keepsRes_next | apply keepsRes_ite) | split)

theorem execKeyDomainCreate_keeps {s0 : State} {queue} {s : State} (h : Keeps s0 s) :
    KeepsRes s0 (execKeyDomainCreate queue s) := by
  unfold execKeyDomainCreate; try dsimp only
  repeat' (first | intro _ | (with_reducible first | assumption | apply keeps_ite | apply dispatch_keeps | apply startNow_keeps | apply createDomain_keeps | apply keepsRes_next | apply keepsRes_ite) | split)

theorem execKeyDomainErase_keeps {s0 : State} {queue} {s : State} (h : Keeps s0 s) :
    KeepsRes s0 (execKeyDomainErase queue s) := by
  unfold execKeyDomainErase; try dsimp only
  repeat' (first | intro _ | (with_reducible first | assumption | apply keeps_ite | apply dispatch_keeps | apply startNow_keeps | apply eraseDomain_keeps | apply keepsRes_next | apply keepsRes_ite) | split)

theorem execKeyExchange_keeps {s0 : State} {transport} {peerKey} {s : State} (h : Keeps s0 s) :
    KeepsRes s0 (execKeyExchange transport peerKey s) := by
  unfold execKeyExchange; try dsimp only
  repeat' (first | intro _ | (with_reducible first | assumption | apply keeps_ite | apply spdm_keeps | apply answer_keeps | apply fresh32_keeps | apply setSessions_keeps | apply keepsRes_next | apply keepsRes_ite) | split)

theorem execKeyUpdate_keeps {s0 : State} {transport} {session} {s : State} (h : Keeps s0 s) :
    KeepsRes s0 (execKeyUpdate transport session s) := by
  unfold execKeyUpdate; try dsimp only
  repeat' (first | intro _ | (with_reducible first | assumption | apply keeps_ite | apply spdm_keeps | apply answer_keeps | apply setSessions_keeps | apply keepsRes_next | apply keepsRes_ite) | split)

theorem execLaunchGraph_keeps {s0 : State} {queue} {s : State} (h : Keeps s0 s) :
    KeepsRes s0 (execLaunchGraph queue s) := by
  unfold execLaunchGraph; try dsimp only
  repeat' (first | intro _ | (with_reducible first | assumption | apply keeps_ite | apply dispatch_keeps | apply startGraph_keeps | apply keepsRes_next | apply keepsRes_ite) | split)

theorem execLaunchKernel_keeps {s0 : State} {queue} {streams} {s : State} (h : Keeps s0 s) :
    KeepsRes s0 (execLaunchKernel queue streams s) := by
  unfold execLaunchKernel; try dsimp only
  repeat' (first | intro _ | (with_reducible first | assumption | apply keeps_ite | apply dispatch_keeps | apply startKernel_keeps | apply keepsRes_next | apply keepsRes_ite) | split)

theorem execLdv_keeps {s0 : State} {tile} {m} {d} {addr} {s : State} (h : Keeps s0 s) :
    KeepsRes s0 (execLdv tile m d addr s) := by
  unfold execLdv; try dsimp only
  repeat' (first | (with_reducible first | assumption | apply keeps_ite | apply seqOp_keeps | apply keepsRes_next | apply keepsRes_ite) | split)

theorem execLeave_keeps {s0 : State} {p} {s : State} (h : Keeps s0 s) :
    KeepsRes s0 (execLeave p s) := by
  unfold execLeave; try dsimp only
  repeat' (first | (with_reducible first | assumption | apply keeps_ite | apply receive_keeps | apply keepsRes_next | apply keepsRes_ite) | split)

theorem execLend_keeps {s0 : State} {tile} {s : State} (h : Keeps s0 s) :
    KeepsRes s0 (execLend tile s) := by
  unfold execLend; try dsimp only
  repeat' (first | (with_reducible first | assumption | apply keeps_ite | apply updTile_keeps | apply keepsRes_next | apply keepsRes_ite) | exact keepsRes_fault | split)

theorem execLinkLoss_keeps {s0 : State} {cause} {s : State} (h : Keeps s0 s) :
    KeepsRes s0 (execLinkLoss cause s) := by
  unfold execLinkLoss; try dsimp only
  repeat' (first | (with_reducible first | assumption | apply keeps_ite | apply linkLost_keeps | apply keepsRes_doWhen | apply keepsRes_next | apply keepsRes_ite) | split)

theorem execLinkUp_keeps {s0 : State} {width} {speed} {cxl} {s : State} (h : Keeps s0 s) :
    KeepsRes s0 (execLinkUp width speed cxl s) := by
  unfold execLinkUp; try dsimp only
  repeat' (first | (with_reducible first | assumption | apply keeps_ite | apply linkTrained_keeps | apply keepsRes_doWhen | apply keepsRes_next | apply keepsRes_ite) | split)

theorem execLockstepMismatch_keeps {s0 : State} {s : State} (h : Keeps s0 s) :
    KeepsRes s0 (execLockstepMismatch s) := by
  unfold execLockstepMismatch; try dsimp only
  repeat' (first | (with_reducible first | assumption | apply keeps_ite | apply moduleFault_keeps | apply keepsRes_next | apply keepsRes_ite) | split)

theorem execLongInstanceCheck_keeps {s0 : State} {tile} {duplicateTile} {s : State} (h : Keeps s0 s) :
    KeepsRes s0 (execLongInstanceCheck tile duplicateTile s) := by
  unfold execLongInstanceCheck; try dsimp only
  repeat' (first | (with_reducible first | assumption | apply keeps_ite | apply addCheck_keeps | apply updTile_keeps | apply setCheck_keeps | apply checkStart_keeps | apply keepsRes_next | apply keepsRes_ite) | split)

theorem execLoop_keeps {s0 : State} {tile} {src} {bodyLen} {s : State} (h : Keeps s0 s) :
    KeepsRes s0 (execLoop tile src bodyLen s) := by
  unfold execLoop; try dsimp only
  repeat' (first | (with_reducible first | assumption | apply keeps_ite | apply updTile_keeps | apply keepsRes_next | apply keepsRes_ite) | exact keepsRes_fault | split)

theorem execMapoutCmd_keeps {s0 : State} {value} {s : State} (h : Keeps s0 s) :
    KeepsRes s0 (execMapoutCmd value s) := by
  unfold execMapoutCmd; try dsimp only
  repeat' (first | intro _ | (with_reducible first | assumption | apply keeps_ite | apply memRow_keeps | apply mapoutCmd_keeps | apply keepsRes_memRow | apply keepsRes_next | apply keepsRes_ite) | split)

theorem execMapoutFrameStaged_keeps {s0 : State} {stack} {slot} {s : State} (h : Keeps s0 s) :
    KeepsRes s0 (execMapoutFrameStaged stack slot s) := by
  unfold execMapoutFrameStaged; try dsimp only
  repeat' (first | intro _ | (with_reducible first | assumption | apply keeps_ite | apply memRow_keeps | apply stageFrame_keeps | apply keepsRes_memRow | apply keepsRes_next | apply keepsRes_ite) | split)

theorem execMapoutFrameWritten_keeps {s0 : State} {stack} {slot} {s : State} (h : Keeps s0 s) :
    KeepsRes s0 (execMapoutFrameWritten stack slot s) := by
  unfold execMapoutFrameWritten; try dsimp only
  repeat' (first | intro _ | (with_reducible first | assumption | apply keeps_ite | apply memRow_keeps | apply writeFrame_keeps | apply keepsRes_memRow | apply keepsRes_next | apply keepsRes_ite) | split)

theorem execMapoutStart_keeps {s0 : State} {stack} {s : State} (h : Keeps s0 s) :
    KeepsRes s0 (execMapoutStart stack s) := by
  unfold execMapoutStart; try dsimp only
  repeat' (first | intro _ | (with_reducible first | assumption | apply keeps_ite | apply memRow_keeps | apply mapoutTry_keeps | apply keepsRes_memRow | apply keepsRes_next | apply keepsRes_ite) | split)

theorem execMarker_keeps {s0 : State} {queue} {s : State} (h : Keeps s0 s) :
    KeepsRes s0 (execMarker queue s) := by
  unfold execMarker; try dsimp only
  repeat' (first | intro _ | (with_reducible first | assumption | apply keeps_ite | apply dispatch_keeps | apply startNow_keeps | apply markerEvent_keeps | apply keepsRes_next | apply keepsRes_ite) | split)

theorem execMaskop_keeps {s0 : State} {tile} {op} {d} {a} {b} {s : State} (h : Keeps s0 s) :
    KeepsRes s0 (execMaskop tile op d a b s) := by
  unfold execMaskop; try dsimp only
  repeat' (first | (with_reducible first | assumption | apply keeps_ite | apply seqOp_keeps | apply keepsRes_next | apply keepsRes_ite) | split)

theorem execMatrixInstanceEnd_keeps {s0 : State} {tile} {s : State} (h : Keeps s0 s) :
    KeepsRes s0 (execMatrixInstanceEnd tile s) := by
  unfold execMatrixInstanceEnd; try dsimp only
  repeat' (first | (with_reducible first | assumption | apply keeps_ite | apply matrixEnd_keeps | apply keepsRes_next | apply keepsRes_ite) | split)

theorem execMctpControl_keeps {s0 : State} {code} {eid} {s : State} (h : Keeps s0 s) :
    KeepsRes s0 (execMctpControl code eid s) := by
  unfold execMctpControl; try dsimp only
  repeat' (first | (with_reducible first | assumption | apply keeps_ite | apply answer_keeps | apply updSec_keeps | apply keepsRes_next | apply keepsRes_ite) | split)

theorem execMeasurementTimeout_keeps {s0 : State} {s : State} (h : Keeps s0 s) :
    KeepsRes s0 (execMeasurementTimeout s) := by
  unfold execMeasurementTimeout; try dsimp only
  repeat' (first | (with_reducible first | assumption | apply keeps_ite | apply setLock_keeps | apply updClock_keeps | apply advance_keeps | apply keepsRes_doWhen | apply keepsRes_next | apply keepsRes_ite) | split)

theorem execMemberUp_keeps {s0 : State} {p} {s : State} (h : Keeps s0 s) :
    KeepsRes s0 (execMemberUp p s) := by
  unfold execMemberUp; try dsimp only
  repeat' (first | (with_reducible first | assumption | apply keeps_ite | apply receive_keeps | apply keepsRes_next | apply keepsRes_ite) | split)

theorem execMinSvnUpdate_keeps {s0 : State} {writeOk} {s : State} (h : Keeps s0 s) :
    KeepsRes s0 (execMinSvnUpdate writeOk s) := by
  unfold execMinSvnUpdate; try dsimp only
  repeat' (first | (with_reducible first | assumption | apply keeps_ite | apply updSec_keeps | apply advance_keeps | apply emit_keeps | apply keepsRes_doWhen | apply keepsRes_next | apply keepsRes_ite) | split)

theorem execMma_keeps {s0 : State} {tile} {d} {s : State} (h : Keeps s0 s) :
    KeepsRes s0 (execMma tile d s) := by
  unfold execMma; try dsimp only
  repeat' (first | (with_reducible first | assumption | apply keeps_ite | apply updTile_keeps | apply updKernel_keeps | apply haltCheck_keeps | apply rampUp_keeps | apply keepsRes_doWhen | apply keepsRes_next | apply keepsRes_ite) | split)

theorem execMonitorArm_keeps {s0 : State} {queue} {s : State} (h : Keeps s0 s) :
    KeepsRes s0 (execMonitorArm queue s) := by
  unfold execMonitorArm; try dsimp only
  repeat' (first | intro _ | (with_reducible first | assumption | apply keeps_ite | apply dispatch_keeps | apply startNow_keeps | apply armMonitor_keeps | apply keepsRes_next | apply keepsRes_ite) | split)

theorem execMonitorRead_keeps {s0 : State} {queue} {s : State} (h : Keeps s0 s) :
    KeepsRes s0 (execMonitorRead queue s) := by
  unfold execMonitorRead; try dsimp only
  repeat' (first | intro _ | (with_reducible first | assumption | apply keeps_ite | apply dispatch_keeps | apply resultTo_keeps | apply keepsRes_next | apply keepsRes_ite) | split)

theorem execMsixUnmask_keeps {s0 : State} {func} {vector} {s : State} (h : Keeps s0 s) :
    KeepsRes s0 (execMsixUnmask func vector s) := by
  unfold execMsixUnmask; try dsimp only
  repeat' (first | intro _ | (with_reducible first | assumption | apply keeps_ite | apply hostAccess_keeps | apply msixUnmask_keeps | apply keepsRes_next | apply keepsRes_ite) | split)

theorem execMwait_keeps {s0 : State} {tile} {s : State} (h : Keeps s0 s) :
    KeepsRes s0 (execMwait tile s) := by
  unfold execMwait; try dsimp only
  repeat' (first | (with_reducible first | assumption | apply keeps_ite | apply updTile_keeps | apply keepsRes_doWhen | apply keepsRes_next | apply keepsRes_ite) | split)

theorem execNack_keeps {s0 : State} {p} {s : State} (h : Keeps s0 s) :
    KeepsRes s0 (execNack p s) := by
  unfold execNack; try dsimp only
  repeat' (first | (with_reducible first | assumption | apply keeps_ite | apply receive_keeps | apply keepsRes_next | apply keepsRes_ite) | split)

theorem execNegotiateAlgorithms_keeps {s0 : State} {transport} {supported} {s : State} (h : Keeps s0 s) :
    KeepsRes s0 (execNegotiateAlgorithms transport supported s) := by
  unfold execNegotiateAlgorithms; try dsimp only
  repeat' (first | intro _ | (with_reducible first | assumption | apply keeps_ite | apply spdm_keeps | apply answer_keeps | apply setStage_keeps | apply keepsRes_next | apply keepsRes_ite) | split)

theorem execNeighbourSolicitation_keeps {s0 : State} {sub} {target} {s : State} (h : Keeps s0 s) :
    KeepsRes s0 (execNeighbourSolicitation sub target s) := by
  unfold execNeighbourSolicitation; try dsimp only
  repeat' (first | (with_reducible first | assumption | apply keeps_ite | apply putFrame_keeps | apply keepsRes_doWhen | apply keepsRes_next | apply keepsRes_ite) | split)

theorem execNop_keeps {s0 : State} {queue} {s : State} (h : Keeps s0 s) :
    KeepsRes s0 (execNop queue s) := by
  unfold execNop; try dsimp only
  repeat' (first | intro _ | (with_reducible first | assumption | apply keeps_ite | apply dispatch_keeps | apply startNow_keeps | apply keepsRes_next | apply keepsRes_ite) | split)

theorem execPacketTransmit_keeps {s0 : State} {sub} {s : State} (h : Keeps s0 s) :
    KeepsRes s0 (execPacketTransmit sub s) := by
  unfold execPacketTransmit; try dsimp only
  repeat' (first | (with_reducible first | assumption | apply keeps_ite | apply transmit_keeps | apply keepsRes_next | apply keepsRes_ite) | split)

theorem execPartitionSet_keeps {s0 : State} {queue} {s : State} (h : Keeps s0 s) :
    KeepsRes s0 (execPartitionSet queue s) := by
  unfold execPartitionSet; try dsimp only
  repeat' (first | intro _ | (with_reducible first | assumption | apply keeps_ite | apply stage_keeps | apply keepsRes_next | apply keepsRes_ite) | split)

theorem execPerm_keeps {s0 : State} {tile} {op} {m} {d} {a} {s : State} (h : Keeps s0 s) :
    KeepsRes s0 (execPerm tile op m d a s) := by
  unfold execPerm; try dsimp only
  repeat' (first | (with_reducible first | assumption | apply keeps_ite | apply seqOp_keeps | apply keepsRes_next | apply keepsRes_ite) | split)

theorem execPerstAssert_keeps {s0 : State} {s : State} (h : Keeps s0 s) :
    KeepsRes s0 (execPerstAssert s) := by
  unfold execPerstAssert; try dsimp only
  repeat' (first | (with_reducible first | assumption | apply keeps_ite | apply linkLost_keeps | apply warmReset_keeps | apply keepsRes_doWhen | apply keepsRes_next | apply keepsRes_ite) | split)

theorem execPfcFrame_keeps {s0 : State} {port} {paused} {s : State} (h : Keeps s0 s) :
    KeepsRes s0 (execPfcFrame port paused s) := by
  unfold execPfcFrame; try dsimp only
  repeat' (first | (with_reducible first | assumption | apply keeps_ite | apply updPort_keeps | apply keepsRes_doWhen | apply keepsRes_next | apply keepsRes_ite) | split)

theorem execPldmFirmwareUpdate_keeps {s0 : State} {image} {s : State} (h : Keeps s0 s) :
    KeepsRes s0 (execPldmFirmwareUpdate image s) := by
  unfold execPldmFirmwareUpdate; try dsimp only
  repeat' (first | (with_reducible first | assumption | apply keeps_ite | apply answer_keeps | apply updSec_keeps | apply keepsRes_next | apply keepsRes_ite) | split)

theorem execPortLinkChange_keeps {s0 : State} {sub} {up} {locked} {s : State} (h : Keeps s0 s) :
    KeepsRes s0 (execPortLinkChange sub up locked s) := by
  unfold execPortLinkChange; try dsimp only
  repeat' (first | (with_reducible first | assumption | apply keeps_ite | apply setLinkState_keeps | apply keepsRes_doWhen | apply keepsRes_next | apply keepsRes_ite) | split)

theorem execPortModeWrite_keeps {s0 : State} {port} {value} {s : State} (h : Keeps s0 s) :
    KeepsRes s0 (execPortModeWrite port value s) := by
  unfold execPortModeWrite; try dsimp only
  repeat' (first | intro _ | (with_reducible first | assumption | apply keeps_ite | apply hostAccess_keeps | apply updPort_keeps | apply keepsRes_next | apply keepsRes_ite) | split)

theorem execPowerEntryDrained_keeps {s0 : State} {s : State} (h : Keeps s0 s) :
    KeepsRes s0 (execPowerEntryDrained s) := by
  unfold execPowerEntryDrained; try dsimp only
  repeat' (first | (with_reducible first | assumption | apply keeps_ite | apply portsDown_keeps | apply updPower_keeps | apply coldState_keeps | apply keepsRes_doWhen | apply keepsRes_next | apply keepsRes_ite) | split)

theorem execPowerOn_keeps {s0 : State} {straps} {s : State} (h : Keeps s0 s) :
    KeepsRes s0 (execPowerOn straps s) := by
  unfold execPowerOn; try dsimp only
  repeat' (first | (with_reducible first | assumption | apply keeps_ite | apply updPower_keeps | apply powerLost_keeps | apply keepsRes_doWhen | apply keepsRes_next | apply keepsRes_ite) | split)

theorem execPowerSet_keeps {s0 : State} {queue} {s : State} (h : Keeps s0 s) :
    KeepsRes s0 (execPowerSet queue s) := by
  unfold execPowerSet; try dsimp only
  repeat' (first | intro _ | (with_reducible first | assumption | apply keeps_ite | apply stage_keeps | apply keepsRes_next | apply keepsRes_ite) | split)

theorem execPpsEdge_keeps {s0 : State} {s : State} (h : Keeps s0 s) :
    KeepsRes s0 (execPpsEdge s) := by
  unfold execPpsEdge; try dsimp only
  repeat' (first | (with_reducible first | assumption | apply keeps_ite | apply updClock_keeps | apply measure_keeps | apply keepsRes_doWhen | apply keepsRes_next | apply keepsRes_ite) | split)

theorem execPpsOutEdge_keeps {s0 : State} {s : State} (h : Keeps s0 s) :
    KeepsRes s0 (execPpsOutEdge s) := by
  unfold execPpsOutEdge; try dsimp only
  repeat' (first | (with_reducible first | assumption | apply keeps_ite | apply updClock_keeps | apply advance_keeps | apply keepsRes_doWhen | apply keepsRes_next | apply keepsRes_ite) | split)

theorem execProvisionalExpiry_keeps {s0 : State} {s : State} (h : Keeps s0 s) :
    KeepsRes s0 (execProvisionalExpiry s) := by
  unfold execProvisionalExpiry; try dsimp only
  repeat' (first | (with_reducible first | assumption | apply keeps_ite | apply provFailed_keeps | apply keepsRes_next | apply keepsRes_ite) | split)

theorem execPtpMessage_keeps {s0 : State} {sub} {dom} {transport} {source} {s : State} (h : Keeps s0 s) :
    KeepsRes s0 (execPtpMessage sub dom transport source s) := by
  unfold execPtpMessage; try dsimp only
  repeat' (first | (with_reducible first | assumption | apply keeps_ite | apply measure_keeps | apply keepsRes_doWhen | apply keepsRes_next | apply keepsRes_ite) | split)

theorem execPublishRows_keeps {s0 : State} {queue} {s : State} (h : Keeps s0 s) :
    KeepsRes s0 (execPublishRows queue s) := by
  unfold execPublishRows; try dsimp only
  repeat' (first | intro _ | (with_reducible first | assumption | apply keeps_ite | apply dispatch_keeps | apply startPublish_keeps | apply keepsRes_next | apply keepsRes_ite) | split)

theorem execPwrTargetS0_keeps {s0 : State} {s : State} (h : Keeps s0 s) :
    KeepsRes s0 (execPwrTargetS0 s) := by
  unfold execPwrTargetS0; try dsimp only
  repeat' (first | (with_reducible first | assumption | apply keeps_ite | apply targetS0_keeps | apply keepsRes_doWhen | apply keepsRes_next | apply keepsRes_ite) | split)

theorem execPwrTargetS1_keeps {s0 : State} {s : State} (h : Keeps s0 s) :
    KeepsRes s0 (execPwrTargetS1 s) := by
  unfold execPwrTargetS1; try dsimp only
  repeat' (first | intro _ | (with_reducible first | assumption | apply keeps_ite | apply hostAccess_keeps | apply updPower_keeps | apply enterS1_keeps | apply keepsRes_next | apply keepsRes_ite) | split)

theorem execPwrTargetS2_keeps {s0 : State} {s : State} (h : Keeps s0 s) :
    KeepsRes s0 (execPwrTargetS2 s) := by
  unfold execPwrTargetS2; try dsimp only
  repeat' (first | intro _ | (with_reducible first | assumption | apply keeps_ite | apply hostAccess_keeps | apply startEntry_keeps | apply keepsRes_next | apply keepsRes_ite) | split)

theorem execPwrTargetS3_keeps {s0 : State} {s : State} (h : Keeps s0 s) :
    KeepsRes s0 (execPwrTargetS3 s) := by
  unfold execPwrTargetS3; try dsimp only
  repeat' (first | intro _ | (with_reducible first | assumption | apply keeps_ite | apply hostAccess_keeps | apply startEntry_keeps | apply keepsRes_next | apply keepsRes_ite) | split)

theorem execQuarantineTestDone_keeps {s0 : State} {tile} {r} {s : State} (h : Keeps s0 s) :
    KeepsRes s0 (execQuarantineTestDone tile r s) := by
  unfold execQuarantineTestDone; try dsimp only
  repeat' (first | (with_reducible first | assumption | apply keeps_ite | apply quarantineDone_keeps | apply keepsRes_doWhen | apply keepsRes_next | apply keepsRes_ite) | split)

theorem execQuery_keeps {s0 : State} {queue} {s : State} (h : Keeps s0 s) :
    KeepsRes s0 (execQuery queue s) := by
  unfold execQuery; try dsimp only
  repeat' (first | intro _ | (with_reducible first | assumption | apply keeps_ite | apply dispatch_keeps | apply startQuery_keeps | apply keepsRes_next | apply keepsRes_ite) | split)

theorem execQueueDisable_keeps {s0 : State} {func} {q} {s : State} (h : Keeps s0 s) :
    KeepsRes s0 (execQueueDisable func q s) := by
  unfold execQueueDisable; try dsimp only
  repeat' (first | intro _ | (with_reducible first | assumption | apply keeps_ite | apply onQueue_keeps | apply disableQueue_keeps | apply keepsRes_next | apply keepsRes_ite) | split)

theorem execQueueEnable_keeps {s0 : State} {func} {q} {s : State} (h : Keeps s0 s) :
    KeepsRes s0 (execQueueEnable func q s) := by
  unfold execQueueEnable; try dsimp only
  repeat' (first | intro _ | (with_reducible first | assumption | apply keeps_ite | apply onQueue_keeps | apply enableQueue_keeps | apply keepsRes_next | apply keepsRes_ite) | split)

theorem execQueueReset_keeps {s0 : State} {func} {q} {s : State} (h : Keeps s0 s) :
    KeepsRes s0 (execQueueReset func q s) := by
  unfold execQueueReset; try dsimp only
  repeat' (first | intro _ | (with_reducible first | assumption | apply keeps_ite | apply onQueue_keeps | apply startQueueReset_keeps | apply keepsRes_next | apply keepsRes_ite) | split)

theorem execQueueResetDone_keeps {s0 : State} {queue} {s : State} (h : Keeps s0 s) :
    KeepsRes s0 (execQueueResetDone queue s) := by
  unfold execQueueResetDone; try dsimp only
  repeat' (first | (with_reducible first | assumption | apply keeps_ite | apply queueResetEnd_keeps | apply keepsRes_doWhen | apply keepsRes_next | apply keepsRes_ite) | split)

theorem execRecorderArm_keeps {s0 : State} {queue} {s : State} (h : Keeps s0 s) :
    KeepsRes s0 (execRecorderArm queue s) := by
  unfold execRecorderArm; try dsimp only
  repeat' (first | intro _ | (with_reducible first | assumption | apply keeps_ite | apply dispatch_keeps | apply startNow_keeps | apply armRecorder_keeps | apply keepsRes_next | apply keepsRes_ite) | split)

theorem execRecorderStop_keeps {s0 : State} {queue} {s : State} (h : Keeps s0 s) :
    KeepsRes s0 (execRecorderStop queue s) := by
  unfold execRecorderStop; try dsimp only
  repeat' (first | intro _ | (with_reducible first | assumption | apply keeps_ite | apply dispatch_keeps | apply startNow_keeps | apply recorderStop_keeps | apply keepsRes_next | apply keepsRes_ite) | split)

theorem execReduce_keeps {s0 : State} {tile} {op} {bf16} {m} {d} {a} {s : State} (h : Keeps s0 s) :
    KeepsRes s0 (execReduce tile op bf16 m d a s) := by
  unfold execReduce; try dsimp only
  repeat' (first | (with_reducible first | assumption | apply keeps_ite | apply seqOp_keeps | apply keepsRes_next | apply keepsRes_ite) | split)

theorem execRefresh_keeps {s0 : State} {channel} {s : State} (h : Keeps s0 s) :
    KeepsRes s0 (execRefresh channel s) := by
  unfold execRefresh; try dsimp only
  repeat' (first | intro _ | (with_reducible first | assumption | apply keeps_ite | apply memRow_keeps | apply updChan_keeps | apply keepsRes_memRow | apply keepsRes_doWhen | apply keepsRes_next | apply keepsRes_ite) | split)

theorem execRegisterWrite_keeps {s0 : State} {func} {off} {size} {value} {s : State} (h : Keeps s0 s) :
    KeepsRes s0 (execRegisterWrite func off size value s) := by
  unfold execRegisterWrite; try dsimp only
  repeat' (first | intro _ | (with_reducible first | assumption | apply keeps_ite | apply hostAccess_keeps | apply updLink_keeps | apply regWrite_keeps | apply keepsRes_next | apply keepsRes_ite) | split)

theorem execRegulatorRefill_keeps {s0 : State} {part} {res} {ns} {s : State} (h : Keeps s0 s) :
    KeepsRes s0 (execRegulatorRefill part res ns s) := by
  unfold execRegulatorRefill; try dsimp only
  repeat' (first | (with_reducible first | assumption | apply keeps_ite | apply updPart_keeps | apply keepsRes_doWhen | apply keepsRes_next | apply keepsRes_ite) | split)

theorem execRegulatorSet_keeps {s0 : State} {queue} {s : State} (h : Keeps s0 s) :
    KeepsRes s0 (execRegulatorSet queue s) := by
  unfold execRegulatorSet; try dsimp only
  repeat' (first | intro _ | (with_reducible first | assumption | apply keeps_ite | apply stage_keeps | apply keepsRes_next | apply keepsRes_ite) | split)

theorem execReissue_keeps {s0 : State} {func} {q} {gen} {s : State} (h : Keeps s0 s) :
    KeepsRes s0 (execReissue func q gen s) := by
  unfold execReissue; try dsimp only
  repeat' (first | intro _ | (with_reducible first | assumption | apply keeps_ite | apply doorbell_keeps | apply updQueue_keeps | apply keepsRes_next | apply keepsRes_ite) | split)

theorem execResumeCompletions_keeps {s0 : State} {func} {q} {gen} {rejectAt} {s : State} (h : Keeps s0 s) :
    KeepsRes s0 (execResumeCompletions func q gen rejectAt s) := by
  unfold execResumeCompletions; try dsimp only
  repeat' (first | intro _ | (with_reducible first | assumption | apply keeps_ite | apply doorbell_keeps | apply afterSnoops_keeps | apply replayShadow_keeps | apply keepsRes_next | apply keepsRes_ite) | split)

theorem execRetireContext_keeps {s0 : State} {queue} {s : State} (h : Keeps s0 s) :
    KeepsRes s0 (execRetireContext queue s) := by
  unfold execRetireContext; try dsimp only
  repeat' (first | intro _ | (with_reducible first | assumption | apply keeps_ite | apply dispatch_keeps | apply startRetireCtx_keeps | apply keepsRes_next | apply keepsRes_ite) | split)

theorem execRetireContextDrained_keeps {s0 : State} {context} {s : State} (h : Keeps s0 s) :
    KeepsRes s0 (execRetireContextDrained context s) := by
  unfold execRetireContextDrained; try dsimp only
  repeat' (first | (with_reducible first | assumption | apply keeps_ite | apply retireEnd_keeps | apply keepsRes_doWhen | apply keepsRes_next | apply keepsRes_ite) | split)

theorem execRetract_keeps {s0 : State} {p} {s : State} (h : Keeps s0 s) :
    KeepsRes s0 (execRetract p s) := by
  unfold execRetract; try dsimp only
  repeat' (first | (with_reducible first | assumption | apply keeps_ite | apply receive_keeps | apply keepsRes_next | apply keepsRes_ite) | split)

theorem execRetrainDone_keeps {s0 : State} {channel} {ok} {s : State} (h : Keeps s0 s) :
    KeepsRes s0 (execRetrainDone channel ok s) := by
  unfold execRetrainDone; try dsimp only
  repeat' (first | intro _ | (with_reducible first | assumption | apply keeps_ite | apply memRow_keeps | apply updChan_keeps | apply emit_keeps | apply killChannel_keeps | apply keepsRes_memRow | apply keepsRes_doWhen | apply keepsRes_next | apply keepsRes_ite) | split)

theorem execRetrainSlot_keeps {s0 : State} {s : State} (h : Keeps s0 s) :
    KeepsRes s0 (execRetrainSlot s) := by
  unfold execRetrainSlot; try dsimp only
  repeat' (first | intro _ | (with_reducible first | assumption | apply keeps_ite | apply memRow_keeps | apply advance_keeps | apply takeSlot_keeps | apply keepsRes_memRow | apply keepsRes_next | apply keepsRes_ite) | split)

theorem execRtoExpiry_keeps {s0 : State} {peer} {psn} {s : State} (h : Keeps s0 s) :
    KeepsRes s0 (execRtoExpiry peer psn s) := by
  unfold execRtoExpiry; try dsimp only
  repeat' (first | (with_reducible first | assumption | apply keeps_ite | apply advance_keeps | apply giveUp_keeps | apply updFlow_keeps | apply resend_keeps | apply keepsRes_next | apply keepsRes_ite) | split)

theorem execSadv_keeps {s0 : State} {tile} {stream} {n} {s : State} (h : Keeps s0 s) :
    KeepsRes s0 (execSadv tile stream n s) := by
  unfold execSadv; try dsimp only
  repeat' (first | (with_reducible first | assumption | apply keeps_ite | apply seqOp_keeps | apply keepsRes_next | apply keepsRes_ite) | split)

theorem execSamplingSet_keeps {s0 : State} {queue} {s : State} (h : Keeps s0 s) :
    KeepsRes s0 (execSamplingSet queue s) := by
  unfold execSamplingSet; try dsimp only
  repeat' (first | intro _ | (with_reducible first | assumption | apply keeps_ite | apply stage_keeps | apply keepsRes_next | apply keepsRes_ite) | split)

theorem execSchedCtrlWrite_keeps {s0 : State} {value} {s : State} (h : Keeps s0 s) :
    KeepsRes s0 (execSchedCtrlWrite value s) := by
  unfold execSchedCtrlWrite; try dsimp only
  repeat' (first | intro _ | (with_reducible first | assumption | apply keeps_ite | apply hostAccess_keeps | apply schedCtrlWrite_keeps | apply keepsRes_next | apply keepsRes_ite) | split)

theorem execScratchpadEccError_keeps {s0 : State} {tile} {doubleBit} {s : State} (h : Keeps s0 s) :
    KeepsRes s0 (execScratchpadEccError tile doubleBit s) := by
  unfold execScratchpadEccError; try dsimp only
  repeat' (first | (with_reducible first | assumption | apply keeps_ite | apply quarantine_keeps | apply keepsRes_doWhen | apply keepsRes_next | apply keepsRes_ite) | split)

theorem execScrubPriorityTimeout_keeps {s0 : State} {channel} {s : State} (h : Keeps s0 s) :
    KeepsRes s0 (execScrubPriorityTimeout channel s) := by
  unfold execScrubPriorityTimeout; try dsimp only
  repeat' (first | intro _ | (with_reducible first | assumption | apply keeps_ite | apply memRow_keeps | apply advance_keeps | apply keepsRes_memRow | apply keepsRes_next | apply keepsRes_ite) | split)

theorem execScrubRead_keeps {s0 : State} {channel} {corrected} {uncorrectable} {s : State} (h : Keeps s0 s) :
    KeepsRes s0 (execScrubRead channel corrected uncorrectable s) := by
  unfold execScrubRead; try dsimp only
  repeat' (first | intro _ | (with_reducible first | assumption | apply keeps_ite | apply memRow_keeps | apply scrubStep_keeps | apply scrubErrors_keeps | apply updChan_keeps | apply updMem_keeps | apply keepsRes_memRow | apply keepsRes_next | apply keepsRes_ite) | split)

theorem execSdrain_keeps {s0 : State} {tile} {stream} {s : State} (h : Keeps s0 s) :
    KeepsRes s0 (execSdrain tile stream s) := by
  unfold execSdrain; try dsimp only
  repeat' (first | (with_reducible first | assumption | apply keeps_ite | apply updTile_keeps | apply keepsRes_doWhen | apply keepsRes_next | apply keepsRes_ite) | split)

theorem execSdrainDone_keeps {s0 : State} {tile} {s : State} (h : Keeps s0 s) :
    KeepsRes s0 (execSdrainDone tile s) := by
  unfold execSdrainDone; try dsimp only
  repeat' (first | (with_reducible first | assumption | apply keeps_ite | apply updTile_keeps | apply keepsRes_doWhen | apply keepsRes_next | apply keepsRes_ite) | split)

theorem execSend_keeps {s0 : State} {p} {s : State} (h : Keeps s0 s) :
    KeepsRes s0 (execSend p s) := by
  unfold execSend; try dsimp only
  repeat' (first | (with_reducible first | assumption | apply keeps_ite | apply receive_keeps | apply keepsRes_next | apply keepsRes_ite) | split)

theorem execSensorSample_keeps {s0 : State} {values} {s : State} (h : Keeps s0 s) :
    KeepsRes s0 (execSensorSample values s) := by
  unfold execSensorSample; try dsimp only
  repeat' (first | intro _ | (with_reducible first | assumption | apply keeps_ite | apply takeSample_keeps | apply keepsRes_next | apply keepsRes_ite | apply keeps_foldl | apply keeps_foldl_fst | apply keeps_foldl_snd) | split)

theorem execSetEventReceiver_keeps {s0 : State} {receiver} {s : State} (h : Keeps s0 s) :
    KeepsRes s0 (execSetEventReceiver receiver s) := by
  unfold execSetEventReceiver; try dsimp only
  repeat' (first | intro _ | (with_reducible first | assumption | apply keeps_ite | apply pldm_keeps | apply answer_keeps | apply updTele_keeps | apply keepsRes_next | apply keepsRes_ite) | split)

theorem execSetSensorThresholds_keeps {s0 : State} {sensor} {lowCrit} {upWarn} {upCrit} {s : State} (h : Keeps s0 s) :
    KeepsRes s0 (execSetSensorThresholds sensor lowCrit upWarn upCrit s) := by
  unfold execSetSensorThresholds; try dsimp only
  repeat' (first | intro _ | (with_reducible first | assumption | apply keeps_ite | apply pldm_keeps | apply answer_keeps | apply updTele_keeps | apply keepsRes_next | apply keepsRes_ite) | split)

theorem execSetvl_keeps {s0 : State} {tile} {src} {s : State} (h : Keeps s0 s) :
    KeepsRes s0 (execSetvl tile src s) := by
  unfold execSetvl; try dsimp only
  repeat' (first | (with_reducible first | assumption | apply keeps_ite | apply seqOp_keeps | apply keepsRes_next | apply keepsRes_ite) | split)

theorem execSlotFetch_keeps {s0 : State} {queue} {hostData} {s : State} (h : Keeps s0 s) :
    KeepsRes s0 (execSlotFetch queue hostData s) := by
  unfold execSlotFetch; try dsimp only
  repeat' (first | intro _ | (with_reducible first | assumption | apply keeps_ite | apply readSlot_keeps | apply updQueue_keeps | apply keepsRes_doWhen | apply keepsRes_next | apply keepsRes_ite) | split)

theorem execSlotReread_keeps {s0 : State} {queue} {hostData} {s : State} (h : Keeps s0 s) :
    KeepsRes s0 (execSlotReread queue hostData s) := by
  unfold execSlotReread; try dsimp only
  repeat' (first | intro _ | (with_reducible first | assumption | apply keeps_ite | apply readSlot_keeps | apply updQueue_keeps | apply advance_keeps | apply keepsRes_next | apply keepsRes_ite) | split)

theorem execSop_keeps {s0 : State} {tile} {op} {dst} {a} {b} {s : State} (h : Keeps s0 s) :
    KeepsRes s0 (execSop tile op dst a b s) := by
  unfold execSop; try dsimp only
  repeat' (first | (with_reducible first | assumption | apply keeps_ite | apply seqOp_keeps | apply keepsRes_next | apply keepsRes_ite) | split)

theorem execSqDb_keeps {s0 : State} {func} {q} {value} {s : State} (h : Keeps s0 s) :
    KeepsRes s0 (execSqDb func q value s) := by
  unfold execSqDb; try dsimp only
  repeat' (first | intro _ | (with_reducible first | assumption | apply keeps_ite | apply doorbell_keeps | apply producer_keeps | apply keepsRes_next | apply keepsRes_ite) | split)

theorem execStoreAck_keeps {s0 : State} {tile} {engine} {index} {s : State} (h : Keeps s0 s) :
    KeepsRes s0 (execStoreAck tile engine index s) := by
  unfold execStoreAck; try dsimp only
  repeat' (first | (with_reducible first | assumption | apply keeps_ite | apply killsDue_keeps | apply storeDone_keeps | apply keepsRes_next | apply keepsRes_ite) | split)

theorem execStreamRearm_keeps {s0 : State} {queue} {s : State} (h : Keeps s0 s) :
    KeepsRes s0 (execStreamRearm queue s) := by
  unfold execStreamRearm; try dsimp only
  repeat' (first | intro _ | (with_reducible first | assumption | apply keeps_ite | apply dispatch_keeps | apply startRearm_keeps | apply keepsRes_next | apply keepsRes_ite) | split)

theorem execStreamResponse_keeps {s0 : State} {tile} {engine} {bytes} {hostData} {s : State} (h : Keeps s0 s) :
    KeepsRes s0 (execStreamResponse tile engine bytes hostData s) := by
  unfold execStreamResponse; try dsimp only
  repeat' (first | (with_reducible first | assumption | apply keeps_ite | apply killsDue_keeps | apply loadDeliver_keeps | apply gatherDeliver_keeps | apply keepsRes_next | apply keepsRes_ite) | split)

theorem execStv_keeps {s0 : State} {tile} {m} {a} {addr} {s : State} (h : Keeps s0 s) :
    KeepsRes s0 (execStv tile m a addr s) := by
  unfold execStv; try dsimp only
  repeat' (first | (with_reducible first | assumption | apply keeps_ite | apply seqOp_keeps | apply keepsRes_next | apply keepsRes_ite) | split)

theorem execSupplyRecovery_keeps {s0 : State} {quarterVolts} {s : State} (h : Keeps s0 s) :
    KeepsRes s0 (execSupplyRecovery quarterVolts s) := by
  unfold execSupplyRecovery; try dsimp only
  repeat' (first | (with_reducible first | assumption | apply keeps_ite | apply updPower_keeps | apply coldReset_keeps | apply keepsRes_doWhen | apply keepsRes_next | apply keepsRes_ite) | split)

theorem execSupplyUndervoltage_keeps {s0 : State} {quarterVolts} {s : State} (h : Keeps s0 s) :
    KeepsRes s0 (execSupplyUndervoltage quarterVolts s) := by
  unfold execSupplyUndervoltage; try dsimp only
  repeat' (first | (with_reducible first | assumption | apply keeps_ite | apply updPower_keeps | apply railsOff_keeps | apply keepsRes_doWhen | apply keepsRes_next | apply keepsRes_ite) | split)

theorem execSwait_keeps {s0 : State} {tile} {stream} {n} {s : State} (h : Keeps s0 s) :
    KeepsRes s0 (execSwait tile stream n s) := by
  unfold execSwait; try dsimp only
  repeat' (first | (with_reducible first | assumption | apply keeps_ite | apply updTile_keeps | apply keepsRes_doWhen | apply keepsRes_next | apply keepsRes_ite) | split)

theorem execSwaitMet_keeps {s0 : State} {tile} {s : State} (h : Keeps s0 s) :
    KeepsRes s0 (execSwaitMet tile s) := by
  unfold execSwaitMet; try dsimp only
  repeat' (first | (with_reducible first | assumption | apply keeps_ite | apply updTile_keeps | apply keepsRes_doWhen | apply keepsRes_next | apply keepsRes_ite) | split)

theorem execTableCommit_keeps {s0 : State} {queue} {s : State} (h : Keeps s0 s) :
    KeepsRes s0 (execTableCommit queue s) := by
  unfold execTableCommit; try dsimp only
  repeat' (first | intro _ | (with_reducible first | assumption | apply keeps_ite | apply dispatch_keeps | apply startCommit_keeps | apply keepsRes_next | apply keepsRes_ite) | split)

theorem execTableCreate_keeps {s0 : State} {queue} {s : State} (h : Keeps s0 s) :
    KeepsRes s0 (execTableCreate queue s) := by
  unfold execTableCreate; try dsimp only
  repeat' (first | intro _ | (with_reducible first | assumption | apply keeps_ite | apply dispatch_keeps | apply startNow_keeps | apply createTable_keeps | apply keepsRes_next | apply keepsRes_ite) | split)

theorem execTableLoad_keeps {s0 : State} {queue} {hostRows} {s : State} (h : Keeps s0 s) :
    KeepsRes s0 (execTableLoad queue hostRows s) := by
  unfold execTableLoad; try dsimp only
  repeat' (first | intro _ | (with_reducible first | assumption | apply keeps_ite | apply dispatch_keeps | apply startLoad_keeps | apply keepsRes_next | apply keepsRes_ite) | split)

theorem execTablePrepare_keeps {s0 : State} {queue} {s : State} (h : Keeps s0 s) :
    KeepsRes s0 (execTablePrepare queue s) := by
  unfold execTablePrepare; try dsimp only
  repeat' (first | intro _ | (with_reducible first | assumption | apply keeps_ite | apply dispatch_keeps | apply armTable_keeps | apply keepsRes_next | apply keepsRes_ite) | split)

theorem execTableRetire_keeps {s0 : State} {queue} {s : State} (h : Keeps s0 s) :
    KeepsRes s0 (execTableRetire queue s) := by
  unfold execTableRetire; try dsimp only
  repeat' (first | intro _ | (with_reducible first | assumption | apply keeps_ite | apply dispatch_keeps | apply startRetire_keeps | apply keepsRes_next | apply keepsRes_ite) | split)

theorem execTdispRequest_keeps {s0 : State} {func} {req} {s : State} (h : Keeps s0 s) :
    KeepsRes s0 (execTdispRequest func req s) := by
  unfold execTdispRequest; try dsimp only
  repeat' (first | (with_reducible first | assumption | apply keeps_ite | apply updFunc_keeps | apply answer_keeps | apply clearHdm_keeps | apply keepsRes_next | apply keepsRes_ite) | split)

theorem execTestRun_keeps {s0 : State} {queue} {s : State} (h : Keeps s0 s) :
    KeepsRes s0 (execTestRun queue s) := by
  unfold execTestRun; try dsimp only
  repeat' (first | intro _ | (with_reducible first | assumption | apply keeps_ite | apply dispatch_keeps | apply startTest_keeps | apply keepsRes_next | apply keepsRes_ite) | split)

theorem execTestSlotEnd_keeps {s0 : State} {tile} {r} {s : State} (h : Keeps s0 s) :
    KeepsRes s0 (execTestSlotEnd tile r s) := by
  unfold execTestSlotEnd; try dsimp only
  repeat' (first | (with_reducible first | assumption | apply keeps_ite | apply slotEnd_keeps | apply unitEnd_keeps | apply keepsRes_next | apply keepsRes_ite) | split)

theorem execTestSlotStart_keeps {s0 : State} {tile} {s : State} (h : Keeps s0 s) : KeepsRes s0 (execTestSlotStart tile s) := by
  unfold execTestSlotStart
  refine keepsRes_next (keeps_ite h ?_)
  cases slotFor s tile with
  | none => exact h
  | some w => exact updTile_keeps h

theorem execTestUnlock_keeps {s0 : State} {signatureOk} {svn} {bind} {nonce} {s : State} (h : Keeps s0 s) :
    KeepsRes s0 (execTestUnlock signatureOk svn bind nonce s) := by
  unfold execTestUnlock; try dsimp only
  repeat' (first | (with_reducible first | assumption | apply keeps_ite | apply updSec_keeps | apply keepsRes_doWhen | apply keepsRes_next | apply keepsRes_ite) | split)

theorem execThermalProtectEntry_keeps {s0 : State} {die} {milliC} {s : State} (h : Keeps s0 s) :
    KeepsRes s0 (execThermalProtectEntry die milliC s) := by
  unfold execThermalProtectEntry; try dsimp only
  repeat' (first | (with_reducible first | assumption | apply keeps_ite | apply emit_keeps | apply updPower_keeps | apply keepsRes_doWhen | apply keepsRes_next | apply keepsRes_ite) | split)

theorem execTodMessage_keeps {s0 : State} {b} {s : State} (h : Keeps s0 s) :
    KeepsRes s0 (execTodMessage b s) := by
  unfold execTodMessage; try dsimp only
  repeat' (first | (with_reducible first | assumption | apply keeps_ite | apply updClock_keeps | apply keepsRes_doWhen | apply keepsRes_next | apply keepsRes_ite) | split)

theorem execTodTransmit_keeps {s0 : State} {s : State} (h : Keeps s0 s) :
    KeepsRes s0 (execTodTransmit s) := by
  unfold execTodTransmit; try dsimp only
  repeat' (first | (with_reducible first | assumption | apply keeps_ite | apply updOut_keeps | apply advance_keeps | apply keepsRes_doWhen | apply keepsRes_next | apply keepsRes_ite) | split)

theorem execTrans_keeps {s0 : State} {tile} {fn} {m} {d} {a} {s : State} (h : Keeps s0 s) :
    KeepsRes s0 (execTrans tile fn m d a s) := by
  unfold execTrans; try dsimp only
  repeat' (first | (with_reducible first | assumption | apply keeps_ite | apply seqOp_keeps | apply keepsRes_next | apply keepsRes_ite) | split)

theorem execTrngHealthFail_keeps {s0 : State} {s : State} (h : Keeps s0 s) :
    KeepsRes s0 (execTrngHealthFail s) := by
  unfold execTrngHealthFail; try dsimp only
  repeat' (first | (with_reducible first | assumption | apply keeps_ite | apply updSec_keeps | apply moduleFault_keeps | apply keepsRes_next | apply keepsRes_ite) | (with_reducible apply keeps_mk; first | (with_reducible first | assumption | apply keeps_ite | apply updSec_keeps | apply moduleFault_keeps) | split) | split)

theorem execTscLowRead_keeps {s0 : State} {func} {s : State} (h : Keeps s0 s) :
    KeepsRes s0 (execTscLowRead func s) := by
  unfold execTscLowRead; try dsimp only
  repeat' (first | (with_reducible first | assumption | apply keeps_ite | apply updOut_keeps | apply updClock_keeps | apply keepsRes_next | apply keepsRes_ite) | split)

theorem execUnlockedGroupTimeout_keeps {s0 : State} {s : State} (h : Keeps s0 s) :
    KeepsRes s0 (execUnlockedGroupTimeout s) := by
  unfold execUnlockedGroupTimeout; try dsimp only
  repeat' (first | (with_reducible first | assumption | apply keeps_ite | apply updGroup_keeps | apply advance_keeps | apply keepsRes_next | apply keepsRes_ite) | split)

theorem execUpdateApply_keeps {s0 : State} {queue} {s : State} (h : Keeps s0 s) :
    KeepsRes s0 (execUpdateApply queue s) := by
  unfold execUpdateApply; try dsimp only
  repeat' (first | intro _ | (with_reducible first | assumption | apply keeps_ite | apply dispatch_keeps | apply startUpdate_keeps | apply keepsRes_next | apply keepsRes_ite) | split)

theorem execUpdateMergeDone_keeps {s0 : State} {part} {die} {s : State} (h : Keeps s0 s) :
    KeepsRes s0 (execUpdateMergeDone part die s) := by
  unfold execUpdateMergeDone; try dsimp only
  repeat' (first | (with_reducible first | assumption | apply keeps_ite | apply updTables_keeps | apply beginBatch_keeps | apply meterKeys_keeps | apply takeCharge_keeps | apply keepsRes_next | apply keepsRes_ite) | split)

theorem execVend_keeps {s0 : State} {tile} {s : State} (h : Keeps s0 s) :
    KeepsRes s0 (execVend tile s) := by
  unfold execVend; try dsimp only
  repeat' (first | (with_reducible first | assumption | apply keeps_ite | apply updTile_keeps | apply keepsRes_next | apply keepsRes_ite) | exact keepsRes_fault | split)

theorem execVendorDefinedRequest_keeps {s0 : State} {transport} {code} {func} {nonce} {s : State} (h : Keeps s0 s) :
    KeepsRes s0 (execVendorDefinedRequest transport code func nonce s) := by
  unfold execVendorDefinedRequest; try dsimp only
  repeat' (first | intro _ | (with_reducible first | assumption | apply keeps_ite | apply spdm_keeps | apply answer_keeps | apply keepsRes_next | apply keepsRes_ite) | split)

theorem execVersionQuery_keeps {s0 : State} {p} {s : State} (h : Keeps s0 s) :
    KeepsRes s0 (execVersionQuery p s) := by
  unfold execVersionQuery; try dsimp only
  repeat' (first | (with_reducible first | assumption | apply keeps_ite | apply receive_keeps | apply keepsRes_next | apply keepsRes_ite) | split)

theorem execVersionReply_keeps {s0 : State} {p} {s : State} (h : Keeps s0 s) :
    KeepsRes s0 (execVersionReply p s) := by
  unfold execVersionReply; try dsimp only
  repeat' (first | (with_reducible first | assumption | apply keeps_ite | apply receive_keeps | apply keepsRes_next | apply keepsRes_ite) | split)

theorem execVersionReplyTimeout_keeps {s0 : State} {table} {s : State} (h : Keeps s0 s) :
    KeepsRes s0 (execVersionReplyTimeout table s) := by
  unfold execVersionReplyTimeout; try dsimp only
  repeat' (first | (with_reducible first | assumption | apply keeps_ite | apply updGroup_keeps | apply keepsRes_next | apply keepsRes_ite) | split)

theorem execVloop_keeps {s0 : State} {tile} {bodyLen} {s : State} (h : Keeps s0 s) :
    KeepsRes s0 (execVloop tile bodyLen s) := by
  unfold execVloop; try dsimp only
  repeat' (first | (with_reducible first | assumption | apply keeps_ite | apply updTile_keeps | apply keepsRes_next | apply keepsRes_ite) | exact keepsRes_fault | split)

theorem execWaitMapTimeout_keeps {s0 : State} {queue} {s : State} (h : Keeps s0 s) :
    KeepsRes s0 (execWaitMapTimeout queue s) := by
  unfold execWaitMapTimeout; try dsimp only
  repeat' (first | (with_reducible first | assumption | apply keeps_ite | apply failUnmapped_keeps | apply advance_keeps | apply keepsRes_next | apply keepsRes_ite) | split)

theorem execWakeComplete_keeps {s0 : State} {s : State} (h : Keeps s0 s) :
    KeepsRes s0 (execWakeComplete s) := by
  unfold execWakeComplete; try dsimp only
  repeat' (first | (with_reducible first | assumption | apply keeps_ite | apply updBeat_keeps | apply updPower_keeps | apply keepsRes_doWhen | apply keepsRes_next | apply keepsRes_ite) | (with_reducible apply keeps_mk; first | (with_reducible first | assumption | apply keeps_ite | apply updBeat_keeps | apply updPower_keeps) | split) | split)

theorem execWarmReset_keeps {s0 : State} {hubIntact} {s : State} (h : Keeps s0 s) :
    KeepsRes s0 (execWarmReset hubIntact s) := by
  unfold execWarmReset; try dsimp only
  repeat' (first | intro _ | (with_reducible first | assumption | apply keeps_ite | apply hostAccess_keeps | apply warmReset_keeps | apply keepsRes_next | apply keepsRes_ite) | split)

theorem execWindowClose_keeps {s0 : State} {queue} {s : State} (h : Keeps s0 s) :
    KeepsRes s0 (execWindowClose queue s) := by
  unfold execWindowClose; try dsimp only
  repeat' (first | intro _ | (with_reducible first | assumption | apply keeps_ite | apply dispatch_keeps | apply startClose_keeps | apply keepsRes_next | apply keepsRes_ite) | split)

theorem execWindowOpen_keeps {s0 : State} {queue} {s : State} (h : Keeps s0 s) :
    KeepsRes s0 (execWindowOpen queue s) := by
  unfold execWindowOpen; try dsimp only
  repeat' (first | intro _ | (with_reducible first | assumption | apply keeps_ite | apply dispatch_keeps | apply startNow_keeps | apply openWindow_keeps | apply keepsRes_next | apply keepsRes_ite) | split)

theorem execYarrowBatchDone_keeps {s0 : State} {flight} {die} {violation} {s : State} (h : Keeps s0 s) :
    KeepsRes s0 (execYarrowBatchDone flight die violation s) := by
  unfold execYarrowBatchDone; try dsimp only
  repeat' (first | (with_reducible first | assumption | apply keeps_ite | apply yarrowDone_keeps | apply moduleFault_keeps | apply updFlight_keeps | apply keepsRes_next | apply keepsRes_ite) | split)

theorem execYarrowProgress_keeps {s0 : State} {flight} {die} {records} {s : State} (h : Keeps s0 s) :
    KeepsRes s0 (execYarrowProgress flight die records s) := by
  unfold execYarrowProgress; try dsimp only
  repeat' (first | (with_reducible first | assumption | apply keeps_ite | apply yarrowProgress_keeps | apply keepsRes_doWhen | apply keepsRes_next | apply keepsRes_ite) | split)

theorem execZeroFillDone_keeps {s0 : State} {stack} {s : State} (h : Keeps s0 s) :
    KeepsRes s0 (execZeroFillDone stack s) := by
  unfold execZeroFillDone; try dsimp only
  repeat' (first | intro _ | (with_reducible first | assumption | apply keeps_ite | apply memRow_keeps | apply updMem_keeps | apply updStack_keeps | apply emit_keeps | apply keepsRes_memRow | apply keepsRes_doWhen | apply keepsRes_next | apply keepsRes_ite | apply keeps_foldl | apply keeps_foldl_fst | apply keeps_foldl_snd | (apply zeroFrame_wf) | (apply filter_wf)) | split)

end Sys2Proof.Machine
end

