-- ==== Sys2Proof/Laws/Ops.lean ====
section
/-! SUPPORT. What the shared operations do where their guards hold: host accesses, queue accesses and doorbells, rows of the
channel controllers, the sequencer's instructions, and the dispatch of a queue's head. -/

namespace Sys2Proof.Machine

/-! ### Guards -/

theorem doWhen_true (t s : State) : doWhen true t s = .next t := rfl
theorem doWhen_false (t s : State) : doWhen false t s = .next s := rfl

theorem hbmOn_of_working {s : State} (h : Working s) : hbmOn s = true := by
  obtain ⟨a, b, c⟩ := h; unfold hbmOn; rw [a, b]; rcases c with c | c <;> rw [c] <;> rfl
theorem cpOn_of_working {s : State} (h : Working s) : cpOn s = true := hbmOn_of_working h

theorem memRow_of_working {s : State} (h : Working s) (r : Res) : memRow s r = r := by
  simp only [memRow, hbmOn_of_working h, if_true]

theorem hostAccess_of_reachable {s : State} (h : Reachable s) (act : State → State) : hostAccess act s = act s := by
  simp [hostAccess, h.1, h.2]

/-! ### Queues -/

theorem onQueue_of_reachable {s : State} {f q n : Nat} (h : Reachable s) (hb : barDead s f = false) (hl : localQueue s f q = some n)
    (act : Nat → State → State) : onQueue f q act s = act n s := by
  simp [onQueue, hostAccess_of_reachable h, hb, hl]

/-- A doorbell with the queue's generation acts on the enabled queue in S0. -/
theorem doorbell_acts {s : State} {f q n g : Nat} (h : Reachable s) (hb : barDead s f = false) (hl : localQueue s f q = some n)
    (hg : g = (getQueue s n).gen) (hn : (getQueue s n).life = .enabled) (h0 : s.power.state = .s0) (act : Nat → State → State) :
    doorbell f q g act s = act n s := by
  simp [doorbell, onQueue_of_reachable h hb hl, hg, hn, h0]

/-- A doorbell of another generation, or of a queue that is not enabled, is counted alone. -/
theorem doorbell_stale {s : State} {f q n g : Nat} (h : Reachable s) (hb : barDead s f = false) (hl : localQueue s f q = some n)
    (hg : g ≠ (getQueue s n).gen ∨ (getQueue s n).life ≠ .enabled) (act : Nat → State → State) :
    doorbell f q g act s = updQueue n (fun w => { w with staleGen := min (w.staleGen + 1) 65535 }) s := by
  have : ((getQueue s n).gen != g || (getQueue s n).life != .enabled) = true := by
    rcases hg with h | h
    · simp [Ne.symm h]
    · simp [h]
  simp only [doorbell, onQueue_of_reachable h hb hl, this]; rfl

/-! ### The sequencer -/

theorem issues_of_issues {s : State} {tile : Nat} (h : Issues s tile) : issues (getTile s tile) = true := by
  simp [issues, h.1, h.2]

theorem seqOp_issues {s : State} {tile : Nat} (h : Issues s tile) (f : Tile → Tile) :
    seqOp tile f s = .next (updTile tile (fun t => nextPc (f t)) s) := by
  simp only [seqOp, issues_of_issues h, doWhen_true]

/-- Where the tile issues nothing, an instruction of the sequencer changes nothing. -/
theorem seqOp_idle {s : State} {tile : Nat} (h : issues (getTile s tile) = false) (f : Tile → Tile) : seqOp tile f s = .next s := by
  simp only [seqOp, h, doWhen_false]

/-! ### Dispatch -/

/-- A ready head whose own check passes leaves its queue and starts. -/
theorem dispatch_ready {s : State} {q op : Nat} {c : Cmd} {y : Ready} (hr : HeadReady s q op c y) {m : Nat → Bool} (hm : m op = true)
    (charge : State → Req → Nat) {own : State → Req → Verdict} (start : Req → Nat → State → State)
    (ho : own s (readyReq s q c y) = .ok) :
    dispatch q m charge own start s = start (readyReq s q c y) s.nextFlight (dispatched s q c y) := by
  obtain ⟨a, b, d, e, f, g, i, j⟩ := hr
  cases hf : (getQueue s q).fetched with
  | nil => simp [hf] at a
  | cons c' l =>
    simp [hf] at a; subst a
    simp only [dispatch, hf, b, hm, d, e, f, g, dispatchReady]
    have hu : (usesCtx (readyReq s q c' y).op y.slot && retiringCtx s (readyReq s q c' y).ctx) = false := by
      rw [show (readyReq s q c' y).op = op from b]; exact j
    have : firstBad [deadlinePast s y.slot, need (!(usesCtx (readyReq s q c' y).op y.slot && retiringCtx s (readyReq s q c' y).ctx))
        stContextRetired, own s (readyReq s q c' y)] = .ok := by rw [i, ho, hu]; rfl
    simp only [readyReq] at this
    simp only [this]; rfl

/-- With no command fetched, or another row's opcode at the head, nothing is dispatched. -/
theorem dispatch_none {s : State} {q : Nat} {m : Nat → Bool} (h : ∀ c ∈ (getQueue s q).fetched.head?, m (hOpcode c.bytes) = false)
    (charge : State → Req → Nat) (own : State → Req → Verdict) (start : Req → Nat → State → State) :
    dispatch q m charge own start s = s := by
  cases hf : (getQueue s q).fetched with
  | nil => simp [dispatch, hf]
  | cons c l =>
    have := h c (by simp [hf])
    simp [dispatch, hf, this]

end Sys2Proof.Machine
end

