-- ==== Sys2Proof/Laws/State.lean ====
section
/-! SUPPORT. One lemma per field of the state per update: what the update leaves alone, and what it puts in its own field. -/

namespace Sys2Proof.Machine

@[simp] theorem updTile_pending (t : Nat) (f : Tile → Tile) (s : State) : (updTile t f s).pending = s.pending := rfl
@[simp] theorem updTile_freeCtr (t : Nat) (f : Tile → Tile) (s : State) : (updTile t f s).freeCtr = s.freeCtr := rfl
@[simp] theorem updTile_clock (t : Nat) (f : Tile → Tile) (s : State) : (updTile t f s).clock = s.clock := rfl
@[simp] theorem updTile_beat (t : Nat) (f : Tile → Tile) (s : State) : (updTile t f s).beat = s.beat := rfl
@[simp] theorem updTile_clover (t : Nat) (f : Tile → Tile) (s : State) : (updTile t f s).clover = s.clover := rfl
@[simp] theorem updTile_power (t : Nat) (f : Tile → Tile) (s : State) : (updTile t f s).power = s.power := rfl
@[simp] theorem updTile_sec (t : Nat) (f : Tile → Tile) (s : State) : (updTile t f s).sec = s.sec := rfl
@[simp] theorem updTile_link (t : Nat) (f : Tile → Tile) (s : State) : (updTile t f s).link = s.link := rfl
@[simp] theorem updTile_queues (t : Nat) (f : Tile → Tile) (s : State) : (updTile t f s).queues = s.queues := rfl
@[simp] theorem updTile_queueGen (t : Nat) (f : Tile → Tile) (s : State) : (updTile t f s).queueGen = s.queueGen := rfl
@[simp] theorem updTile_flights (t : Nat) (f : Tile → Tile) (s : State) : (updTile t f s).flights = s.flights := rfl
@[simp] theorem updTile_nextFlight (t : Nat) (f : Tile → Tile) (s : State) : (updTile t f s).nextFlight = s.nextFlight := rfl
@[simp] theorem updTile_fences (t : Nat) (f : Tile → Tile) (s : State) : (updTile t f s).fences = s.fences := rfl
@[simp] theorem updTile_barriers (t : Nat) (f : Tile → Tile) (s : State) : (updTile t f s).barriers = s.barriers := rfl
@[simp] theorem updTile_mem (t : Nat) (f : Tile → Tile) (s : State) : (updTile t f s).mem = s.mem := rfl
@[simp] theorem updTile_tables (t : Nat) (f : Tile → Tile) (s : State) : (updTile t f s).tables = s.tables := rfl
@[simp] theorem updTile_sched (t : Nat) (f : Tile → Tile) (s : State) : (updTile t f s).sched = s.sched := rfl
@[simp] theorem updTile_net (t : Nat) (f : Tile → Tile) (s : State) : (updTile t f s).net = s.net := rfl
@[simp] theorem updTile_integ (t : Nat) (f : Tile → Tile) (s : State) : (updTile t f s).integ = s.integ := rfl
@[simp] theorem updTile_tele (t : Nat) (f : Tile → Tile) (s : State) : (updTile t f s).tele = s.tele := rfl
@[simp] theorem updTile_dbgEn (t : Nat) (f : Tile → Tile) (s : State) : (updTile t f s).dbgEn = s.dbgEn := rfl
@[simp] theorem updTile_out (t : Nat) (f : Tile → Tile) (s : State) : (updTile t f s).out = s.out := rfl
@[simp] theorem updTile_tiles (t : Nat) (f : Tile → Tile) (s : State) :
    (updTile t f s).tiles = smSet s.tiles t (f (getTile s t)) := rfl

@[simp] theorem updQueue_pending (q : Nat) (f : Queue → Queue) (s : State) : (updQueue q f s).pending = s.pending := rfl
@[simp] theorem updQueue_freeCtr (q : Nat) (f : Queue → Queue) (s : State) : (updQueue q f s).freeCtr = s.freeCtr := rfl
@[simp] theorem updQueue_clock (q : Nat) (f : Queue → Queue) (s : State) : (updQueue q f s).clock = s.clock := rfl
@[simp] theorem updQueue_beat (q : Nat) (f : Queue → Queue) (s : State) : (updQueue q f s).beat = s.beat := rfl
@[simp] theorem updQueue_clover (q : Nat) (f : Queue → Queue) (s : State) : (updQueue q f s).clover = s.clover := rfl
@[simp] theorem updQueue_power (q : Nat) (f : Queue → Queue) (s : State) : (updQueue q f s).power = s.power := rfl
@[simp] theorem updQueue_sec (q : Nat) (f : Queue → Queue) (s : State) : (updQueue q f s).sec = s.sec := rfl
@[simp] theorem updQueue_link (q : Nat) (f : Queue → Queue) (s : State) : (updQueue q f s).link = s.link := rfl
@[simp] theorem updQueue_queueGen (q : Nat) (f : Queue → Queue) (s : State) : (updQueue q f s).queueGen = s.queueGen := rfl
@[simp] theorem updQueue_flights (q : Nat) (f : Queue → Queue) (s : State) : (updQueue q f s).flights = s.flights := rfl
@[simp] theorem updQueue_nextFlight (q : Nat) (f : Queue → Queue) (s : State) : (updQueue q f s).nextFlight = s.nextFlight := rfl
@[simp] theorem updQueue_fences (q : Nat) (f : Queue → Queue) (s : State) : (updQueue q f s).fences = s.fences := rfl
@[simp] theorem updQueue_barriers (q : Nat) (f : Queue → Queue) (s : State) : (updQueue q f s).barriers = s.barriers := rfl
@[simp] theorem updQueue_mem (q : Nat) (f : Queue → Queue) (s : State) : (updQueue q f s).mem = s.mem := rfl
@[simp] theorem updQueue_tables (q : Nat) (f : Queue → Queue) (s : State) : (updQueue q f s).tables = s.tables := rfl
@[simp] theorem updQueue_tiles (q : Nat) (f : Queue → Queue) (s : State) : (updQueue q f s).tiles = s.tiles := rfl
@[simp] theorem updQueue_sched (q : Nat) (f : Queue → Queue) (s : State) : (updQueue q f s).sched = s.sched := rfl
@[simp] theorem updQueue_net (q : Nat) (f : Queue → Queue) (s : State) : (updQueue q f s).net = s.net := rfl
@[simp] theorem updQueue_integ (q : Nat) (f : Queue → Queue) (s : State) : (updQueue q f s).integ = s.integ := rfl
@[simp] theorem updQueue_tele (q : Nat) (f : Queue → Queue) (s : State) : (updQueue q f s).tele = s.tele := rfl
@[simp] theorem updQueue_dbgEn (q : Nat) (f : Queue → Queue) (s : State) : (updQueue q f s).dbgEn = s.dbgEn := rfl
@[simp] theorem updQueue_out (q : Nat) (f : Queue → Queue) (s : State) : (updQueue q f s).out = s.out := rfl
@[simp] theorem updQueue_queues (q : Nat) (f : Queue → Queue) (s : State) :
    (updQueue q f s).queues = smSet s.queues q (f (getQueue s q)) := rfl

@[simp] theorem updFunc_pending (n : Nat) (f : Func → Func) (s : State) : (updFunc n f s).pending = s.pending := rfl
@[simp] theorem updFunc_freeCtr (n : Nat) (f : Func → Func) (s : State) : (updFunc n f s).freeCtr = s.freeCtr := rfl
@[simp] theorem updFunc_clock (n : Nat) (f : Func → Func) (s : State) : (updFunc n f s).clock = s.clock := rfl
@[simp] theorem updFunc_beat (n : Nat) (f : Func → Func) (s : State) : (updFunc n f s).beat = s.beat := rfl
@[simp] theorem updFunc_clover (n : Nat) (f : Func → Func) (s : State) : (updFunc n f s).clover = s.clover := rfl
@[simp] theorem updFunc_power (n : Nat) (f : Func → Func) (s : State) : (updFunc n f s).power = s.power := rfl
@[simp] theorem updFunc_sec (n : Nat) (f : Func → Func) (s : State) : (updFunc n f s).sec = s.sec := rfl
@[simp] theorem updFunc_queues (n : Nat) (f : Func → Func) (s : State) : (updFunc n f s).queues = s.queues := rfl
@[simp] theorem updFunc_queueGen (n : Nat) (f : Func → Func) (s : State) : (updFunc n f s).queueGen = s.queueGen := rfl
@[simp] theorem updFunc_flights (n : Nat) (f : Func → Func) (s : State) : (updFunc n f s).flights = s.flights := rfl
@[simp] theorem updFunc_nextFlight (n : Nat) (f : Func → Func) (s : State) : (updFunc n f s).nextFlight = s.nextFlight := rfl
@[simp] theorem updFunc_fences (n : Nat) (f : Func → Func) (s : State) : (updFunc n f s).fences = s.fences := rfl
@[simp] theorem updFunc_barriers (n : Nat) (f : Func → Func) (s : State) : (updFunc n f s).barriers = s.barriers := rfl
@[simp] theorem updFunc_mem (n : Nat) (f : Func → Func) (s : State) : (updFunc n f s).mem = s.mem := rfl
@[simp] theorem updFunc_tables (n : Nat) (f : Func → Func) (s : State) : (updFunc n f s).tables = s.tables := rfl
@[simp] theorem updFunc_tiles (n : Nat) (f : Func → Func) (s : State) : (updFunc n f s).tiles = s.tiles := rfl
@[simp] theorem updFunc_sched (n : Nat) (f : Func → Func) (s : State) : (updFunc n f s).sched = s.sched := rfl
@[simp] theorem updFunc_net (n : Nat) (f : Func → Func) (s : State) : (updFunc n f s).net = s.net := rfl
@[simp] theorem updFunc_integ (n : Nat) (f : Func → Func) (s : State) : (updFunc n f s).integ = s.integ := rfl
@[simp] theorem updFunc_tele (n : Nat) (f : Func → Func) (s : State) : (updFunc n f s).tele = s.tele := rfl
@[simp] theorem updFunc_dbgEn (n : Nat) (f : Func → Func) (s : State) : (updFunc n f s).dbgEn = s.dbgEn := rfl
@[simp] theorem updFunc_out (n : Nat) (f : Func → Func) (s : State) : (updFunc n f s).out = s.out := rfl
@[simp] theorem updFunc_link (n : Nat) (f : Func → Func) (s : State) :
    (updFunc n f s).link = { s.link with funcs := smSet s.link.funcs n (f (getFunc s n)) } := rfl

@[simp] theorem updChan_pending (c : Nat) (f : Channel → Channel) (s : State) : (updChan c f s).pending = s.pending := rfl
@[simp] theorem updChan_freeCtr (c : Nat) (f : Channel → Channel) (s : State) : (updChan c f s).freeCtr = s.freeCtr := rfl
@[simp] theorem updChan_clock (c : Nat) (f : Channel → Channel) (s : State) : (updChan c f s).clock = s.clock := rfl
@[simp] theorem updChan_beat (c : Nat) (f : Channel → Channel) (s : State) : (updChan c f s).beat = s.beat := rfl
@[simp] theorem updChan_clover (c : Nat) (f : Channel → Channel) (s : State) : (updChan c f s).clover = s.clover := rfl
@[simp] theorem updChan_power (c : Nat) (f : Channel → Channel) (s : State) : (updChan c f s).power = s.power := rfl
@[simp] theorem updChan_sec (c : Nat) (f : Channel → Channel) (s : State) : (updChan c f s).sec = s.sec := rfl
@[simp] theorem updChan_link (c : Nat) (f : Channel → Channel) (s : State) : (updChan c f s).link = s.link := rfl
@[simp] theorem updChan_queues (c : Nat) (f : Channel → Channel) (s : State) : (updChan c f s).queues = s.queues := rfl
@[simp] theorem updChan_queueGen (c : Nat) (f : Channel → Channel) (s : State) : (updChan c f s).queueGen = s.queueGen := rfl
@[simp] theorem updChan_flights (c : Nat) (f : Channel → Channel) (s : State) : (updChan c f s).flights = s.flights := rfl
@[simp] theorem updChan_nextFlight (c : Nat) (f : Channel → Channel) (s : State) : (updChan c f s).nextFlight = s.nextFlight := rfl
@[simp] theorem updChan_fences (c : Nat) (f : Channel → Channel) (s : State) : (updChan c f s).fences = s.fences := rfl
@[simp] theorem updChan_barriers (c : Nat) (f : Channel → Channel) (s : State) : (updChan c f s).barriers = s.barriers := rfl
@[simp] theorem updChan_tables (c : Nat) (f : Channel → Channel) (s : State) : (updChan c f s).tables = s.tables := rfl
@[simp] theorem updChan_tiles (c : Nat) (f : Channel → Channel) (s : State) : (updChan c f s).tiles = s.tiles := rfl
@[simp] theorem updChan_sched (c : Nat) (f : Channel → Channel) (s : State) : (updChan c f s).sched = s.sched := rfl
@[simp] theorem updChan_net (c : Nat) (f : Channel → Channel) (s : State) : (updChan c f s).net = s.net := rfl
@[simp] theorem updChan_integ (c : Nat) (f : Channel → Channel) (s : State) : (updChan c f s).integ = s.integ := rfl
@[simp] theorem updChan_tele (c : Nat) (f : Channel → Channel) (s : State) : (updChan c f s).tele = s.tele := rfl
@[simp] theorem updChan_dbgEn (c : Nat) (f : Channel → Channel) (s : State) : (updChan c f s).dbgEn = s.dbgEn := rfl
@[simp] theorem updChan_out (c : Nat) (f : Channel → Channel) (s : State) : (updChan c f s).out = s.out := rfl
@[simp] theorem updChan_mem (c : Nat) (f : Channel → Channel) (s : State) :
    (updChan c f s).mem = { s.mem with channels := smSet s.mem.channels c (f (getChan s c)) } := rfl

@[simp] theorem updStack_pending (k : Nat) (f : Stack → Stack) (s : State) : (updStack k f s).pending = s.pending := rfl
@[simp] theorem updStack_freeCtr (k : Nat) (f : Stack → Stack) (s : State) : (updStack k f s).freeCtr = s.freeCtr := rfl
@[simp] theorem updStack_clock (k : Nat) (f : Stack → Stack) (s : State) : (updStack k f s).clock = s.clock := rfl
@[simp] theorem updStack_beat (k : Nat) (f : Stack → Stack) (s : State) : (updStack k f s).beat = s.beat := rfl
@[simp] theorem updStack_clover (k : Nat) (f : Stack → Stack) (s : State) : (updStack k f s).clover = s.clover := rfl
@[simp] theorem updStack_power (k : Nat) (f : Stack → Stack) (s : State) : (updStack k f s).power = s.power := rfl
@[simp] theorem updStack_sec (k : Nat) (f : Stack → Stack) (s : State) : (updStack k f s).sec = s.sec := rfl
@[simp] theorem updStack_link (k : Nat) (f : Stack → Stack) (s : State) : (updStack k f s).link = s.link := rfl
@[simp] theorem updStack_queues (k : Nat) (f : Stack → Stack) (s : State) : (updStack k f s).queues = s.queues := rfl
@[simp] theorem updStack_queueGen (k : Nat) (f : Stack → Stack) (s : State) : (updStack k f s).queueGen = s.queueGen := rfl
@[simp] theorem updStack_flights (k : Nat) (f : Stack → Stack) (s : State) : (updStack k f s).flights = s.flights := rfl
@[simp] theorem updStack_nextFlight (k : Nat) (f : Stack → Stack) (s : State) : (updStack k f s).nextFlight = s.nextFlight := rfl
@[simp] theorem updStack_fences (k : Nat) (f : Stack → Stack) (s : State) : (updStack k f s).fences = s.fences := rfl
@[simp] theorem updStack_barriers (k : Nat) (f : Stack → Stack) (s : State) : (updStack k f s).barriers = s.barriers := rfl
@[simp] theorem updStack_tables (k : Nat) (f : Stack → Stack) (s : State) : (updStack k f s).tables = s.tables := rfl
@[simp] theorem updStack_tiles (k : Nat) (f : Stack → Stack) (s : State) : (updStack k f s).tiles = s.tiles := rfl
@[simp] theorem updStack_sched (k : Nat) (f : Stack → Stack) (s : State) : (updStack k f s).sched = s.sched := rfl
@[simp] theorem updStack_net (k : Nat) (f : Stack → Stack) (s : State) : (updStack k f s).net = s.net := rfl
@[simp] theorem updStack_integ (k : Nat) (f : Stack → Stack) (s : State) : (updStack k f s).integ = s.integ := rfl
@[simp] theorem updStack_tele (k : Nat) (f : Stack → Stack) (s : State) : (updStack k f s).tele = s.tele := rfl
@[simp] theorem updStack_dbgEn (k : Nat) (f : Stack → Stack) (s : State) : (updStack k f s).dbgEn = s.dbgEn := rfl
@[simp] theorem updStack_out (k : Nat) (f : Stack → Stack) (s : State) : (updStack k f s).out = s.out := rfl
@[simp] theorem updStack_mem (k : Nat) (f : Stack → Stack) (s : State) :
    (updStack k f s).mem = { s.mem with hbm := smSet s.mem.hbm k (f (getStack s k)) } := rfl

@[simp] theorem updSub_pending (k : Nat) (f : Sub → Sub) (s : State) : (updSub k f s).pending = s.pending := rfl
@[simp] theorem updSub_freeCtr (k : Nat) (f : Sub → Sub) (s : State) : (updSub k f s).freeCtr = s.freeCtr := rfl
@[simp] theorem updSub_clock (k : Nat) (f : Sub → Sub) (s : State) : (updSub k f s).clock = s.clock := rfl
@[simp] theorem updSub_beat (k : Nat) (f : Sub → Sub) (s : State) : (updSub k f s).beat = s.beat := rfl
@[simp] theorem updSub_clover (k : Nat) (f : Sub → Sub) (s : State) : (updSub k f s).clover = s.clover := rfl
@[simp] theorem updSub_power (k : Nat) (f : Sub → Sub) (s : State) : (updSub k f s).power = s.power := rfl
@[simp] theorem updSub_sec (k : Nat) (f : Sub → Sub) (s : State) : (updSub k f s).sec = s.sec := rfl
@[simp] theorem updSub_link (k : Nat) (f : Sub → Sub) (s : State) : (updSub k f s).link = s.link := rfl
@[simp] theorem updSub_queues (k : Nat) (f : Sub → Sub) (s : State) : (updSub k f s).queues = s.queues := rfl
@[simp] theorem updSub_queueGen (k : Nat) (f : Sub → Sub) (s : State) : (updSub k f s).queueGen = s.queueGen := rfl
@[simp] theorem updSub_flights (k : Nat) (f : Sub → Sub) (s : State) : (updSub k f s).flights = s.flights := rfl
@[simp] theorem updSub_nextFlight (k : Nat) (f : Sub → Sub) (s : State) : (updSub k f s).nextFlight = s.nextFlight := rfl
@[simp] theorem updSub_fences (k : Nat) (f : Sub → Sub) (s : State) : (updSub k f s).fences = s.fences := rfl
@[simp] theorem updSub_barriers (k : Nat) (f : Sub → Sub) (s : State) : (updSub k f s).barriers = s.barriers := rfl
@[simp] theorem updSub_mem (k : Nat) (f : Sub → Sub) (s : State) : (updSub k f s).mem = s.mem := rfl
@[simp] theorem updSub_tables (k : Nat) (f : Sub → Sub) (s : State) : (updSub k f s).tables = s.tables := rfl
@[simp] theorem updSub_tiles (k : Nat) (f : Sub → Sub) (s : State) : (updSub k f s).tiles = s.tiles := rfl
@[simp] theorem updSub_sched (k : Nat) (f : Sub → Sub) (s : State) : (updSub k f s).sched = s.sched := rfl
@[simp] theorem updSub_integ (k : Nat) (f : Sub → Sub) (s : State) : (updSub k f s).integ = s.integ := rfl
@[simp] theorem updSub_tele (k : Nat) (f : Sub → Sub) (s : State) : (updSub k f s).tele = s.tele := rfl
@[simp] theorem updSub_dbgEn (k : Nat) (f : Sub → Sub) (s : State) : (updSub k f s).dbgEn = s.dbgEn := rfl
@[simp] theorem updSub_out (k : Nat) (f : Sub → Sub) (s : State) : (updSub k f s).out = s.out := rfl
@[simp] theorem updSub_net (k : Nat) (f : Sub → Sub) (s : State) :
    (updSub k f s).net = { s.net with subs := smSet s.net.subs k (f (getSub s k)) } := rfl

@[simp] theorem updPort_pending (k : Nat) (f : Port → Port) (s : State) : (updPort k f s).pending = s.pending := rfl
@[simp] theorem updPort_freeCtr (k : Nat) (f : Port → Port) (s : State) : (updPort k f s).freeCtr = s.freeCtr := rfl
@[simp] theorem updPort_clock (k : Nat) (f : Port → Port) (s : State) : (updPort k f s).clock = s.clock := rfl
@[simp] theorem updPort_beat (k : Nat) (f : Port → Port) (s : State) : (updPort k f s).beat = s.beat := rfl
@[simp] theorem updPort_clover (k : Nat) (f : Port → Port) (s : State) : (updPort k f s).clover = s.clover := rfl
@[simp] theorem updPort_power (k : Nat) (f : Port → Port) (s : State) : (updPort k f s).power = s.power := rfl
@[simp] theorem updPort_sec (k : Nat) (f : Port → Port) (s : State) : (updPort k f s).sec = s.sec := rfl
@[simp] theorem updPort_link (k : Nat) (f : Port → Port) (s : State) : (updPort k f s).link = s.link := rfl
@[simp] theorem updPort_queues (k : Nat) (f : Port → Port) (s : State) : (updPort k f s).queues = s.queues := rfl
@[simp] theorem updPort_queueGen (k : Nat) (f : Port → Port) (s : State) : (updPort k f s).queueGen = s.queueGen := rfl
@[simp] theorem updPort_flights (k : Nat) (f : Port → Port) (s : State) : (updPort k f s).flights = s.flights := rfl
@[simp] theorem updPort_nextFlight (k : Nat) (f : Port → Port) (s : State) : (updPort k f s).nextFlight = s.nextFlight := rfl
@[simp] theorem updPort_fences (k : Nat) (f : Port → Port) (s : State) : (updPort k f s).fences = s.fences := rfl
@[simp] theorem updPort_barriers (k : Nat) (f : Port → Port) (s : State) : (updPort k f s).barriers = s.barriers := rfl
@[simp] theorem updPort_mem (k : Nat) (f : Port → Port) (s : State) : (updPort k f s).mem = s.mem := rfl
@[simp] theorem updPort_tables (k : Nat) (f : Port → Port) (s : State) : (updPort k f s).tables = s.tables := rfl
@[simp] theorem updPort_tiles (k : Nat) (f : Port → Port) (s : State) : (updPort k f s).tiles = s.tiles := rfl
@[simp] theorem updPort_sched (k : Nat) (f : Port → Port) (s : State) : (updPort k f s).sched = s.sched := rfl
@[simp] theorem updPort_integ (k : Nat) (f : Port → Port) (s : State) : (updPort k f s).integ = s.integ := rfl
@[simp] theorem updPort_tele (k : Nat) (f : Port → Port) (s : State) : (updPort k f s).tele = s.tele := rfl
@[simp] theorem updPort_dbgEn (k : Nat) (f : Port → Port) (s : State) : (updPort k f s).dbgEn = s.dbgEn := rfl
@[simp] theorem updPort_out (k : Nat) (f : Port → Port) (s : State) : (updPort k f s).out = s.out := rfl
@[simp] theorem updPort_net (k : Nat) (f : Port → Port) (s : State) :
    (updPort k f s).net = { s.net with ports := smSet s.net.ports k (f (getPort s k)) } := rfl

@[simp] theorem updFlow_pending (p : Nat) (f : Flow → Flow) (s : State) : (updFlow p f s).pending = s.pending := by unfold updFlow; split <;> rfl
@[simp] theorem updFlow_freeCtr (p : Nat) (f : Flow → Flow) (s : State) : (updFlow p f s).freeCtr = s.freeCtr := by unfold updFlow; split <;> rfl
@[simp] theorem updFlow_clock (p : Nat) (f : Flow → Flow) (s : State) : (updFlow p f s).clock = s.clock := by unfold updFlow; split <;> rfl
@[simp] theorem updFlow_beat (p : Nat) (f : Flow → Flow) (s : State) : (updFlow p f s).beat = s.beat := by unfold updFlow; split <;> rfl
@[simp] theorem updFlow_clover (p : Nat) (f : Flow → Flow) (s : State) : (updFlow p f s).clover = s.clover := by unfold updFlow; split <;> rfl
@[simp] theorem updFlow_power (p : Nat) (f : Flow → Flow) (s : State) : (updFlow p f s).power = s.power := by unfold updFlow; split <;> rfl
@[simp] theorem updFlow_sec (p : Nat) (f : Flow → Flow) (s : State) : (updFlow p f s).sec = s.sec := by unfold updFlow; split <;> rfl
@[simp] theorem updFlow_link (p : Nat) (f : Flow → Flow) (s : State) : (updFlow p f s).link = s.link := by unfold updFlow; split <;> rfl
@[simp] theorem updFlow_queues (p : Nat) (f : Flow → Flow) (s : State) : (updFlow p f s).queues = s.queues := by unfold updFlow; split <;> rfl
@[simp] theorem updFlow_queueGen (p : Nat) (f : Flow → Flow) (s : State) : (updFlow p f s).queueGen = s.queueGen := by unfold updFlow; split <;> rfl
@[simp] theorem updFlow_flights (p : Nat) (f : Flow → Flow) (s : State) : (updFlow p f s).flights = s.flights := by unfold updFlow; split <;> rfl
@[simp] theorem updFlow_nextFlight (p : Nat) (f : Flow → Flow) (s : State) : (updFlow p f s).nextFlight = s.nextFlight := by unfold updFlow; split <;> rfl
@[simp] theorem updFlow_fences (p : Nat) (f : Flow → Flow) (s : State) : (updFlow p f s).fences = s.fences := by unfold updFlow; split <;> rfl
@[simp] theorem updFlow_barriers (p : Nat) (f : Flow → Flow) (s : State) : (updFlow p f s).barriers = s.barriers := by unfold updFlow; split <;> rfl
@[simp] theorem updFlow_mem (p : Nat) (f : Flow → Flow) (s : State) : (updFlow p f s).mem = s.mem := by unfold updFlow; split <;> rfl
@[simp] theorem updFlow_tables (p : Nat) (f : Flow → Flow) (s : State) : (updFlow p f s).tables = s.tables := by unfold updFlow; split <;> rfl
@[simp] theorem updFlow_tiles (p : Nat) (f : Flow → Flow) (s : State) : (updFlow p f s).tiles = s.tiles := by unfold updFlow; split <;> rfl
@[simp] theorem updFlow_sched (p : Nat) (f : Flow → Flow) (s : State) : (updFlow p f s).sched = s.sched := by unfold updFlow; split <;> rfl
@[simp] theorem updFlow_integ (p : Nat) (f : Flow → Flow) (s : State) : (updFlow p f s).integ = s.integ := by unfold updFlow; split <;> rfl
@[simp] theorem updFlow_tele (p : Nat) (f : Flow → Flow) (s : State) : (updFlow p f s).tele = s.tele := by unfold updFlow; split <;> rfl
@[simp] theorem updFlow_dbgEn (p : Nat) (f : Flow → Flow) (s : State) : (updFlow p f s).dbgEn = s.dbgEn := by unfold updFlow; split <;> rfl
@[simp] theorem updFlow_out (p : Nat) (f : Flow → Flow) (s : State) : (updFlow p f s).out = s.out := by unfold updFlow; split <;> rfl

@[simp] theorem updPart_pending (p : Nat) (f : Part → Part) (s : State) : (updPart p f s).pending = s.pending := by unfold updPart; split <;> rfl
@[simp] theorem updPart_freeCtr (p : Nat) (f : Part → Part) (s : State) : (updPart p f s).freeCtr = s.freeCtr := by unfold updPart; split <;> rfl
@[simp] theorem updPart_clock (p : Nat) (f : Part → Part) (s : State) : (updPart p f s).clock = s.clock := by unfold updPart; split <;> rfl
@[simp] theorem updPart_beat (p : Nat) (f : Part → Part) (s : State) : (updPart p f s).beat = s.beat := by unfold updPart; split <;> rfl
@[simp] theorem updPart_clover (p : Nat) (f : Part → Part) (s : State) : (updPart p f s).clover = s.clover := by unfold updPart; split <;> rfl
@[simp] theorem updPart_power (p : Nat) (f : Part → Part) (s : State) : (updPart p f s).power = s.power := by unfold updPart; split <;> rfl
@[simp] theorem updPart_sec (p : Nat) (f : Part → Part) (s : State) : (updPart p f s).sec = s.sec := by unfold updPart; split <;> rfl
@[simp] theorem updPart_link (p : Nat) (f : Part → Part) (s : State) : (updPart p f s).link = s.link := by unfold updPart; split <;> rfl
@[simp] theorem updPart_queues (p : Nat) (f : Part → Part) (s : State) : (updPart p f s).queues = s.queues := by unfold updPart; split <;> rfl
@[simp] theorem updPart_queueGen (p : Nat) (f : Part → Part) (s : State) : (updPart p f s).queueGen = s.queueGen := by unfold updPart; split <;> rfl
@[simp] theorem updPart_flights (p : Nat) (f : Part → Part) (s : State) : (updPart p f s).flights = s.flights := by unfold updPart; split <;> rfl
@[simp] theorem updPart_nextFlight (p : Nat) (f : Part → Part) (s : State) : (updPart p f s).nextFlight = s.nextFlight := by unfold updPart; split <;> rfl
@[simp] theorem updPart_fences (p : Nat) (f : Part → Part) (s : State) : (updPart p f s).fences = s.fences := by unfold updPart; split <;> rfl
@[simp] theorem updPart_barriers (p : Nat) (f : Part → Part) (s : State) : (updPart p f s).barriers = s.barriers := by unfold updPart; split <;> rfl
@[simp] theorem updPart_mem (p : Nat) (f : Part → Part) (s : State) : (updPart p f s).mem = s.mem := by unfold updPart; split <;> rfl
@[simp] theorem updPart_tables (p : Nat) (f : Part → Part) (s : State) : (updPart p f s).tables = s.tables := by unfold updPart; split <;> rfl
@[simp] theorem updPart_tiles (p : Nat) (f : Part → Part) (s : State) : (updPart p f s).tiles = s.tiles := by unfold updPart; split <;> rfl
@[simp] theorem updPart_net (p : Nat) (f : Part → Part) (s : State) : (updPart p f s).net = s.net := by unfold updPart; split <;> rfl
@[simp] theorem updPart_integ (p : Nat) (f : Part → Part) (s : State) : (updPart p f s).integ = s.integ := by unfold updPart; split <;> rfl
@[simp] theorem updPart_tele (p : Nat) (f : Part → Part) (s : State) : (updPart p f s).tele = s.tele := by unfold updPart; split <;> rfl
@[simp] theorem updPart_dbgEn (p : Nat) (f : Part → Part) (s : State) : (updPart p f s).dbgEn = s.dbgEn := by unfold updPart; split <;> rfl
@[simp] theorem updPart_out (p : Nat) (f : Part → Part) (s : State) : (updPart p f s).out = s.out := by unfold updPart; split <;> rfl

@[simp] theorem updFlight_pending (n : Nat) (f : Flight → Flight) (s : State) : (updFlight n f s).pending = s.pending := rfl
@[simp] theorem updFlight_freeCtr (n : Nat) (f : Flight → Flight) (s : State) : (updFlight n f s).freeCtr = s.freeCtr := rfl
@[simp] theorem updFlight_clock (n : Nat) (f : Flight → Flight) (s : State) : (updFlight n f s).clock = s.clock := rfl
@[simp] theorem updFlight_beat (n : Nat) (f : Flight → Flight) (s : State) : (updFlight n f s).beat = s.beat := rfl
@[simp] theorem updFlight_clover (n : Nat) (f : Flight → Flight) (s : State) : (updFlight n f s).clover = s.clover := rfl
@[simp] theorem updFlight_power (n : Nat) (f : Flight → Flight) (s : State) : (updFlight n f s).power = s.power := rfl
@[simp] theorem updFlight_sec (n : Nat) (f : Flight → Flight) (s : State) : (updFlight n f s).sec = s.sec := rfl
@[simp] theorem updFlight_link (n : Nat) (f : Flight → Flight) (s : State) : (updFlight n f s).link = s.link := rfl
@[simp] theorem updFlight_queues (n : Nat) (f : Flight → Flight) (s : State) : (updFlight n f s).queues = s.queues := rfl
@[simp] theorem updFlight_queueGen (n : Nat) (f : Flight → Flight) (s : State) : (updFlight n f s).queueGen = s.queueGen := rfl
@[simp] theorem updFlight_nextFlight (n : Nat) (f : Flight → Flight) (s : State) : (updFlight n f s).nextFlight = s.nextFlight := rfl
@[simp] theorem updFlight_fences (n : Nat) (f : Flight → Flight) (s : State) : (updFlight n f s).fences = s.fences := rfl
@[simp] theorem updFlight_barriers (n : Nat) (f : Flight → Flight) (s : State) : (updFlight n f s).barriers = s.barriers := rfl
@[simp] theorem updFlight_mem (n : Nat) (f : Flight → Flight) (s : State) : (updFlight n f s).mem = s.mem := rfl
@[simp] theorem updFlight_tables (n : Nat) (f : Flight → Flight) (s : State) : (updFlight n f s).tables = s.tables := rfl
@[simp] theorem updFlight_tiles (n : Nat) (f : Flight → Flight) (s : State) : (updFlight n f s).tiles = s.tiles := rfl
@[simp] theorem updFlight_sched (n : Nat) (f : Flight → Flight) (s : State) : (updFlight n f s).sched = s.sched := rfl
@[simp] theorem updFlight_net (n : Nat) (f : Flight → Flight) (s : State) : (updFlight n f s).net = s.net := rfl
@[simp] theorem updFlight_integ (n : Nat) (f : Flight → Flight) (s : State) : (updFlight n f s).integ = s.integ := rfl
@[simp] theorem updFlight_tele (n : Nat) (f : Flight → Flight) (s : State) : (updFlight n f s).tele = s.tele := rfl
@[simp] theorem updFlight_dbgEn (n : Nat) (f : Flight → Flight) (s : State) : (updFlight n f s).dbgEn = s.dbgEn := rfl
@[simp] theorem updFlight_out (n : Nat) (f : Flight → Flight) (s : State) : (updFlight n f s).out = s.out := rfl
@[simp] theorem updFlight_flights (n : Nat) (f : Flight → Flight) (s : State) :
    (updFlight n f s).flights = s.flights.map fun w => if w.num = n then f w else w := rfl

@[simp] theorem dropFlight_pending (n : Nat) (s : State) : (dropFlight n s).pending = s.pending := rfl
@[simp] theorem dropFlight_freeCtr (n : Nat) (s : State) : (dropFlight n s).freeCtr = s.freeCtr := rfl
@[simp] theorem dropFlight_clock (n : Nat) (s : State) : (dropFlight n s).clock = s.clock := rfl
@[simp] theorem dropFlight_beat (n : Nat) (s : State) : (dropFlight n s).beat = s.beat := rfl
@[simp] theorem dropFlight_clover (n : Nat) (s : State) : (dropFlight n s).clover = s.clover := rfl
@[simp] theorem dropFlight_power (n : Nat) (s : State) : (dropFlight n s).power = s.power := rfl
@[simp] theorem dropFlight_sec (n : Nat) (s : State) : (dropFlight n s).sec = s.sec := rfl
@[simp] theorem dropFlight_link (n : Nat) (s : State) : (dropFlight n s).link = s.link := rfl
@[simp] theorem dropFlight_queues (n : Nat) (s : State) : (dropFlight n s).queues = s.queues := rfl
@[simp] theorem dropFlight_queueGen (n : Nat) (s : State) : (dropFlight n s).queueGen = s.queueGen := rfl
@[simp] theorem dropFlight_nextFlight (n : Nat) (s : State) : (dropFlight n s).nextFlight = s.nextFlight := rfl
@[simp] theorem dropFlight_fences (n : Nat) (s : State) : (dropFlight n s).fences = s.fences := rfl
@[simp] theorem dropFlight_barriers (n : Nat) (s : State) : (dropFlight n s).barriers = s.barriers := rfl
@[simp] theorem dropFlight_mem (n : Nat) (s : State) : (dropFlight n s).mem = s.mem := rfl
@[simp] theorem dropFlight_tables (n : Nat) (s : State) : (dropFlight n s).tables = s.tables := rfl
@[simp] theorem dropFlight_tiles (n : Nat) (s : State) : (dropFlight n s).tiles = s.tiles := rfl
@[simp] theorem dropFlight_sched (n : Nat) (s : State) : (dropFlight n s).sched = s.sched := rfl
@[simp] theorem dropFlight_net (n : Nat) (s : State) : (dropFlight n s).net = s.net := rfl
@[simp] theorem dropFlight_integ (n : Nat) (s : State) : (dropFlight n s).integ = s.integ := rfl
@[simp] theorem dropFlight_tele (n : Nat) (s : State) : (dropFlight n s).tele = s.tele := rfl
@[simp] theorem dropFlight_dbgEn (n : Nat) (s : State) : (dropFlight n s).dbgEn = s.dbgEn := rfl
@[simp] theorem dropFlight_out (n : Nat) (s : State) : (dropFlight n s).out = s.out := rfl
@[simp] theorem dropFlight_flights (n : Nat) (s : State) :
    (dropFlight n s).flights = s.flights.filter fun w => w.num != n := rfl

@[simp] theorem updTable_pending (t : Nat) (f : Table → Table) (s : State) : (updTable t f s).pending = s.pending := by unfold updTable; split <;> rfl
@[simp] theorem updTable_freeCtr (t : Nat) (f : Table → Table) (s : State) : (updTable t f s).freeCtr = s.freeCtr := by unfold updTable; split <;> rfl
@[simp] theorem updTable_clock (t : Nat) (f : Table → Table) (s : State) : (updTable t f s).clock = s.clock := by unfold updTable; split <;> rfl
@[simp] theorem updTable_beat (t : Nat) (f : Table → Table) (s : State) : (updTable t f s).beat = s.beat := by unfold updTable; split <;> rfl
@[simp] theorem updTable_clover (t : Nat) (f : Table → Table) (s : State) : (updTable t f s).clover = s.clover := by unfold updTable; split <;> rfl
@[simp] theorem updTable_power (t : Nat) (f : Table → Table) (s : State) : (updTable t f s).power = s.power := by unfold updTable; split <;> rfl
@[simp] theorem updTable_sec (t : Nat) (f : Table → Table) (s : State) : (updTable t f s).sec = s.sec := by unfold updTable; split <;> rfl
@[simp] theorem updTable_link (t : Nat) (f : Table → Table) (s : State) : (updTable t f s).link = s.link := by unfold updTable; split <;> rfl
@[simp] theorem updTable_queues (t : Nat) (f : Table → Table) (s : State) : (updTable t f s).queues = s.queues := by unfold updTable; split <;> rfl
@[simp] theorem updTable_queueGen (t : Nat) (f : Table → Table) (s : State) : (updTable t f s).queueGen = s.queueGen := by unfold updTable; split <;> rfl
@[simp] theorem updTable_flights (t : Nat) (f : Table → Table) (s : State) : (updTable t f s).flights = s.flights := by unfold updTable; split <;> rfl
@[simp] theorem updTable_nextFlight (t : Nat) (f : Table → Table) (s : State) : (updTable t f s).nextFlight = s.nextFlight := by unfold updTable; split <;> rfl
@[simp] theorem updTable_fences (t : Nat) (f : Table → Table) (s : State) : (updTable t f s).fences = s.fences := by unfold updTable; split <;> rfl
@[simp] theorem updTable_barriers (t : Nat) (f : Table → Table) (s : State) : (updTable t f s).barriers = s.barriers := by unfold updTable; split <;> rfl
@[simp] theorem updTable_mem (t : Nat) (f : Table → Table) (s : State) : (updTable t f s).mem = s.mem := by unfold updTable; split <;> rfl
@[simp] theorem updTable_tiles (t : Nat) (f : Table → Table) (s : State) : (updTable t f s).tiles = s.tiles := by unfold updTable; split <;> rfl
@[simp] theorem updTable_sched (t : Nat) (f : Table → Table) (s : State) : (updTable t f s).sched = s.sched := by unfold updTable; split <;> rfl
@[simp] theorem updTable_net (t : Nat) (f : Table → Table) (s : State) : (updTable t f s).net = s.net := by unfold updTable; split <;> rfl
@[simp] theorem updTable_integ (t : Nat) (f : Table → Table) (s : State) : (updTable t f s).integ = s.integ := by unfold updTable; split <;> rfl
@[simp] theorem updTable_tele (t : Nat) (f : Table → Table) (s : State) : (updTable t f s).tele = s.tele := by unfold updTable; split <;> rfl
@[simp] theorem updTable_dbgEn (t : Nat) (f : Table → Table) (s : State) : (updTable t f s).dbgEn = s.dbgEn := by unfold updTable; split <;> rfl
@[simp] theorem updTable_out (t : Nat) (f : Table → Table) (s : State) : (updTable t f s).out = s.out := by unfold updTable; split <;> rfl

@[simp] theorem updGroup_pending (f : Group → Group) (s : State) : (updGroup f s).pending = s.pending := rfl
@[simp] theorem updGroup_freeCtr (f : Group → Group) (s : State) : (updGroup f s).freeCtr = s.freeCtr := rfl
@[simp] theorem updGroup_clock (f : Group → Group) (s : State) : (updGroup f s).clock = s.clock := rfl
@[simp] theorem updGroup_beat (f : Group → Group) (s : State) : (updGroup f s).beat = s.beat := rfl
@[simp] theorem updGroup_clover (f : Group → Group) (s : State) : (updGroup f s).clover = s.clover := rfl
@[simp] theorem updGroup_power (f : Group → Group) (s : State) : (updGroup f s).power = s.power := rfl
@[simp] theorem updGroup_sec (f : Group → Group) (s : State) : (updGroup f s).sec = s.sec := rfl
@[simp] theorem updGroup_link (f : Group → Group) (s : State) : (updGroup f s).link = s.link := rfl
@[simp] theorem updGroup_queues (f : Group → Group) (s : State) : (updGroup f s).queues = s.queues := rfl
@[simp] theorem updGroup_queueGen (f : Group → Group) (s : State) : (updGroup f s).queueGen = s.queueGen := rfl
@[simp] theorem updGroup_flights (f : Group → Group) (s : State) : (updGroup f s).flights = s.flights := rfl
@[simp] theorem updGroup_nextFlight (f : Group → Group) (s : State) : (updGroup f s).nextFlight = s.nextFlight := rfl
@[simp] theorem updGroup_fences (f : Group → Group) (s : State) : (updGroup f s).fences = s.fences := rfl
@[simp] theorem updGroup_barriers (f : Group → Group) (s : State) : (updGroup f s).barriers = s.barriers := rfl
@[simp] theorem updGroup_mem (f : Group → Group) (s : State) : (updGroup f s).mem = s.mem := rfl
@[simp] theorem updGroup_tables (f : Group → Group) (s : State) : (updGroup f s).tables = s.tables := rfl
@[simp] theorem updGroup_tiles (f : Group → Group) (s : State) : (updGroup f s).tiles = s.tiles := rfl
@[simp] theorem updGroup_sched (f : Group → Group) (s : State) : (updGroup f s).sched = s.sched := rfl
@[simp] theorem updGroup_integ (f : Group → Group) (s : State) : (updGroup f s).integ = s.integ := rfl
@[simp] theorem updGroup_tele (f : Group → Group) (s : State) : (updGroup f s).tele = s.tele := rfl
@[simp] theorem updGroup_dbgEn (f : Group → Group) (s : State) : (updGroup f s).dbgEn = s.dbgEn := rfl
@[simp] theorem updGroup_out (f : Group → Group) (s : State) : (updGroup f s).out = s.out := rfl
@[simp] theorem updGroup_net (f : Group → Group) (s : State) :
    (updGroup f s).net = { s.net with group := f s.net.group } := rfl

@[simp] theorem updInteg_pending (f : Integ → Integ) (s : State) : (updInteg f s).pending = s.pending := rfl
@[simp] theorem updInteg_freeCtr (f : Integ → Integ) (s : State) : (updInteg f s).freeCtr = s.freeCtr := rfl
@[simp] theorem updInteg_clock (f : Integ → Integ) (s : State) : (updInteg f s).clock = s.clock := rfl
@[simp] theorem updInteg_beat (f : Integ → Integ) (s : State) : (updInteg f s).beat = s.beat := rfl
@[simp] theorem updInteg_clover (f : Integ → Integ) (s : State) : (updInteg f s).clover = s.clover := rfl
@[simp] theorem updInteg_power (f : Integ → Integ) (s : State) : (updInteg f s).power = s.power := rfl
@[simp] theorem updInteg_sec (f : Integ → Integ) (s : State) : (updInteg f s).sec = s.sec := rfl
@[simp] theorem updInteg_link (f : Integ → Integ) (s : State) : (updInteg f s).link = s.link := rfl
@[simp] theorem updInteg_queues (f : Integ → Integ) (s : State) : (updInteg f s).queues = s.queues := rfl
@[simp] theorem updInteg_queueGen (f : Integ → Integ) (s : State) : (updInteg f s).queueGen = s.queueGen := rfl
@[simp] theorem updInteg_flights (f : Integ → Integ) (s : State) : (updInteg f s).flights = s.flights := rfl
@[simp] theorem updInteg_nextFlight (f : Integ → Integ) (s : State) : (updInteg f s).nextFlight = s.nextFlight := rfl
@[simp] theorem updInteg_fences (f : Integ → Integ) (s : State) : (updInteg f s).fences = s.fences := rfl
@[simp] theorem updInteg_barriers (f : Integ → Integ) (s : State) : (updInteg f s).barriers = s.barriers := rfl
@[simp] theorem updInteg_mem (f : Integ → Integ) (s : State) : (updInteg f s).mem = s.mem := rfl
@[simp] theorem updInteg_tables (f : Integ → Integ) (s : State) : (updInteg f s).tables = s.tables := rfl
@[simp] theorem updInteg_tiles (f : Integ → Integ) (s : State) : (updInteg f s).tiles = s.tiles := rfl
@[simp] theorem updInteg_sched (f : Integ → Integ) (s : State) : (updInteg f s).sched = s.sched := rfl
@[simp] theorem updInteg_net (f : Integ → Integ) (s : State) : (updInteg f s).net = s.net := rfl
@[simp] theorem updInteg_tele (f : Integ → Integ) (s : State) : (updInteg f s).tele = s.tele := rfl
@[simp] theorem updInteg_dbgEn (f : Integ → Integ) (s : State) : (updInteg f s).dbgEn = s.dbgEn := rfl
@[simp] theorem updInteg_out (f : Integ → Integ) (s : State) : (updInteg f s).out = s.out := rfl
@[simp] theorem updInteg_integ (f : Integ → Integ) (s : State) :
    (updInteg f s).integ = f s.integ := rfl

@[simp] theorem updTele_pending (f : Tele → Tele) (s : State) : (updTele f s).pending = s.pending := rfl
@[simp] theorem updTele_freeCtr (f : Tele → Tele) (s : State) : (updTele f s).freeCtr = s.freeCtr := rfl
@[simp] theorem updTele_clock (f : Tele → Tele) (s : State) : (updTele f s).clock = s.clock := rfl
@[simp] theorem updTele_beat (f : Tele → Tele) (s : State) : (updTele f s).beat = s.beat := rfl
@[simp] theorem updTele_clover (f : Tele → Tele) (s : State) : (updTele f s).clover = s.clover := rfl
@[simp] theorem updTele_power (f : Tele → Tele) (s : State) : (updTele f s).power = s.power := rfl
@[simp] theorem updTele_sec (f : Tele → Tele) (s : State) : (updTele f s).sec = s.sec := rfl
@[simp] theorem updTele_link (f : Tele → Tele) (s : State) : (updTele f s).link = s.link := rfl
@[simp] theorem updTele_queues (f : Tele → Tele) (s : State) : (updTele f s).queues = s.queues := rfl
@[simp] theorem updTele_queueGen (f : Tele → Tele) (s : State) : (updTele f s).queueGen = s.queueGen := rfl
@[simp] theorem updTele_flights (f : Tele → Tele) (s : State) : (updTele f s).flights = s.flights := rfl
@[simp] theorem updTele_nextFlight (f : Tele → Tele) (s : State) : (updTele f s).nextFlight = s.nextFlight := rfl
@[simp] theorem updTele_fences (f : Tele → Tele) (s : State) : (updTele f s).fences = s.fences := rfl
@[simp] theorem updTele_barriers (f : Tele → Tele) (s : State) : (updTele f s).barriers = s.barriers := rfl
@[simp] theorem updTele_mem (f : Tele → Tele) (s : State) : (updTele f s).mem = s.mem := rfl
@[simp] theorem updTele_tables (f : Tele → Tele) (s : State) : (updTele f s).tables = s.tables := rfl
@[simp] theorem updTele_tiles (f : Tele → Tele) (s : State) : (updTele f s).tiles = s.tiles := rfl
@[simp] theorem updTele_sched (f : Tele → Tele) (s : State) : (updTele f s).sched = s.sched := rfl
@[simp] theorem updTele_net (f : Tele → Tele) (s : State) : (updTele f s).net = s.net := rfl
@[simp] theorem updTele_integ (f : Tele → Tele) (s : State) : (updTele f s).integ = s.integ := rfl
@[simp] theorem updTele_dbgEn (f : Tele → Tele) (s : State) : (updTele f s).dbgEn = s.dbgEn := rfl
@[simp] theorem updTele_out (f : Tele → Tele) (s : State) : (updTele f s).out = s.out := rfl
@[simp] theorem updTele_tele (f : Tele → Tele) (s : State) :
    (updTele f s).tele = f s.tele := rfl

@[simp] theorem updMem_pending (f : Mem → Mem) (s : State) : (updMem f s).pending = s.pending := rfl
@[simp] theorem updMem_freeCtr (f : Mem → Mem) (s : State) : (updMem f s).freeCtr = s.freeCtr := rfl
@[simp] theorem updMem_clock (f : Mem → Mem) (s : State) : (updMem f s).clock = s.clock := rfl
@[simp] theorem updMem_beat (f : Mem → Mem) (s : State) : (updMem f s).beat = s.beat := rfl
@[simp] theorem updMem_clover (f : Mem → Mem) (s : State) : (updMem f s).clover = s.clover := rfl
@[simp] theorem updMem_power (f : Mem → Mem) (s : State) : (updMem f s).power = s.power := rfl
@[simp] theorem updMem_sec (f : Mem → Mem) (s : State) : (updMem f s).sec = s.sec := rfl
@[simp] theorem updMem_link (f : Mem → Mem) (s : State) : (updMem f s).link = s.link := rfl
@[simp] theorem updMem_queues (f : Mem → Mem) (s : State) : (updMem f s).queues = s.queues := rfl
@[simp] theorem updMem_queueGen (f : Mem → Mem) (s : State) : (updMem f s).queueGen = s.queueGen := rfl
@[simp] theorem updMem_flights (f : Mem → Mem) (s : State) : (updMem f s).flights = s.flights := rfl
@[simp] theorem updMem_nextFlight (f : Mem → Mem) (s : State) : (updMem f s).nextFlight = s.nextFlight := rfl
@[simp] theorem updMem_fences (f : Mem → Mem) (s : State) : (updMem f s).fences = s.fences := rfl
@[simp] theorem updMem_barriers (f : Mem → Mem) (s : State) : (updMem f s).barriers = s.barriers := rfl
@[simp] theorem updMem_tables (f : Mem → Mem) (s : State) : (updMem f s).tables = s.tables := rfl
@[simp] theorem updMem_tiles (f : Mem → Mem) (s : State) : (updMem f s).tiles = s.tiles := rfl
@[simp] theorem updMem_sched (f : Mem → Mem) (s : State) : (updMem f s).sched = s.sched := rfl
@[simp] theorem updMem_net (f : Mem → Mem) (s : State) : (updMem f s).net = s.net := rfl
@[simp] theorem updMem_integ (f : Mem → Mem) (s : State) : (updMem f s).integ = s.integ := rfl
@[simp] theorem updMem_tele (f : Mem → Mem) (s : State) : (updMem f s).tele = s.tele := rfl
@[simp] theorem updMem_dbgEn (f : Mem → Mem) (s : State) : (updMem f s).dbgEn = s.dbgEn := rfl
@[simp] theorem updMem_out (f : Mem → Mem) (s : State) : (updMem f s).out = s.out := rfl
@[simp] theorem updMem_mem (f : Mem → Mem) (s : State) :
    (updMem f s).mem = f s.mem := rfl

@[simp] theorem updTables_pending (f : Tables → Tables) (s : State) : (updTables f s).pending = s.pending := rfl
@[simp] theorem updTables_freeCtr (f : Tables → Tables) (s : State) : (updTables f s).freeCtr = s.freeCtr := rfl
@[simp] theorem updTables_clock (f : Tables → Tables) (s : State) : (updTables f s).clock = s.clock := rfl
@[simp] theorem updTables_beat (f : Tables → Tables) (s : State) : (updTables f s).beat = s.beat := rfl
@[simp] theorem updTables_clover (f : Tables → Tables) (s : State) : (updTables f s).clover = s.clover := rfl
@[simp] theorem updTables_power (f : Tables → Tables) (s : State) : (updTables f s).power = s.power := rfl
@[simp] theorem updTables_sec (f : Tables → Tables) (s : State) : (updTables f s).sec = s.sec := rfl
@[simp] theorem updTables_link (f : Tables → Tables) (s : State) : (updTables f s).link = s.link := rfl
@[simp] theorem updTables_queues (f : Tables → Tables) (s : State) : (updTables f s).queues = s.queues := rfl
@[simp] theorem updTables_queueGen (f : Tables → Tables) (s : State) : (updTables f s).queueGen = s.queueGen := rfl
@[simp] theorem updTables_flights (f : Tables → Tables) (s : State) : (updTables f s).flights = s.flights := rfl
@[simp] theorem updTables_nextFlight (f : Tables → Tables) (s : State) : (updTables f s).nextFlight = s.nextFlight := rfl
@[simp] theorem updTables_fences (f : Tables → Tables) (s : State) : (updTables f s).fences = s.fences := rfl
@[simp] theorem updTables_barriers (f : Tables → Tables) (s : State) : (updTables f s).barriers = s.barriers := rfl
@[simp] theorem updTables_mem (f : Tables → Tables) (s : State) : (updTables f s).mem = s.mem := rfl
@[simp] theorem updTables_tiles (f : Tables → Tables) (s : State) : (updTables f s).tiles = s.tiles := rfl
@[simp] theorem updTables_sched (f : Tables → Tables) (s : State) : (updTables f s).sched = s.sched := rfl
@[simp] theorem updTables_net (f : Tables → Tables) (s : State) : (updTables f s).net = s.net := rfl
@[simp] theorem updTables_integ (f : Tables → Tables) (s : State) : (updTables f s).integ = s.integ := rfl
@[simp] theorem updTables_tele (f : Tables → Tables) (s : State) : (updTables f s).tele = s.tele := rfl
@[simp] theorem updTables_dbgEn (f : Tables → Tables) (s : State) : (updTables f s).dbgEn = s.dbgEn := rfl
@[simp] theorem updTables_out (f : Tables → Tables) (s : State) : (updTables f s).out = s.out := rfl
@[simp] theorem updTables_tables (f : Tables → Tables) (s : State) :
    (updTables f s).tables = f s.tables := rfl

@[simp] theorem updSched_pending (f : Sched → Sched) (s : State) : (updSched f s).pending = s.pending := rfl
@[simp] theorem updSched_freeCtr (f : Sched → Sched) (s : State) : (updSched f s).freeCtr = s.freeCtr := rfl
@[simp] theorem updSched_clock (f : Sched → Sched) (s : State) : (updSched f s).clock = s.clock := rfl
@[simp] theorem updSched_beat (f : Sched → Sched) (s : State) : (updSched f s).beat = s.beat := rfl
@[simp] theorem updSched_clover (f : Sched → Sched) (s : State) : (updSched f s).clover = s.clover := rfl
@[simp] theorem updSched_power (f : Sched → Sched) (s : State) : (updSched f s).power = s.power := rfl
@[simp] theorem updSched_sec (f : Sched → Sched) (s : State) : (updSched f s).sec = s.sec := rfl
@[simp] theorem updSched_link (f : Sched → Sched) (s : State) : (updSched f s).link = s.link := rfl
@[simp] theorem updSched_queues (f : Sched → Sched) (s : State) : (updSched f s).queues = s.queues := rfl
@[simp] theorem updSched_queueGen (f : Sched → Sched) (s : State) : (updSched f s).queueGen = s.queueGen := rfl
@[simp] theorem updSched_flights (f : Sched → Sched) (s : State) : (updSched f s).flights = s.flights := rfl
@[simp] theorem updSched_nextFlight (f : Sched → Sched) (s : State) : (updSched f s).nextFlight = s.nextFlight := rfl
@[simp] theorem updSched_fences (f : Sched → Sched) (s : State) : (updSched f s).fences = s.fences := rfl
@[simp] theorem updSched_barriers (f : Sched → Sched) (s : State) : (updSched f s).barriers = s.barriers := rfl
@[simp] theorem updSched_mem (f : Sched → Sched) (s : State) : (updSched f s).mem = s.mem := rfl
@[simp] theorem updSched_tables (f : Sched → Sched) (s : State) : (updSched f s).tables = s.tables := rfl
@[simp] theorem updSched_tiles (f : Sched → Sched) (s : State) : (updSched f s).tiles = s.tiles := rfl
@[simp] theorem updSched_net (f : Sched → Sched) (s : State) : (updSched f s).net = s.net := rfl
@[simp] theorem updSched_integ (f : Sched → Sched) (s : State) : (updSched f s).integ = s.integ := rfl
@[simp] theorem updSched_tele (f : Sched → Sched) (s : State) : (updSched f s).tele = s.tele := rfl
@[simp] theorem updSched_dbgEn (f : Sched → Sched) (s : State) : (updSched f s).dbgEn = s.dbgEn := rfl
@[simp] theorem updSched_out (f : Sched → Sched) (s : State) : (updSched f s).out = s.out := rfl
@[simp] theorem updSched_sched (f : Sched → Sched) (s : State) :
    (updSched f s).sched = f s.sched := rfl

@[simp] theorem dropStages_pending (n : Nat) (s : State) : (dropStages n s).pending = s.pending := rfl
@[simp] theorem dropStages_freeCtr (n : Nat) (s : State) : (dropStages n s).freeCtr = s.freeCtr := rfl
@[simp] theorem dropStages_clock (n : Nat) (s : State) : (dropStages n s).clock = s.clock := rfl
@[simp] theorem dropStages_beat (n : Nat) (s : State) : (dropStages n s).beat = s.beat := rfl
@[simp] theorem dropStages_clover (n : Nat) (s : State) : (dropStages n s).clover = s.clover := rfl
@[simp] theorem dropStages_power (n : Nat) (s : State) : (dropStages n s).power = s.power := rfl
@[simp] theorem dropStages_sec (n : Nat) (s : State) : (dropStages n s).sec = s.sec := rfl
@[simp] theorem dropStages_link (n : Nat) (s : State) : (dropStages n s).link = s.link := rfl
@[simp] theorem dropStages_queues (n : Nat) (s : State) : (dropStages n s).queues = s.queues := rfl
@[simp] theorem dropStages_queueGen (n : Nat) (s : State) : (dropStages n s).queueGen = s.queueGen := rfl
@[simp] theorem dropStages_flights (n : Nat) (s : State) : (dropStages n s).flights = s.flights := rfl
@[simp] theorem dropStages_nextFlight (n : Nat) (s : State) : (dropStages n s).nextFlight = s.nextFlight := rfl
@[simp] theorem dropStages_fences (n : Nat) (s : State) : (dropStages n s).fences = s.fences := rfl
@[simp] theorem dropStages_barriers (n : Nat) (s : State) : (dropStages n s).barriers = s.barriers := rfl
@[simp] theorem dropStages_mem (n : Nat) (s : State) : (dropStages n s).mem = s.mem := rfl
@[simp] theorem dropStages_tables (n : Nat) (s : State) : (dropStages n s).tables = s.tables := rfl
@[simp] theorem dropStages_tiles (n : Nat) (s : State) : (dropStages n s).tiles = s.tiles := rfl
@[simp] theorem dropStages_net (n : Nat) (s : State) : (dropStages n s).net = s.net := rfl
@[simp] theorem dropStages_integ (n : Nat) (s : State) : (dropStages n s).integ = s.integ := rfl
@[simp] theorem dropStages_tele (n : Nat) (s : State) : (dropStages n s).tele = s.tele := rfl
@[simp] theorem dropStages_dbgEn (n : Nat) (s : State) : (dropStages n s).dbgEn = s.dbgEn := rfl
@[simp] theorem dropStages_out (n : Nat) (s : State) : (dropStages n s).out = s.out := rfl
@[simp] theorem dropStages_sched (n : Nat) (s : State) :
    (dropStages n s).sched = { s.sched with stages := s.sched.stages.filter fun x => x.flight != n } := rfl

@[simp] theorem updClock_pending (f : Clock → Clock) (s : State) : (updClock f s).pending = s.pending := rfl
@[simp] theorem updClock_freeCtr (f : Clock → Clock) (s : State) : (updClock f s).freeCtr = s.freeCtr := rfl
@[simp] theorem updClock_beat (f : Clock → Clock) (s : State) : (updClock f s).beat = s.beat := rfl
@[simp] theorem updClock_clover (f : Clock → Clock) (s : State) : (updClock f s).clover = s.clover := rfl
@[simp] theorem updClock_power (f : Clock → Clock) (s : State) : (updClock f s).power = s.power := rfl
@[simp] theorem updClock_sec (f : Clock → Clock) (s : State) : (updClock f s).sec = s.sec := rfl
@[simp] theorem updClock_link (f : Clock → Clock) (s : State) : (updClock f s).link = s.link := rfl
@[simp] theorem updClock_queues (f : Clock → Clock) (s : State) : (updClock f s).queues = s.queues := rfl
@[simp] theorem updClock_queueGen (f : Clock → Clock) (s : State) : (updClock f s).queueGen = s.queueGen := rfl
@[simp] theorem updClock_flights (f : Clock → Clock) (s : State) : (updClock f s).flights = s.flights := rfl
@[simp] theorem updClock_nextFlight (f : Clock → Clock) (s : State) : (updClock f s).nextFlight = s.nextFlight := rfl
@[simp] theorem updClock_fences (f : Clock → Clock) (s : State) : (updClock f s).fences = s.fences := rfl
@[simp] theorem updClock_barriers (f : Clock → Clock) (s : State) : (updClock f s).barriers = s.barriers := rfl
@[simp] theorem updClock_mem (f : Clock → Clock) (s : State) : (updClock f s).mem = s.mem := rfl
@[simp] theorem updClock_tables (f : Clock → Clock) (s : State) : (updClock f s).tables = s.tables := rfl
@[simp] theorem updClock_tiles (f : Clock → Clock) (s : State) : (updClock f s).tiles = s.tiles := rfl
@[simp] theorem updClock_sched (f : Clock → Clock) (s : State) : (updClock f s).sched = s.sched := rfl
@[simp] theorem updClock_net (f : Clock → Clock) (s : State) : (updClock f s).net = s.net := rfl
@[simp] theorem updClock_integ (f : Clock → Clock) (s : State) : (updClock f s).integ = s.integ := rfl
@[simp] theorem updClock_tele (f : Clock → Clock) (s : State) : (updClock f s).tele = s.tele := rfl
@[simp] theorem updClock_dbgEn (f : Clock → Clock) (s : State) : (updClock f s).dbgEn = s.dbgEn := rfl
@[simp] theorem updClock_out (f : Clock → Clock) (s : State) : (updClock f s).out = s.out := rfl
@[simp] theorem updClock_clock (f : Clock → Clock) (s : State) :
    (updClock f s).clock = f s.clock := rfl

@[simp] theorem updBeat_pending (f : Beat → Beat) (s : State) : (updBeat f s).pending = s.pending := rfl
@[simp] theorem updBeat_freeCtr (f : Beat → Beat) (s : State) : (updBeat f s).freeCtr = s.freeCtr := rfl
@[simp] theorem updBeat_clock (f : Beat → Beat) (s : State) : (updBeat f s).clock = s.clock := rfl
@[simp] theorem updBeat_clover (f : Beat → Beat) (s : State) : (updBeat f s).clover = s.clover := rfl
@[simp] theorem updBeat_power (f : Beat → Beat) (s : State) : (updBeat f s).power = s.power := rfl
@[simp] theorem updBeat_sec (f : Beat → Beat) (s : State) : (updBeat f s).sec = s.sec := rfl
@[simp] theorem updBeat_link (f : Beat → Beat) (s : State) : (updBeat f s).link = s.link := rfl
@[simp] theorem updBeat_queues (f : Beat → Beat) (s : State) : (updBeat f s).queues = s.queues := rfl
@[simp] theorem updBeat_queueGen (f : Beat → Beat) (s : State) : (updBeat f s).queueGen = s.queueGen := rfl
@[simp] theorem updBeat_flights (f : Beat → Beat) (s : State) : (updBeat f s).flights = s.flights := rfl
@[simp] theorem updBeat_nextFlight (f : Beat → Beat) (s : State) : (updBeat f s).nextFlight = s.nextFlight := rfl
@[simp] theorem updBeat_fences (f : Beat → Beat) (s : State) : (updBeat f s).fences = s.fences := rfl
@[simp] theorem updBeat_barriers (f : Beat → Beat) (s : State) : (updBeat f s).barriers = s.barriers := rfl
@[simp] theorem updBeat_mem (f : Beat → Beat) (s : State) : (updBeat f s).mem = s.mem := rfl
@[simp] theorem updBeat_tables (f : Beat → Beat) (s : State) : (updBeat f s).tables = s.tables := rfl
@[simp] theorem updBeat_tiles (f : Beat → Beat) (s : State) : (updBeat f s).tiles = s.tiles := rfl
@[simp] theorem updBeat_sched (f : Beat → Beat) (s : State) : (updBeat f s).sched = s.sched := rfl
@[simp] theorem updBeat_net (f : Beat → Beat) (s : State) : (updBeat f s).net = s.net := rfl
@[simp] theorem updBeat_integ (f : Beat → Beat) (s : State) : (updBeat f s).integ = s.integ := rfl
@[simp] theorem updBeat_tele (f : Beat → Beat) (s : State) : (updBeat f s).tele = s.tele := rfl
@[simp] theorem updBeat_dbgEn (f : Beat → Beat) (s : State) : (updBeat f s).dbgEn = s.dbgEn := rfl
@[simp] theorem updBeat_out (f : Beat → Beat) (s : State) : (updBeat f s).out = s.out := rfl
@[simp] theorem updBeat_beat (f : Beat → Beat) (s : State) :
    (updBeat f s).beat = f s.beat := rfl

@[simp] theorem updPower_pending (f : Power → Power) (s : State) : (updPower f s).pending = s.pending := rfl
@[simp] theorem updPower_freeCtr (f : Power → Power) (s : State) : (updPower f s).freeCtr = s.freeCtr := rfl
@[simp] theorem updPower_clock (f : Power → Power) (s : State) : (updPower f s).clock = s.clock := rfl
@[simp] theorem updPower_beat (f : Power → Power) (s : State) : (updPower f s).beat = s.beat := rfl
@[simp] theorem updPower_clover (f : Power → Power) (s : State) : (updPower f s).clover = s.clover := rfl
@[simp] theorem updPower_sec (f : Power → Power) (s : State) : (updPower f s).sec = s.sec := rfl
@[simp] theorem updPower_link (f : Power → Power) (s : State) : (updPower f s).link = s.link := rfl
@[simp] theorem updPower_queues (f : Power → Power) (s : State) : (updPower f s).queues = s.queues := rfl
@[simp] theorem updPower_queueGen (f : Power → Power) (s : State) : (updPower f s).queueGen = s.queueGen := rfl
@[simp] theorem updPower_flights (f : Power → Power) (s : State) : (updPower f s).flights = s.flights := rfl
@[simp] theorem updPower_nextFlight (f : Power → Power) (s : State) : (updPower f s).nextFlight = s.nextFlight := rfl
@[simp] theorem updPower_fences (f : Power → Power) (s : State) : (updPower f s).fences = s.fences := rfl
@[simp] theorem updPower_barriers (f : Power → Power) (s : State) : (updPower f s).barriers = s.barriers := rfl
@[simp] theorem updPower_mem (f : Power → Power) (s : State) : (updPower f s).mem = s.mem := rfl
@[simp] theorem updPower_tables (f : Power → Power) (s : State) : (updPower f s).tables = s.tables := rfl
@[simp] theorem updPower_tiles (f : Power → Power) (s : State) : (updPower f s).tiles = s.tiles := rfl
@[simp] theorem updPower_sched (f : Power → Power) (s : State) : (updPower f s).sched = s.sched := rfl
@[simp] theorem updPower_net (f : Power → Power) (s : State) : (updPower f s).net = s.net := rfl
@[simp] theorem updPower_integ (f : Power → Power) (s : State) : (updPower f s).integ = s.integ := rfl
@[simp] theorem updPower_tele (f : Power → Power) (s : State) : (updPower f s).tele = s.tele := rfl
@[simp] theorem updPower_dbgEn (f : Power → Power) (s : State) : (updPower f s).dbgEn = s.dbgEn := rfl
@[simp] theorem updPower_out (f : Power → Power) (s : State) : (updPower f s).out = s.out := rfl
@[simp] theorem updPower_power (f : Power → Power) (s : State) :
    (updPower f s).power = f s.power := rfl

@[simp] theorem updSec_pending (f : Sec → Sec) (s : State) : (updSec f s).pending = s.pending := rfl
@[simp] theorem updSec_freeCtr (f : Sec → Sec) (s : State) : (updSec f s).freeCtr = s.freeCtr := rfl
@[simp] theorem updSec_clock (f : Sec → Sec) (s : State) : (updSec f s).clock = s.clock := rfl
@[simp] theorem updSec_beat (f : Sec → Sec) (s : State) : (updSec f s).beat = s.beat := rfl
@[simp] theorem updSec_clover (f : Sec → Sec) (s : State) : (updSec f s).clover = s.clover := rfl
@[simp] theorem updSec_power (f : Sec → Sec) (s : State) : (updSec f s).power = s.power := rfl
@[simp] theorem updSec_link (f : Sec → Sec) (s : State) : (updSec f s).link = s.link := rfl
@[simp] theorem updSec_queues (f : Sec → Sec) (s : State) : (updSec f s).queues = s.queues := rfl
@[simp] theorem updSec_queueGen (f : Sec → Sec) (s : State) : (updSec f s).queueGen = s.queueGen := rfl
@[simp] theorem updSec_flights (f : Sec → Sec) (s : State) : (updSec f s).flights = s.flights := rfl
@[simp] theorem updSec_nextFlight (f : Sec → Sec) (s : State) : (updSec f s).nextFlight = s.nextFlight := rfl
@[simp] theorem updSec_fences (f : Sec → Sec) (s : State) : (updSec f s).fences = s.fences := rfl
@[simp] theorem updSec_barriers (f : Sec → Sec) (s : State) : (updSec f s).barriers = s.barriers := rfl
@[simp] theorem updSec_mem (f : Sec → Sec) (s : State) : (updSec f s).mem = s.mem := rfl
@[simp] theorem updSec_tables (f : Sec → Sec) (s : State) : (updSec f s).tables = s.tables := rfl
@[simp] theorem updSec_tiles (f : Sec → Sec) (s : State) : (updSec f s).tiles = s.tiles := rfl
@[simp] theorem updSec_sched (f : Sec → Sec) (s : State) : (updSec f s).sched = s.sched := rfl
@[simp] theorem updSec_net (f : Sec → Sec) (s : State) : (updSec f s).net = s.net := rfl
@[simp] theorem updSec_integ (f : Sec → Sec) (s : State) : (updSec f s).integ = s.integ := rfl
@[simp] theorem updSec_tele (f : Sec → Sec) (s : State) : (updSec f s).tele = s.tele := rfl
@[simp] theorem updSec_dbgEn (f : Sec → Sec) (s : State) : (updSec f s).dbgEn = s.dbgEn := rfl
@[simp] theorem updSec_out (f : Sec → Sec) (s : State) : (updSec f s).out = s.out := rfl
@[simp] theorem updSec_sec (f : Sec → Sec) (s : State) :
    (updSec f s).sec = f s.sec := rfl

@[simp] theorem updLink_pending (f : Link → Link) (s : State) : (updLink f s).pending = s.pending := rfl
@[simp] theorem updLink_freeCtr (f : Link → Link) (s : State) : (updLink f s).freeCtr = s.freeCtr := rfl
@[simp] theorem updLink_clock (f : Link → Link) (s : State) : (updLink f s).clock = s.clock := rfl
@[simp] theorem updLink_beat (f : Link → Link) (s : State) : (updLink f s).beat = s.beat := rfl
@[simp] theorem updLink_clover (f : Link → Link) (s : State) : (updLink f s).clover = s.clover := rfl
@[simp] theorem updLink_power (f : Link → Link) (s : State) : (updLink f s).power = s.power := rfl
@[simp] theorem updLink_sec (f : Link → Link) (s : State) : (updLink f s).sec = s.sec := rfl
@[simp] theorem updLink_queues (f : Link → Link) (s : State) : (updLink f s).queues = s.queues := rfl
@[simp] theorem updLink_queueGen (f : Link → Link) (s : State) : (updLink f s).queueGen = s.queueGen := rfl
@[simp] theorem updLink_flights (f : Link → Link) (s : State) : (updLink f s).flights = s.flights := rfl
@[simp] theorem updLink_nextFlight (f : Link → Link) (s : State) : (updLink f s).nextFlight = s.nextFlight := rfl
@[simp] theorem updLink_fences (f : Link → Link) (s : State) : (updLink f s).fences = s.fences := rfl
@[simp] theorem updLink_barriers (f : Link → Link) (s : State) : (updLink f s).barriers = s.barriers := rfl
@[simp] theorem updLink_mem (f : Link → Link) (s : State) : (updLink f s).mem = s.mem := rfl
@[simp] theorem updLink_tables (f : Link → Link) (s : State) : (updLink f s).tables = s.tables := rfl
@[simp] theorem updLink_tiles (f : Link → Link) (s : State) : (updLink f s).tiles = s.tiles := rfl
@[simp] theorem updLink_sched (f : Link → Link) (s : State) : (updLink f s).sched = s.sched := rfl
@[simp] theorem updLink_net (f : Link → Link) (s : State) : (updLink f s).net = s.net := rfl
@[simp] theorem updLink_integ (f : Link → Link) (s : State) : (updLink f s).integ = s.integ := rfl
@[simp] theorem updLink_tele (f : Link → Link) (s : State) : (updLink f s).tele = s.tele := rfl
@[simp] theorem updLink_dbgEn (f : Link → Link) (s : State) : (updLink f s).dbgEn = s.dbgEn := rfl
@[simp] theorem updLink_out (f : Link → Link) (s : State) : (updLink f s).out = s.out := rfl
@[simp] theorem updLink_link (f : Link → Link) (s : State) :
    (updLink f s).link = f s.link := rfl

@[simp] theorem updNet_pending (f : Net → Net) (s : State) : (updNet f s).pending = s.pending := rfl
@[simp] theorem updNet_freeCtr (f : Net → Net) (s : State) : (updNet f s).freeCtr = s.freeCtr := rfl
@[simp] theorem updNet_clock (f : Net → Net) (s : State) : (updNet f s).clock = s.clock := rfl
@[simp] theorem updNet_beat (f : Net → Net) (s : State) : (updNet f s).beat = s.beat := rfl
@[simp] theorem updNet_clover (f : Net → Net) (s : State) : (updNet f s).clover = s.clover := rfl
@[simp] theorem updNet_power (f : Net → Net) (s : State) : (updNet f s).power = s.power := rfl
@[simp] theorem updNet_sec (f : Net → Net) (s : State) : (updNet f s).sec = s.sec := rfl
@[simp] theorem updNet_link (f : Net → Net) (s : State) : (updNet f s).link = s.link := rfl
@[simp] theorem updNet_queues (f : Net → Net) (s : State) : (updNet f s).queues = s.queues := rfl
@[simp] theorem updNet_queueGen (f : Net → Net) (s : State) : (updNet f s).queueGen = s.queueGen := rfl
@[simp] theorem updNet_flights (f : Net → Net) (s : State) : (updNet f s).flights = s.flights := rfl
@[simp] theorem updNet_nextFlight (f : Net → Net) (s : State) : (updNet f s).nextFlight = s.nextFlight := rfl
@[simp] theorem updNet_fences (f : Net → Net) (s : State) : (updNet f s).fences = s.fences := rfl
@[simp] theorem updNet_barriers (f : Net → Net) (s : State) : (updNet f s).barriers = s.barriers := rfl
@[simp] theorem updNet_mem (f : Net → Net) (s : State) : (updNet f s).mem = s.mem := rfl
@[simp] theorem updNet_tables (f : Net → Net) (s : State) : (updNet f s).tables = s.tables := rfl
@[simp] theorem updNet_tiles (f : Net → Net) (s : State) : (updNet f s).tiles = s.tiles := rfl
@[simp] theorem updNet_sched (f : Net → Net) (s : State) : (updNet f s).sched = s.sched := rfl
@[simp] theorem updNet_integ (f : Net → Net) (s : State) : (updNet f s).integ = s.integ := rfl
@[simp] theorem updNet_tele (f : Net → Net) (s : State) : (updNet f s).tele = s.tele := rfl
@[simp] theorem updNet_dbgEn (f : Net → Net) (s : State) : (updNet f s).dbgEn = s.dbgEn := rfl
@[simp] theorem updNet_out (f : Net → Net) (s : State) : (updNet f s).out = s.out := rfl
@[simp] theorem updNet_net (f : Net → Net) (s : State) :
    (updNet f s).net = f s.net := rfl

@[simp] theorem updOut_pending (f : Out → Out) (s : State) : (updOut f s).pending = s.pending := rfl
@[simp] theorem updOut_freeCtr (f : Out → Out) (s : State) : (updOut f s).freeCtr = s.freeCtr := rfl
@[simp] theorem updOut_clock (f : Out → Out) (s : State) : (updOut f s).clock = s.clock := rfl
@[simp] theorem updOut_beat (f : Out → Out) (s : State) : (updOut f s).beat = s.beat := rfl
@[simp] theorem updOut_clover (f : Out → Out) (s : State) : (updOut f s).clover = s.clover := rfl
@[simp] theorem updOut_power (f : Out → Out) (s : State) : (updOut f s).power = s.power := rfl
@[simp] theorem updOut_sec (f : Out → Out) (s : State) : (updOut f s).sec = s.sec := rfl
@[simp] theorem updOut_link (f : Out → Out) (s : State) : (updOut f s).link = s.link := rfl
@[simp] theorem updOut_queues (f : Out → Out) (s : State) : (updOut f s).queues = s.queues := rfl
@[simp] theorem updOut_queueGen (f : Out → Out) (s : State) : (updOut f s).queueGen = s.queueGen := rfl
@[simp] theorem updOut_flights (f : Out → Out) (s : State) : (updOut f s).flights = s.flights := rfl
@[simp] theorem updOut_nextFlight (f : Out → Out) (s : State) : (updOut f s).nextFlight = s.nextFlight := rfl
@[simp] theorem updOut_fences (f : Out → Out) (s : State) : (updOut f s).fences = s.fences := rfl
@[simp] theorem updOut_barriers (f : Out → Out) (s : State) : (updOut f s).barriers = s.barriers := rfl
@[simp] theorem updOut_mem (f : Out → Out) (s : State) : (updOut f s).mem = s.mem := rfl
@[simp] theorem updOut_tables (f : Out → Out) (s : State) : (updOut f s).tables = s.tables := rfl
@[simp] theorem updOut_tiles (f : Out → Out) (s : State) : (updOut f s).tiles = s.tiles := rfl
@[simp] theorem updOut_sched (f : Out → Out) (s : State) : (updOut f s).sched = s.sched := rfl
@[simp] theorem updOut_net (f : Out → Out) (s : State) : (updOut f s).net = s.net := rfl
@[simp] theorem updOut_integ (f : Out → Out) (s : State) : (updOut f s).integ = s.integ := rfl
@[simp] theorem updOut_tele (f : Out → Out) (s : State) : (updOut f s).tele = s.tele := rfl
@[simp] theorem updOut_dbgEn (f : Out → Out) (s : State) : (updOut f s).dbgEn = s.dbgEn := rfl
@[simp] theorem updOut_out (f : Out → Out) (s : State) :
    (updOut f s).out = f s.out := rfl

@[simp] theorem updClover_pending (f : Clover → Clover) (s : State) : (updClover f s).pending = s.pending := rfl
@[simp] theorem updClover_freeCtr (f : Clover → Clover) (s : State) : (updClover f s).freeCtr = s.freeCtr := rfl
@[simp] theorem updClover_clock (f : Clover → Clover) (s : State) : (updClover f s).clock = s.clock := rfl
@[simp] theorem updClover_beat (f : Clover → Clover) (s : State) : (updClover f s).beat = s.beat := rfl
@[simp] theorem updClover_power (f : Clover → Clover) (s : State) : (updClover f s).power = s.power := rfl
@[simp] theorem updClover_sec (f : Clover → Clover) (s : State) : (updClover f s).sec = s.sec := rfl
@[simp] theorem updClover_link (f : Clover → Clover) (s : State) : (updClover f s).link = s.link := rfl
@[simp] theorem updClover_queues (f : Clover → Clover) (s : State) : (updClover f s).queues = s.queues := rfl
@[simp] theorem updClover_queueGen (f : Clover → Clover) (s : State) : (updClover f s).queueGen = s.queueGen := rfl
@[simp] theorem updClover_flights (f : Clover → Clover) (s : State) : (updClover f s).flights = s.flights := rfl
@[simp] theorem updClover_nextFlight (f : Clover → Clover) (s : State) : (updClover f s).nextFlight = s.nextFlight := rfl
@[simp] theorem updClover_fences (f : Clover → Clover) (s : State) : (updClover f s).fences = s.fences := rfl
@[simp] theorem updClover_barriers (f : Clover → Clover) (s : State) : (updClover f s).barriers = s.barriers := rfl
@[simp] theorem updClover_mem (f : Clover → Clover) (s : State) : (updClover f s).mem = s.mem := rfl
@[simp] theorem updClover_tables (f : Clover → Clover) (s : State) : (updClover f s).tables = s.tables := rfl
@[simp] theorem updClover_tiles (f : Clover → Clover) (s : State) : (updClover f s).tiles = s.tiles := rfl
@[simp] theorem updClover_sched (f : Clover → Clover) (s : State) : (updClover f s).sched = s.sched := rfl
@[simp] theorem updClover_net (f : Clover → Clover) (s : State) : (updClover f s).net = s.net := rfl
@[simp] theorem updClover_integ (f : Clover → Clover) (s : State) : (updClover f s).integ = s.integ := rfl
@[simp] theorem updClover_tele (f : Clover → Clover) (s : State) : (updClover f s).tele = s.tele := rfl
@[simp] theorem updClover_dbgEn (f : Clover → Clover) (s : State) : (updClover f s).dbgEn = s.dbgEn := rfl
@[simp] theorem updClover_out (f : Clover → Clover) (s : State) : (updClover f s).out = s.out := rfl
@[simp] theorem updClover_clover (f : Clover → Clover) (s : State) :
    (updClover f s).clover = f s.clover := rfl

@[simp] theorem freshFree_pending (s : State) : (freshFree s).2.pending = s.pending := rfl
@[simp] theorem freshFree_freeCtr (s : State) : (freshFree s).2.freeCtr = s.freeCtr + 1 := rfl
@[simp] theorem freshFree_clock (s : State) : (freshFree s).2.clock = s.clock := rfl
@[simp] theorem freshFree_beat (s : State) : (freshFree s).2.beat = s.beat := rfl
@[simp] theorem freshFree_clover (s : State) : (freshFree s).2.clover = s.clover := rfl
@[simp] theorem freshFree_power (s : State) : (freshFree s).2.power = s.power := rfl
@[simp] theorem freshFree_sec (s : State) : (freshFree s).2.sec = s.sec := rfl
@[simp] theorem freshFree_link (s : State) : (freshFree s).2.link = s.link := rfl
@[simp] theorem freshFree_queues (s : State) : (freshFree s).2.queues = s.queues := rfl
@[simp] theorem freshFree_queueGen (s : State) : (freshFree s).2.queueGen = s.queueGen := rfl
@[simp] theorem freshFree_flights (s : State) : (freshFree s).2.flights = s.flights := rfl
@[simp] theorem freshFree_nextFlight (s : State) : (freshFree s).2.nextFlight = s.nextFlight := rfl
@[simp] theorem freshFree_fences (s : State) : (freshFree s).2.fences = s.fences := rfl
@[simp] theorem freshFree_barriers (s : State) : (freshFree s).2.barriers = s.barriers := rfl
@[simp] theorem freshFree_mem (s : State) : (freshFree s).2.mem = s.mem := rfl
@[simp] theorem freshFree_tables (s : State) : (freshFree s).2.tables = s.tables := rfl
@[simp] theorem freshFree_tiles (s : State) : (freshFree s).2.tiles = s.tiles := rfl
@[simp] theorem freshFree_sched (s : State) : (freshFree s).2.sched = s.sched := rfl
@[simp] theorem freshFree_net (s : State) : (freshFree s).2.net = s.net := rfl
@[simp] theorem freshFree_integ (s : State) : (freshFree s).2.integ = s.integ := rfl
@[simp] theorem freshFree_tele (s : State) : (freshFree s).2.tele = s.tele := rfl
@[simp] theorem freshFree_dbgEn (s : State) : (freshFree s).2.dbgEn = s.dbgEn := rfl
@[simp] theorem freshFree_out (s : State) : (freshFree s).2.out = s.out := rfl

@[simp] theorem freshDraw_pending (s : State) : (freshDraw s).2.pending = s.pending := rfl
@[simp] theorem freshDraw_freeCtr (s : State) : (freshDraw s).2.freeCtr = s.freeCtr + 1 := rfl
@[simp] theorem freshDraw_clock (s : State) : (freshDraw s).2.clock = s.clock := rfl
@[simp] theorem freshDraw_beat (s : State) : (freshDraw s).2.beat = s.beat := rfl
@[simp] theorem freshDraw_clover (s : State) : (freshDraw s).2.clover = s.clover := rfl
@[simp] theorem freshDraw_power (s : State) : (freshDraw s).2.power = s.power := rfl
@[simp] theorem freshDraw_sec (s : State) : (freshDraw s).2.sec = s.sec := rfl
@[simp] theorem freshDraw_link (s : State) : (freshDraw s).2.link = s.link := rfl
@[simp] theorem freshDraw_queues (s : State) : (freshDraw s).2.queues = s.queues := rfl
@[simp] theorem freshDraw_queueGen (s : State) : (freshDraw s).2.queueGen = s.queueGen := rfl
@[simp] theorem freshDraw_flights (s : State) : (freshDraw s).2.flights = s.flights := rfl
@[simp] theorem freshDraw_nextFlight (s : State) : (freshDraw s).2.nextFlight = s.nextFlight := rfl
@[simp] theorem freshDraw_fences (s : State) : (freshDraw s).2.fences = s.fences := rfl
@[simp] theorem freshDraw_barriers (s : State) : (freshDraw s).2.barriers = s.barriers := rfl
@[simp] theorem freshDraw_mem (s : State) : (freshDraw s).2.mem = s.mem := rfl
@[simp] theorem freshDraw_tables (s : State) : (freshDraw s).2.tables = s.tables := rfl
@[simp] theorem freshDraw_tiles (s : State) : (freshDraw s).2.tiles = s.tiles := rfl
@[simp] theorem freshDraw_sched (s : State) : (freshDraw s).2.sched = s.sched := rfl
@[simp] theorem freshDraw_net (s : State) : (freshDraw s).2.net = s.net := rfl
@[simp] theorem freshDraw_integ (s : State) : (freshDraw s).2.integ = s.integ := rfl
@[simp] theorem freshDraw_tele (s : State) : (freshDraw s).2.tele = s.tele := rfl
@[simp] theorem freshDraw_dbgEn (s : State) : (freshDraw s).2.dbgEn = s.dbgEn := rfl
@[simp] theorem freshDraw_out (s : State) : (freshDraw s).2.out = s.out := rfl

end Sys2Proof.Machine
end

