-- ==== Sys2Proof/Tests/Slice0.lean ====
section
/-! SUPPORT. The model's own tests: ill-formed commands that the check refuses, small steps against values worked out from
the spec, and for every statement with hypotheses a state and operands that meet them. -/

namespace Sys2Proof.Tests

-- one theorem after the other: many kernel evaluations at once ask for many threads
set_option Elab.async false
open Sys2Proof.Machine

/-! ### Commands that are not well formed -/

def packet0 : Packet := { header := List.replicate 72 0, payload := [], sub := 0, ce := false, tagOk := true, addr := 0, udp := 0 }
def packetBad : Packet := { packet0 with sub := 16 }
def frame0 : Frame := {
  sub := 0, dstMac := 0, group := false, vlan := 0, tags := 0, ipDst := 0, ipOk := true, kind := 2, udpDst := 41870, pcp := 0
  bytes := 100 }
def frameBad : Frame := { frame0 with sub := 16 }
def result0 : TestResult := { columns := [], lane := false, detail := 0, fault := false, margin := 0 }

theorem refused_packet_fields : ({ packet0 with header := [] } : Packet).wf = false ∧
    ({ packet0 with payload := List.replicate 8193 0 } : Packet).wf = false ∧ packet0.wf = true := by decide +kernel

theorem refused_descriptor : StreamDesc.wf { tile := 0, engine := 8, bytes := List.replicate 64 0 } = false ∧
    StreamDesc.wf { tile := 0, engine := 0, bytes := [] } = false ∧
    StreamDesc.wf { tile := 127, engine := 7, bytes := List.replicate 64 0 } = true := by decide

theorem accepted_commands : ∀ i ∈ [
    Instr.ppsEdge, .setvl 127 (.imm 8192), .loop 0 (.imm 3) 8191, .nop 65535, .dataWrite packet0, .junctionLimit 4 105000,
    .frameReceive frame0, .registerWrite 255 0 8 0, .bar 0 63 [31]], i.wf = true := by decide

theorem refused_sub : ∀ i ∈ [
    Instr.ptpMessage 16 0 0 0, .arpRequest 16 0, .neighbourSolicitation 16 0, .portLinkChange 16 false false,
    .packetTransmit 16], i.wf = false := by decide

theorem refused_length : ∀ i ∈ [
    Instr.todMessage [], .cxlMemWrite 0 []], i.wf = false := by decide

theorem refused_func : ∀ i ∈ [
    Instr.tscLowRead 256, .dbgResume 256, .dbgAbort 256, .bar4Read 256 0 0, .bar4Write 256 0 [], .functionLevelReset 256,
    .ideIntegrityFail (some 256), .ideKm (some 256), .tdispRequest 256 0, .msixUnmask 256 0,
    .vendorDefinedRequest 0 0 256 [], .queueEnable 256 0, .queueDisable 256 0, .queueReset 256 0, .sqDb 256 0 0,
    .cqDb 256 0 0, .resumeCompletions 256 0 0 none, .reissue 256 0 0, .clearHalt 256 0 0, .faultqBaseWrite false 256 0,
    .faultqHeadWrite false 256 0, .registerWrite 256 0 4 0], i.wf = false := by decide

theorem refused_n : ∀ i ∈ [
    Instr.cloverWakeFire 4, .cloverTempFire 2 0], i.wf = false := by decide

theorem refused_tile : ∀ i ∈ [
    Instr.instanceStart 128 0 0, .setvl 128 (.imm 0), .vloop 128 0, .vend 128, .loop 128 (.imm 0) 0, .lend 128,
    .sop 128 .add 0 (.imm 0) (.imm 0), .swait 128 0 (.imm 0), .swaitMet 128, .sadv 128 0 (.imm 0),
    .gq 128 0 (.imm 0) (.imm 0), .sdrain 128 0, .sdrainDone 128, .mma 128 (.imm 0), .mwait 128,
    .fsig 128 (.imm 0) (.imm 0), .fwait 128 (.imm 0) (.imm 0), .fwaitMet 128, .bar 128 0 [], .end_ 128, .instanceEnd 128,
    .arith 128 .add false .unmasked 0 0 0 0, .int 128 .add .unmasked 0 0 0, .cmp 128 .eq .unmasked 0 0 0,
    .maskop 128 .and 0 0 0, .cvt 128 (.deriveE8M0 0) .unmasked 0 0, .trans 128 .exp .unmasked 0 0,
    .div 128 false .unmasked 0 0 0, .perm 128 (.permute 0) .unmasked 0 0, .reduce 128 .sum false .unmasked 0 0,
    .ldv 128 .unmasked 0 (.imm 0), .stv 128 .unmasked 0 (.imm 0), .matrixInstanceEnd 128, .guardReplayDone 128,
    .debugHalt 128, .arrayRampDown 128, .durationOverrun 128, .longInstanceCheck 128 0, .checkAgeExpiry 128,
    .quarantineTestDone 128 result0, .testSlotStart 128, .testSlotEnd 128 result0, .scratchpadEccError 128 false,
    .streamResponse 128 0 0 [], .storeAck 128 0 0], i.wf = false := by decide

theorem refused_bodyLen : ∀ i ∈ [
    Instr.vloop 0 8192, .loop 0 (.imm 0) 8192], i.wf = false := by decide

theorem refused_stream : ∀ i ∈ [
    Instr.swait 0 8 (.imm 0), .sadv 0 8 (.imm 0), .gq 0 8 (.imm 0) (.imm 0), .sdrain 0 8], i.wf = false := by decide

theorem refused_members : ∀ i ∈ [
    Instr.bar 0 0 [128]], i.wf = false := by decide

theorem refused_die : ∀ i ∈ [
    Instr.barGroupComplete 4 0, .yarrowBatchDone 0 4 false, .updateMergeDone 0 4, .thermalProtectEntry 4 0, .dieTrip 4 0,
    .yarrowProgress 0 4 0, .junctionLimit 5 0], i.wf = false := by decide

theorem refused_duplicateTile : ∀ i ∈ [
    Instr.longInstanceCheck 0 128], i.wf = false := by decide

theorem refused_engine : ∀ i ∈ [
    Instr.streamResponse 0 8 0 [], .storeAck 0 8 0], i.wf = false := by decide

theorem refused_context : ∀ i ∈ [
    Instr.channelRequest 65536 (0, 0) false 0 0 [] [] false false false, .retireContextDrained 65536], i.wf = false := by decide

theorem refused_channel : ∀ i ∈ [
    Instr.channelServe 256 0, .guardWindowStart 256, .refresh 256, .retrainDone 256 false, .scrubRead 256 [] [],
    .scrubPriorityTimeout 256], i.wf = false := by decide

theorem refused_stack : ∀ i ∈ [
    Instr.zeroFillDone 16, .mapoutStart 16, .mapoutFrameStaged 16 0, .mapoutFrameWritten 16 0], i.wf = false := by decide

theorem refused_slot : ∀ i ∈ [
    Instr.mapoutFrameStaged 0 2, .mapoutFrameWritten 0 2], i.wf = false := by decide

theorem refused_transport : ∀ i ∈ [
    Instr.getVersion 3, .getCapabilities 3, .negotiateAlgorithms 3 false, .getDigests 3, .getCertificate 3 0 0 0,
    .challenge 3 [], .getMeasurements 3 0 [], .keyExchange 3 [], .finish 3 0 false, .heartbeat 3 0, .keyUpdate 3 0,
    .endSession 3 0, .vendorDefinedRequest 3 0 0 []], i.wf = false := by decide

theorem refused_local_queue : ∀ i ∈ [
    Instr.queueEnable 0 65536, .queueDisable 0 65536, .queueReset 0 65536, .sqDb 0 65536 0, .cqDb 0 65536 0,
    .resumeCompletions 0 65536 0 none, .reissue 0 65536 0, .clearHalt 0 65536 0], i.wf = false := by decide

theorem refused_queue : ∀ i ∈ [
    Instr.queueResetDone 65536, .slotFetch 65536 [], .slotReread 65536 [], .fenceTimeout 65536 0, .waitMapTimeout 65536,
    .deadlineExpiry 65536, .nop 65536, .fenceWait 65536, .fenceSignal 65536, .barrier 65536, .marker 65536, .copyH2d 65536,
    .copyD2h 65536, .copyD2d 65536, .copyNet 65536, .launchKernel 65536 [], .launchGraph 65536, .streamRearm 65536,
    .tableCreate 65536, .tableLoad 65536 [], .tablePrepare 65536, .tableCommit 65536, .tableRetire 65536, .gather 65536,
    .updateApply 65536, .publishRows 65536, .extentMap 65536, .extentUnmap 65536, .retireContext 65536, .windowOpen 65536,
    .windowClose 65536, .configStage 65536, .configArm 65536, .partitionSet 65536, .classSet 65536, .regulatorSet 65536,
    .powerSet 65536, .beatSet 65536, .samplingSet 65536, .testRun 65536, .checkStatus 65536, .monitorArm 65536,
    .monitorRead 65536, .recorderArm 65536, .recorderStop 65536, .query 65536, .groupJoin 65536, .groupLeave 65536,
    .groupState 65536, .attest 65536, .keyDomainCreate 65536, .keyDomainErase 65536, .flowKey 65536], i.wf = false := by decide

theorem refused_gen : ∀ i ∈ [
    Instr.resumeCompletions 0 0 65536 none, .reissue 0 0 65536, .clearHalt 0 0 65536], i.wf = false := by decide

theorem refused_streams : ∀ i ∈ [
    Instr.launchKernel 0 [{ tile := 128, engine := 0, bytes := List.replicate 64 0 }],
    .graphNodeDispatch 0 0 [{ tile := 128, engine := 0, bytes := List.replicate 64 0 }]], i.wf = false := by decide

theorem refused_part : ∀ i ∈ [
    Instr.collectionClose 16, .updateMergeDone 16 0, .applyWindowStart 16, .applyWindowEnd 16, .regulatorRefill 16 0 0], i.wf = false := by decide

theorem refused_frame : ∀ i ∈ [
    Instr.frameReceive frameBad], i.wf = false := by decide

theorem refused_port : ∀ i ∈ [
    Instr.pfcFrame 4 0, .portModeWrite 4 0], i.wf = false := by decide

theorem refused_peer : ∀ i ∈ [
    Instr.rtoExpiry 65535 0, .ackTimer 65535, .configNackResend 65535 0], i.wf = false := by decide

theorem refused_packet : ∀ i ∈ [
    Instr.dataWrite packetBad, .dataReadReq packetBad, .dataReadResp packetBad, .send packetBad, .atomicAddF32 packetBad,
    .checkClear packetBad, .retract packetBad, .beatSync packetBad, .joinReq packetBad, .joinAccept packetBad,
    .joinRefuse packetBad, .configPush packetBad, .memberUp packetBad, .leave packetBad, .groupMismatch packetBad,
    .versionQuery packetBad, .versionReply packetBad, .ack packetBad, .nack packetBad], i.wf = false := by decide

theorem refused_table : ∀ i ∈ [
    Instr.versionReplyTimeout 4096], i.wf = false := by decide

theorem refused_size : ∀ i ∈ [
    Instr.registerWrite 0 0 5 0], i.wf = false := by decide

/-! ### Small states -/

def part0 : Part := {
  first := 0, sixteenths := 4, expert := true, share := 4096, lcPercent := 0, qmap := List.replicate 64 0, carry := false
  resizing := false, budget := 0, avail := 0, reserve := 0, lcUsed := 0, debt := 0, held := false, charged := 0
  total := {}, beat := {}, lcHeld := 0, estLow := 0, durOver := 0, sampling := 0, regs := [], skipped := 0 }

/-- Firmware runs, the host link is up, and partition 0 holds die 0. -/
def live : State := { State.reset with
  power := { State.reset.power with ready := true }
  link := { State.reset.link with
    up := true
    cxl := true }
  sched := { State.reset.sched with parts := [(0, part0)] } }

def slotOf (op : Nat) (fields : List (Nat × Nat × Nat)) : List Byte := patch (rec_ 256 fields) 0 (le 4 1 ++ le 2 op)
def cmdOf (op : Nat) (fields : List (Nat × Nat × Nat)) : Cmd :=
  { seq := 1, bytes := slotOf op fields, fetched := 0, covered := 0, origin := none }
def readyOf (op : Nat) (fields : List (Nat × Nat × Nat)) : Ready := {
  since := 0, charge := 1, sampling := 0, deadline := 0, admitted := true, lc := false, hold := false, kernel := false, tiles := 0
  durUs := 0, slot := slotOf op fields, expert := [], mats := [], part := 0 }
def queueOf (op : Nat) (fields : List (Nat × Nat × Nat)) : Queue :=
  { life := .enabled, prod := 1, sqHead := 1, fetched := [cmdOf op fields], ready := some (readyOf op fields) }
/-- Queue 0 holds a command of the opcode, ready and admitted. -/
def holding (s : State) (op : Nat) (fields : List (Nat × Nat × Nat)) : State := { s with queues := [(0, queueOf op fields)] }

def owner0 : Owner := { owner := 0, keyDomain := 1, partition := 0, ownerW := true, shares := [], hdm := true }
def extent0 : Extent := {
  context := 0, read := true, write := true, shared := false, hostVis := false, vaFrame := 0, lenFrames := 1, paFrame := 0
  keyDomain := 1, owner := 0, mapBeat := 0 }
/-- Context 0 has its first frame mapped. -/
def mapped : State := { live with
  clock := { live.clock with lock := .locked }
  sec := { live.sec with keyDomains := [(1, 7)] }
  mem := { live.mem with
    owners := [(0, owner0)]
    extents := [(0, extent0)]
    zeroed := [(0, 7)] } }

def ver (n : Nat) (st : VState) : VSlot := { version := n, st := st, slabBytes := 1024, ownerRows := 16, recBytes := 64 }
def table0 : Table := {
  partition := 0, context := 0, colgroup := 0xFFFF, rows := 16, elems := 16, format := 0, rowScale := 0, zpEn := false
  block := 32, gsize := 1, slice := 0, hotShift := 0, nullCount := 0, opt := 1, discard := false, granule := false
  vtarget := false, cutoff := 0, paramAddr := 4096, cur := ver 1 .current, pend := ver 2 .loading, retir := ver 0 .empty
  destroy := false, destroyFence := none, unserved := false }
def tabled : State := { mapped with tables := { mapped.tables with tab := [(0, table0)] } }
def prepared : State := { mapped with tables := { mapped.tables with tab := [(0, { table0 with pend := ver 2 .prepared })] } }
def monitor0 : Monitor := {
  kind := 0, index := 0, owner := none, context := 0, buffer := 0, beats := 1, active := true, w := 1, startBeat := 0
  partialW := false, degraded := false, sat := false, count := 0, sum := 0, min := 0, max := 0, bins := [], closed := none
  disarm := false }

def run0 : Run := {
  flight := 0, inst := 0, role := .primary, start := 0, check := none, lc := false, durationUs := 1, overrun := false, meter := 0
  hold := false, outs := [], nibs := [], hists := [], guardBits := [], fences := [] }
def kern0 : Kernel := {
  program := 0, progBytes := 0, instances := 2, next := 1, again := [], ended := 0, tileMask := 0xFF, sregs := [], energyUj := 1
  durationUs := 1, flagsAddr := 0, shape := 0, descs := [], spad := 0, pin := false, noPreload := false, level := true, flags := 0
  hists := [], histScale := [], hbufs := [], mma := [], cls := false, lcReady := 0, streams := [], started := true }
def flightOf (w : Work) : Flight :=
  { newFlight live (headReq live 0 (cmdOf 0x200 [])) (cmdOf 0x200 []) 1 false true with work := w }
def kflight : Flight := flightOf (.kernel kern0)
def stream0 : Stream := {
  kind := 0, path := 0, persistent := false, waitMap := false, signalEn := false, rowBytes := 64, rows := 2, stride := 64
  spadOff := 0, ring := 0, fence := 0, fenceVal := 0, base := 0, context := 0, queue := 0, flight := 0, inUse := true, segs := []
  ready := 64, pos := 0, acked := 0, pend := [], idx := [], gqCount := 0, complete := false }
def busy : Tile := { run := some run0 }
/-- Tile 3 of a die runs instance 0 of a kernel. -/
def onTile (t : Tile) : State := { live with
  tiles := [(3, t)]
  flights := [kflight]
  nextFlight := 1 }
def matrixOf (b : List Byte) : Matrix := {
  desc := 0, bytes := b, halted := false, resumed := false, chunks := 0, runPos := 0, replay := false, held := []
  ended := false }
/-- A matrix descriptor with debug halt at chunk 0 of one (04 R102, R103). -/
def haltDesc : List Byte := rec_ 256 [(0, 4, 2 ^ 22), (12, 4, 1), (62, 2, 0)]

def linked (q : HostReq) : State := { mapped with link := { mapped.link with hostReqs := [q] } }
def hostReq0 : HostReq := { id := 1, write := false, addr := 4096, len := 64, flight := 0, dest := some 0 }
def flow0 : Flow := {
  addr := some (1, 41870)
  tx := some { phase := 0, key := [], salt := [], high := none, seen := [] }
  rx := [{ phase := 0, key := [], salt := [], high := none, seen := [] }] }
def ported : State := { live with net := { live.net with
  ports := [(0, { subEn := 15, pfcEn := true, pfcMask := 255 })]
  subs := [(0, { linkUp := true, pcs := true })]
  flows := [(0x10, flow0)] } }
def packetOf (ty : Nat) : Packet := { packet0 with header := rec_ 72 [(0, 1, 1), (1, 1, ty)] }

/-! ### Small steps against values worked out outside the model -/

/-- The check value of CRC-16/CCITT-FALSE over "123456789" (the catalogue of CRC algorithms). -/
theorem test_crc16 : crc16 [49, 50, 51, 52, 53, 54, 55, 56, 57] = 0x29B1 := by decide +kernel
/-- The check value of CRC-32C (RFC 3720's Castagnoli polynomial). -/
theorem test_crc32c : crc32c [49, 50, 51, 52, 53, 54, 55, 56, 57] = 0xE3069283 := by decide +kernel
/-- The check value of CRC-64/ECMA-182. -/
theorem test_crc64 : crc64 [49, 50, 51, 52, 53, 54, 55, 56, 57] = 0x6C40DF5F0B497347 := by decide +kernel
/-- FIPS 180-4's example: SHA-256 of "abc" begins BA 78 16 BF and ends F2 00 15 AD. -/
theorem test_sha256 : (sha256 [0x61, 0x62, 0x63]).take 4 = [0xBA, 0x78, 0x16, 0xBF] ∧
    (sha256 [0x61, 0x62, 0x63]).drop 28 = [0xF2, 0x00, 0x15, 0xAD] := by decide +kernel

/-- 03's FP4 row: byte 0xB7 under the block scale 0x7C expands to BF16 0x3F40 and 0xBE40. -/
theorem test_fp4_row : (fmtBf16.pack (expand 8 0x7 (decodeE8m0 0x7C)).1).1 = 0x3F40 ∧
    (fmtBf16.pack (expand 8 0xB (decodeE8m0 0x7C)).1).1 = 0xBE40 := by decide +kernel
/-- 03's rescale: 5,003.0 with MULT 1,717,986,918, SHIFT 37 and zero point −3 gives the INT8 code 60. -/
theorem test_rescale : (rescale 5 false 1717986918 37 (-3) (ofInt 5003)).code = 60 := by decide +kernel
/-- 03's guard: 35.0 in FP8 E4M3 has the scale code 0x7C, with which it converts to 280; 20.0 has 2^−4. -/
theorem test_derived_scale : derive 3 .e8m0 (ofInt 35) = (0x7C, false) ∧ derive 3 .e8m0 (ofInt 20) = (0x7B, false) ∧
    eqF (decodeEl 3 (convScaled 3 true false (ofInt 35) (decodeE8m0 0x7C)).code) (ofInt 288) = true := by decide +kernel
/-- 04's chunks: 2^25, 3 and −2^25 give 4 in FP32 (33,554,435 rounds to 33,554,436). -/
theorem test_accumulate : (fmtFp32.pack (([2 ^ 25, 3, -2 ^ 25].foldl (fun t v => addTotal false t (ofInt v, 0)) {}).hi)).1 =
    (fmtFp32.pack (ofInt 4)).1 := by decide +kernel

/-- 00's stamp: 1,000,000,123,000 ns with a period of 250 µs lies in beat 4,000,000. -/
theorem test_beat_number : beatNo { live with clock := { live.clock with tsc := 1000000123000 } } = 4000000 := by decide +kernel
/-- 02's change of period: old beat 4,000,000 becomes 5,000,000. -/
theorem test_renumbered_beat : convBeat 250000 200000 1000000000000 4000000 = 5000000 := by decide +kernel
/-- 08's offset 100,000,000: channel 12, and channel 4 once channel 2 is mapped out. -/
theorem test_channel_of_offset : chanOf live 100000000 = 12 ∧
    chanOf { live with mem := { live.mem with hbm := [(0, { out := some 2 })] } } 100000000 = 4 := by decide +kernel

/-- 09's extent: 64 MiB at virtual 0x40_0000_0000, backed from frame 2,179,172. -/
def translated : State := { live with mem := { live.mem with
  extents := [(0, { extent0 with context := 0x4012, vaFrame := 0x4000000000 / 2 ^ 21, lenFrames := 32, paFrame := 2179172 })] } }
theorem test_translation : (segments translated 0x4012 0x4001234560 64).map (·.pa) = [0x4280DA34560] ∧
    chanOf translated 0x4280DA34560 = 6 * 16 + 8 ∧ stackOff 0x4280DA34560 = 228803936 := by decide +kernel

/-- 12's partition: four sixteenths of die 1 at 89 °C, a limit of 1,800 W, 86,000 µJ measured for the device. -/
def budgeted : State := { live with
  tele := { live.tele with hot := [(1, 89000)] }
  sched := { live.sched with
    limitW := 1800
    parts := [(1, { part0 with first := 4, share := 1024, sampling := 1, lcPercent := 60, debt := 1200 })] } }
theorem test_budget : energyPart budgeted 86000 = 359500 ∧
    (findPart budgeted 1).map (budgetOf budgeted 359500 1) = some 78640 ∧
    (findPart budgeted 1).map (fun w => ((openBudget 78640 w).reserve, (openBudget 78640 w).avail)) = some (47184, 77440) := by
  decide +kernel
/-- 12's charges of kernels A (128 × 150) and B (320 × 100) under 1/32 sampling at step 2. -/
theorem test_kernel_charge : (findPart budgeted 1).map (fun w => (
    kernelCharge budgeted w (slotOf 0x200 [(224, 4, 150), (76, 4, 128)]),
    kernelCharge budgeted w (slotOf 0x200 [(224, 4, 100), (76, 4, 320)]))) =
    some (19800, 33000) := by decide +kernel

/-- 05's strips: a VL of 300 makes three; lane 43 of the last is active and lane 44 a tail lane. -/
theorem test_strips : vStrips { busy with vl := 300 } = 3 ∧ active { busy with vl := 300 } .unmasked 2 43 = true ∧
    active { busy with vl := 300 } .unmasked 2 44 = false := by decide +kernel
/-- IEEE 754 binary32: 1 + 2^−24 is a tie and stays 1; 1/3 rounds to 0x3EAAAAAB; √2 to 0x3FB504F3. -/
theorem test_fp32_rounding : (fmtFp32.pack (addF (f32 0x3F800000) (f32 0x33800000)).1).1 = 0x3F800000 ∧
    (fmtFp32.pack (divF (ofInt 1) (ofInt 3)).1).1 = 0x3EAAAAAB ∧ (fmtFp32.pack (sqrtF (ofInt 2)).1).1 = 0x3FB504F3 := by decide +kernel
/-- 07's apply: 0.5 − 0.0625 × 1.5 = 0.40625, BF16 0x3ED0, under SGD with no decay. -/
theorem test_sgd : ((optimise table0 0 77 0 (parseParams (rec_ 64 [(0, 4, 0x3D800000)])) fOne fOne [f32 0x3F000000] [f32 0x3FC00000] {}).1.map
    fun v => (fmtBf16.pack v).1) = [0x3ED0] := by decide +kernel

/-! ### What the hypotheses of the statements ask, met -/

theorem witness_StepRunsFrontCommand : ({ live with pending := [.ppsEdge] } : State).pending = Instr.ppsEdge :: [] := by decide +kernel

theorem witness_EmptyQueueOnlyTicks : State.reset.pending = [] ∧
    ({ live with power := { live.power with rails := .none_ } } : State).power.rails = .none_ := by decide +kernel

theorem witness_QueueIsFirstInFirstOut : ∃ t, step { live with pending := [.ppsEdge, .holdover] } = .next t := ⟨_, rfl⟩

theorem witness_MemoryFormKept : Memory.wf { live.mem with cells := [(5, 1), (9, 2)] } ∧ ∃ t, step live = .next t :=
  ⟨by decide, ⟨_, rfl⟩⟩

theorem witness_ReadAfterWrite : cellsWf [(5, 1), (9, 2)] ∧ cellGet (cellsPut [(5, 1), (9, 2)] 8 [0, 0, 7]) 9 = 0 ∧
    cellGet (cellsPut [(5, 1), (9, 2)] 8 [0, 0, 7]) 10 = 7 ∧ cellGet (cellsPut [(5, 1), (9, 2)] 8 [0, 0, 7]) 5 = 1 := by decide +kernel

/-- A clock that follows source 1 or 2, for a state of the clock. -/
def clocked (src : U32) (c : Clock) : State := { live with clock := { c with ctrl := src } }
def todBytes : List Byte := rec_ 14 [(0, 2, 0x3CC3), (2, 1, 1), (3, 8, 5), (11, 2, 37), (13, 1, 1)]

theorem witness_TimeMeasurements :
    (ctlSource (clocked 1 {}) = 1 ∧ ctlPort (clocked 1 {}) = 0 ∧ ctlDomain (clocked 1 {}) = 0 ∧ ctlTransport (clocked 1 {}) = 0) ∧
    (ctlSource (clocked 2 {}) = 2 ∧ (0 : Nat) + 100000000 ≤ now (clocked 2 { tsc := 100000000 }) ∧
      now (clocked 2 { tsc := 900000000 }) ≤ 0 + 900000000) ∧
    ((todBytes ++ [0, 0]).length = 16 ∧ num (todBytes ++ [0, 0]) 0 2 = 0x3CC3 ∧ num (todBytes ++ [0, 0]) 2 1 = 1 ∧
      crc16 ((todBytes ++ [0, 0]).take 14) ≠ num (todBytes ++ [0, 0]) 14 2) ∧
    crc16 ((todBytes ++ le 2 (crc16 todBytes)).take 14) = num (todBytes ++ le 2 (crc16 todBytes)) 14 2 ∧
    (clocked 1 { lock := .degraded }).clock.lock ≠ .unlocked ∧ live.clock.lock = .unlocked ∧
    2 ≤ ({ live with net := { live.net with group := { gstate := 2 } } } : State).net.group.gstate := by decide +kernel

theorem witness_TimeOutputs : ppsOutEn (clocked 65536 {}) = true ∧ bits live.power.modPps.toNat 31 16 = 0 := by decide +kernel

theorem witness_MeasurementRules : correctionOf false false 5000000 (-1000001) = (6000001, .none, true) ∧
    correctionOf false true 5 1000001 = (5, .slew 1000001, false) ∧ correctionOf false false 5 1000001 = (5, .halfRate 1000001, false) ∧
    (2000 : Nat) < (2001 : Int).natAbs ∧ (250 : Int).natAbs ≤ 250 ∧ 250 < (-2000 : Int).natAbs := by decide +kernel

def cloverOf (ctrl : U32) : State := { live with clover := { live.clover with ctrl := ctrl } }
theorem witness_ComparatorsFire : cloverArmed (cloverOf 0xFF) 0 = true ∧ cloverArmed (cloverOf 0xFF) 3 = true ∧
    cloverArmed (cloverOf 0xFF) 5 = true ∧ (cloverOf 0xFF).clover.temp1 ≤ 95 ∧ cloverArmed (cloverOf 0xFF) 6 = true ∧
    179 < (cloverOf 0xFF).clover.supply ∧ cloverArmed (cloverOf 0xFF) 7 = true ∧ Reachable live := by decide +kernel

def beatOf (b : Beat) : State := { live with beat := b }
theorem witness_BeatRows : Working live ∧ switchFirst live (nextEdge live) = false ∧
    ((beatOf { edge := some 0, paused := true }).beat.edge = some 0 ∧ (beatOf { edge := some 0, paused := true }).beat.paused = true) ∧
    (beatOf { edge := some 0, inHead := true }).beat.inHead = true ∧
    (beatOf { switch := some { at_ := 0, periodUs := 200, headUs := 10 } }).beat.switch = some { at_ := 0, periodUs := 200, headUs := 10 } ∧
    (0 : Nat) ≤ nextEdge (beatOf { switch := some { at_ := 0, periodUs := 200, headUs := 10 } }) := by decide +kernel

/-- The example of R47: old beat 4,000,000 of 250 µs is new beat 5,000,000 of 200 µs. -/
theorem witness_ConvertedBeatIsFirst : (0 : Nat) < 200000 ∧ 1000000000000 ≤ 4000000 * 250000 ∧
    convBeat 250000 200000 1000000000000 4000000 = 5000000 := by decide +kernel

theorem witness_BudgetOfABeat : (sixteenthsView live 0 part0).2 ≠ 0 ∧ viewShare live 0 part0 ≤ max 4096 (sumShares live) ∧
    part0.carry = false ∧ ({ part0 with carry := true } : Part).carry = true ∧ 0 ≤ part0.avail ∧ part0.debt = 0 := by decide +kernel

theorem witness_SequencerRows : Issues (onTile { busy with streams := [(1, stream0)] }) 3 ∧
    findStream (getTile (onTile { busy with streams := [(1, stream0)] }) 3) 1 = some stream0 ∧
    findStream (getTile (onTile busy) 3) 7 = none := by decide +kernel

theorem witness_SetvlRule : Issues (onTile busy) 3 ∧ sval busy (.imm 0) = 0 ∧ sval busy (.imm 8193) = 8193 ∧
    sval busy (.imm 8192) = 8192 ∧ busy.vloop = none := by decide +kernel

theorem witness_LoopRows : Issues (onTile busy) 3 ∧ busy.vloop = none ∧ vStrips busy ≠ 0 ∧
    vStrips { busy with vlZero := true } = 0 ∧ ({ busy with vloop := some { body := 1, strip := 0, strips := 1 } } : Tile).vloop.isSome = true ∧
    busy.loops.length < 8 ∧ sval busy (.imm (2 ^ 32)) % 2 ^ 32 = 0 ∧ sval busy (.imm 1) % 2 ^ 32 ≠ 0 ∧
    8 ≤ (List.replicate 8 ({ body := 0, left := 1 } : Loop)).length := by decide +kernel

/-- Each clause of WaitRows on a tile that meets it. -/
theorem witness_WaitRows : Issues (onTile { busy with streams := [(7, stream0)] }) 3 ∧
    findStream (getTile (onTile { busy with streams := [(7, stream0)] }) 3) 7 = some stream0 ∧
    fenceOwner (onTile busy) (sval busy (.imm 65535) % 2 ^ 18) = runPart (onTile busy) 3 ∧
    fenceOwner (onTile busy) (sval busy (.imm 65536) % 2 ^ 18) ≠ runPart (onTile busy) 3 ∧ findStream busy 0 = none ∧
    swaitReady { busy with stall := .swait 7 64, streams := [(7, stream0)] } = true ∧ sdrainReady { busy with stall := .sdrain 2 } = true ∧
    (getTile (onTile { busy with stall := .fwait 5 0 0 }) 3).stall = .fwait 5 0 0 ∧ 0 ≤ fenceVal live 5 := by decide +kernel

def unacked : Stream := { stream0 with
  kind := 1
  pend := [{ pos := 0, bytes := [1] }] }
theorem witness_FenceAndBarrierRows : storesDone (onTile { busy with streams := [(4, unacked)] }) 3 = false ∧
    isPrimary { busy with run := some { run0 with role := .duplicate } } = false ∧ run0.hold = false ∧ Issues (onTile busy) 3 ∧ storesDone (onTile busy) 3 = true ∧ isPrimary (getTile (onTile busy) 3) = true ∧
    fenceOwner (onTile busy) (sval (getTile (onTile busy) 3) (.imm 65535) % 2 ^ 18) = runPart (onTile busy) 3 ∧
    barFull { onTile { busy with stall := .bar 63 } with barriers := [(63, ([3], [3]))] } (0 * 64 + 63) = true := by decide +kernel

theorem witness_FenceOnlyRises : fenceVal { live with fences := [(5, 2 ^ 64 - 1)] } 5 < 2 ^ 64 ∧ (6 : Nat) ≠ 5 := by decide +kernel

theorem witness_VectorRows : Issues (onTile busy) 3 := by decide +kernel

theorem witness_LanesOfAWrite : active { busy with vl := 1 } .unmasked 0 0 = true ∧ active { busy with vl := 1 } (.zero 7) 0 127 = false ∧
    active { busy with mask := [(7, 2)] } (.merge 7) (curStrip busy) 0 = false ∧ (200 : Nat) / 128 ≠ (Fin.val (5 : Fin 32)) ∧
    mergeFlag busy (.merge 7) = 0 := by decide +kernel

def matTile (m : Matrix) : State := { onTile { busy with matrix := some m } with dbgEn := 1 }
theorem witness_MatrixRows :
    ((getTile (onTile busy) 3).run = some run0 ∧ (getTile (onTile busy) 3).stall = .none_ ∧ matrixBusy (getTile (onTile busy) 3) = false ∧
      kernelOf (onTile busy) 0 = some (kflight, kern0)) ∧
    (matrixAt (matTile (matrixOf (zeros 256))) 3 = some (run0, kflight, kern0, matrixOf (zeros 256)) ∧
      mayHalt (matTile (matrixOf (zeros 256))) run0 kflight kern0 (matrixOf (zeros 256)) = false) ∧
    matrixAt (matTile { matrixOf (zeros 256) with replay := true }) 3 =
      some (run0, kflight, kern0, { matrixOf (zeros 256) with replay := true }) ∧
    (matrixAt (matTile (matrixOf haltDesc)) 3 = some (run0, kflight, kern0, matrixOf haltDesc) ∧
      mayHalt (matTile (matrixOf haltDesc)) run0 kflight kern0 (matrixOf haltDesc) = true) ∧
    haltedTile { matTile { matrixOf haltDesc with halted := true } with link := { live.link with funcs := [(0, { dbgTile := 3 })] } } 0 =
      some (3, run0) := by decide +kernel

theorem witness_InstanceRows : kernelOf (onTile busy) 0 = some (kflight, kern0) ∧ kflight.done = none ∧
    ((onTile busy).integ.checks.find? fun c => c.2.flight = 0 && c.2.inst = 1 && checkWants (onTile busy) 4 c.2) = none ∧
    ((getTile (onTile { busy with stall := .ending }) 3).stall = .ending ∧ storesDone (onTile { busy with stall := .ending }) 3 = true) ∧
    kernelOver kflight { kern0 with next := 2, ended := 2 } = true ∧
    (findFlight (onTile busy) 0 = some kflight ∧ run0.overrun = false ∧ run0.start + run0.durationUs * 1000 < 1001) ∧
    run0.start + 4000000 ≤ now { onTile busy with clock := { live.clock with tsc := 4000000 } } := by decide +kernel

/-- A check whose duplicate has not started, and a long run that an array could check (the last two clauses). -/
def dupCheck : Check := {
  part := 0, flight := 0, inst := 1, reason := 0, start := 0, beat := 0, startEdge := 0, primary := 5, dup := none, third := none
  ends := [], st := .pending, resolved := 0, resolvedEdge := 0, inPlace := false, dupFirst := false }
def checked : State := { onTile busy with integ := { live.integ with checks := [(1, dupCheck)] } }
theorem witness_InstanceRows_checks :
    (checked.integ.checks.find? fun c => c.2.flight = 0 && c.2.inst = 1 && checkWants checked 4 c.2) = some (1, dupCheck) ∧
    arrayFree checked kern0.shape 4 = true ∧ kern0.tileMask.testBit 3 = true := by decide +kernel

theorem witness_InstanceRows_long :
    let u := addCheck kflight run0.inst 3 3 false false (onTile busy)
    let s2 := setCheck u.1 (fun x => { x with start := run0.start }) (updTile 3 (fun w => { w with run := some { run0 with check := some u.1 } }) u.2)
    (smFind s2.integ.checks u.1).any (fun x => (dupArrays s2 x kern0).contains 4) = true := by decide +kernel

def chanReq0 : ChanReq := {
  id := 0, context := some 0, write := true, pa := 0, bytes := zeros 64, nibbles := [], len := 64, cls := .beWrite, teasel := false
  who := .command 0 1, partition := 0, arrived := 0, stream := 0, mode := 0 }
def chanOf0 (c : Channel) : State := { live with mem := { live.mem with channels := [(0, c)] } }
def readReq0 : ChanReq := { chanReq0 with
  write := false
  cls := .beRead }
def backReq0 : ChanReq := { readReq0 with cls := .background }
def scrubReq0 : ChanReq := { backReq0 with
  who := .scrub
  context := none }
def writeBack0 : ChanReq := { scrubReq0 with write := true }
def queued (r : ChanReq) : State := chanOf0 { queue := [r] }
theorem witness_ChannelRows : Working live ∧ (stackDead live (stackOf chanReq0.pa) = false ∧ admits mapped 0 true (frameOf chanReq0.pa) = true ∧
      stagedFrame live readReq0.pa = false) ∧
    (∀ r ∈ [chanReq0, readReq0, backReq0, scrubReq0, writeBack0], pickReq (queued r) 0 = some r ∧
      (getChan (queued r) 0).st = .active ∧ r.teasel = false) ∧
    (isScrub scrubReq0 = true ∧ isWriteBack writeBack0 = true ∧ chanReq0.who ≠ .scrub ∧ backReq0.cls = .background ∧
      readReq0.cls ≠ .background) ∧
    (getChan live 255).st = .active ∧ live.beat.inHead = false ∧ (getChan (chanOf0 { st := .retraining }) 0).st = .retraining ∧
    ((chanPa live 254 (2048 * live.tele.scrubPos)).isSome = true ∧ (getChan live 254).st ≠ .mappedOut ∧ stackDead live (254 / 16) = false) ∧
    (getChan (queued scrubReq0) 0).queue.find? isScrub = some scrubReq0 := by decide +kernel

def stackOf0 (x : Stack) : State := { live with mem := { live.mem with hbm := [(0, x)] } }
/-- Slot 1 holds a frame of stack 0. -/
def staging (f : Nat) (p : SlotPhase) : State := { live with mem := { live.mem with
  hbm := [(0, { phase := .moving })]
  stage := [(1, { stack := 0, frame := f, phase := p })] } }
theorem witness_MapOutRows : Working live ∧ candidateOf (chanOf0 { candidate := true }) 0 = some 0 ∧
    ((256 : BitVec 32).toNat.testBit 8 = true ∧ (getChan (chanOf0 { candidate := true }) 0).candidate = true ∧
      (getStack (chanOf0 { candidate := true }) 0).out = none ∧ ownedFrom (chanOf0 { candidate := true }) 0 38400 = []) ∧
    Machine.slotOf (staging 5 .reading) 0 1 .reading = some { stack := 0, frame := 5, phase := .reading } ∧
    (Machine.slotOf (staging 5 .staged) 0 1 .staged = some { stack := 0, frame := 5, phase := .staged } ∧
      writesNext (staging 5 .staged) { stack := 0, frame := 5, phase := .staged } = true ∧
      writesNext (staging 5 .staged) { stack := 0, frame := 4, phase := .staged } = false) ∧
    (Machine.slotOf (staging 0 .staged) 0 1 .staged = some { stack := 0, frame := 0, phase := .staged } ∧
      writesNext (staging 0 .staged) { stack := 0, frame := 0, phase := .staged } = true) ∧
    (∀ i, i < 16 → (getChan (staging 0 .staged) (0 * 16 + i)).queue = []) ∧
    (getStack (stackOf0 { phase := .zeroFill }) 0).phase = .zeroFill := by decide +kernel

theorem witness_StreamRows : findStream (getTile (onTile { busy with streams := [(7, stream0)] }) 3) 7 = some stream0 ∧
    tileFlight (onTile { busy with streams := [(7, stream0)] }) 3 = some kflight ∧ stream0.kind = 0 ∧
    runAt (onTile { busy with streams := [(4, { stream0 with kind := 1, pend := [{ pos := 0, bytes := [1] }] })] }) 3 = some 3 ∧
    findStream { busy with streams := [(4, { stream0 with kind := 1, pend := [{ pos := 0, bytes := [1] }] })] } 4 =
      some { stream0 with kind := 1, pend := [{ pos := 0, bytes := [1] }] } ∧
    findStream { busy with streams := [(6, { stream0 with kind := 2 })] } 6 = some { stream0 with kind := 2 } := by decide +kernel

theorem witness_PerstRule : live.power.rails = .on ∧ live.power.state ≠ .s3 ∧ live.link.perstMode = false ∧ live.link.up = true ∧
    State.reset.link.up = false ∧ ({ live.link with perstMode := true } : Link).perstMode = true := by decide +kernel

def waiting : State := { live with link := { live.link with biWaits := [{ line := 9, inv := true, since := 0, host := none }] } }
def down : State := { live with link := { live.link with up := false } }
theorem witness_LinkAndHostMemoryRows : live.link.up = true ∧ (1 : Nat) < 2 ∧
    waiting.link.biWaits.find? (fun b => b.line = 9) = some { line := 9, inv := true, since := 0, host := none } ∧
    down.link.up = false ∧ down.link.hostReqs = [] ∧ down.power.rails = .on ∧ down.power.state ≠ .s3 ∧ (6 : Nat) < 7 ∧ findReq (linked hostReq0) 1 = some hostReq0 ∧ hostReq0.write = false ∧
    findReq (linked { hostReq0 with dest := none }) 1 = some { hostReq0 with dest := none } ∧
    findReq (linked { hostReq0 with write := true }) 1 = some { hostReq0 with write := true } := by decide +kernel

/-- Map-out reads frame 0 of stack 0, whose writes wait. -/
def heldFrame : State := staging 0 .reading
theorem witness_HostAccessRows : Reachable mapped ∧ mapped.link.cxl = true ∧ hdmOk mapped (dpaPa (64 / 64 * 64)) = true ∧
    (1280 * 2 ^ 30 ≤ 1280 * 2 ^ 30 ∨ hdmOk live (dpaPa 0) = false) ∧
    writeHeld mapped [{ off := 0, pa := 0, len := 64 }] = false ∧ writeHeld heldFrame [{ off := 0, pa := 0, len := 64 }] = true ∧ hdmOk live (dpaPa 0) = false ∧
    waiting.link.biWaits.find? (fun b => b.line = 9) = some { line := 9, inv := true, since := 0, host := none } := by decide +kernel

def fullSet : State := { live with link := { live.link with
  snoop := [(3, (List.range 16).map fun i => some (3 + 262144 * (i + 1), false))] } }
theorem witness_FullSetEvicts : snoopFind fullSet 3 = none ∧ (snoopWays fullSet 3).length = 16 ∧
    (snoopWays fullSet 3)[smGet fullSet.link.snoopPtr 0 (snoopSet 3)]? = some (262147, false) ∧
    (fullSet.link.biWaits.any fun b => b.line == 262147) = false ∧
    (fullSet.link.biWaits.find? fun b => b.line = 262147) = none := by decide +kernel

def funcOf (f : Func) : State := { live with
  link := { live.link with
    funcs := [(255, f)]
    linkIde := true }
  sec := { live.sec with spdmSessions := [(0, [(0, true, 0)])] } }
theorem witness_FunctionRows : Reachable live ∧ (255 : Nat) < 256 ∧ (getFunc (funcOf { ideSecure := true }) 255).ideSecure = true ∧
    (funcOf {}).link.linkIde = true ∧ sessionUp (funcOf {}) = true ∧ (getFunc (funcOf {}) 255).tdi = .unlocked ∧
    (getFunc (funcOf { tdi := .locked }) 255).tdi = .locked ∧ (2047 : Nat) < vecCount 0 ∧ (63 : Nat) < vecCount 255 ∧
    barUnbound live 0 = false := by decide +kernel

def spdmOf (stage : Nat) (ss : List (Nat × Bool × Nat)) : State := { live with sec := { live.sec with
  fwStart := some 0
  spdmStage := [(2, stage)]
  spdmSessions := [(2, ss)] } }
theorem witness_SpdmRows : spdmHeard (spdmOf 3 []) 2 = true ∧ spdmRefused (spdmOf 3 []) = false ∧
    (spdmHeard live 1 = true ∧ spdmRefused live = true) ∧ spdmStage (spdmOf 3 []) 2 = 3 ∧ spdmStage (spdmOf 2 []) 2 < 3 ∧
    (measurement (spdmOf 3 []) 2).isSome = true ∧ funcPart (spdmOf 3 []) 0 = some 0 ∧
    freeSession (sessionsOf (spdmOf 3 []) 2) = some 0 ∧ hasSession (spdmOf 3 [(7, false, 0)]) 2 7 false = true ∧
    hasSession (spdmOf 3 [(7, true, 0)]) 2 7 true = true := by decide +kernel

theorem witness_PldmRows : sideOn live = true ∧ sensorReads { live with power := { live.power with state := .s3 } } 0x110 = false ∧
    ({ live with sec := { live.sec with recovery := true } } : State).sec.recovery = true ∧ live.power.state ≠ .s3 ∧ live.sec.recovery = false ∧ sensorList[1 - 1]? = some 0 ∧
    sensorDefined 0x110 = true ∧ sensorReads live 0x104 = true := by decide +kernel

theorem witness_ConsumerDoorbell : Reachable live ∧ barDead live 0 = false ∧ localQueue live 0 255 = some 255 ∧
    bits (5 : BitVec 64).toNat 47 32 = (getQueue live 255).gen ∧
    (getQueue { live with queues := [(255, { life := .enabled })] } 255).life = .enabled ∧ live.power.state = .s0 ∧
    ahead 5 0 < 2 ^ 31 ∧ 2 ^ 31 ≤ ahead 0 1 := by decide +kernel

theorem witness_DoorbellRows : localQueue live 0 0 = some 0 ∧ (getQueue (holding live 0 []) 0).life = .enabled ∧
    bits (0 : BitVec 64).toNat 47 32 = (getQueue (holding live 0 []) 0).gen ∧ (getQueue (holding live 0 []) 0).shadowRing = [] ∧
    ((1 : Nat) ≠ (getQueue live 0).gen ∨ (getQueue live 0).life ≠ .enabled) ∧
    ({ queueOf 0 [] with netFed := true } : Queue).netFed = true := by decide +kernel

theorem witness_QueueLifeRows : (getQueue mapped 0).life = .disabled ∧ ringsOk mapped 0 = true ∧ ringsOk live 0 = false ∧
    queueState { live with queues := [(0, { life := .enabled })] } 0 = 1 ∧ (getQueue live 0).life ≠ .resetting ∧
    queueDrained { live with queues := [(0, { life := .resetting })] } 0 = true := by decide +kernel

def fetching (w : Queue) : State := { live with queues := [(0, { w with
  life := .enabled
  sqHost := true
  prod := 1 })] }
theorem witness_FetchRows : mayFetch (fetching {}) 0 = true ∧ slice (slotOf 0 []) 0 256 = slotOf 0 [] ∧
    slotValid (getQueue (fetching {}) 0) (slotOf 0 []) = true ∧ slotValid (getQueue (fetching {}) 0) (zeros 256) = false ∧
    mayFetch { fetching {} with queues := [(0, { life := .enabled, prod := 1 })] } 0 = true ∧ (getQueue (fetching { rereads := some (7, 0) }) 0).rereads = some (7, 0) ∧ mayFetch (fetching { rereads := some (6, 0) }) 0 = true := by
  decide +kernel

/-- The head waits for fence 0 to reach 1. -/
def fenced : State := { live with queues := [(0, { queueOf 0 [(8, 4, 2 ^ 31), (16, 8, 1)] with
  ready := none
  waitFence := some 0
  waitMap := some 0 })] }
def dated : State := { mapped with queues := [(0, { queueOf 0 [(56, 8, 1000)] with ready := none })] }
theorem witness_TimerRows : Working live ∧ (getQueue fenced 0).fetched = cmdOf 0 [(8, 4, 2 ^ 31), (16, 8, 1)] :: [] ∧
    (getQueue fenced 0).waitFence = some 0 ∧ headUnmet fenced 0 = true ∧ (getQueue fenced 0).waitMap = some 0 ∧
    (getQueue dated 0).fetched = cmdOf 0 [(56, 8, 1000)] :: [] ∧ hDeadline (cmdOf 0 [(56, 8, 1000)]).bytes ≠ 0 ∧
    dated.clock.lock ≠ .unlocked ∧ (getQueue dated 0).ready = none := by decide +kernel

/-- A head of the opcode is ready and admitted, and its own check passes. -/
abbrev Passes (s : State) (op : Nat) (fields : List (Nat × Nat × Nat)) (own : State → Req → Verdict) : Prop :=
  HeadReady (holding s op fields) 0 op (cmdOf op fields) (readyOf op fields) ∧
  own (holding s op fields) (readyReq (holding s op fields) 0 (cmdOf op fields) (readyOf op fields)) = .ok

theorem witness_DispatchedState : HeadReady (holding live 0 []) 0 0 (cmdOf 0 []) (readyOf 0 []) := by decide +kernel

theorem witness_WorkDispatchRows_1 : Passes live 0x7FF [] noCheck ∧
    opDefined 0x7FF = false := by decide +kernel
theorem witness_WorkDispatchRows_2 : Passes live 1 [] noCheck ∧
    Passes live 2 [] noCheck := by decide +kernel
theorem witness_WorkDispatchRows_3 : Passes live 3 [] noCheck ∧
    Passes live 4 [] noCheck := by decide +kernel
theorem witness_WorkDispatchRows_4 : Passes mapped 0x100 [(96, 4, 64)] ownH2d ∧
    Passes mapped 0x101 [(96, 4, 64)] ownD2h := by decide +kernel
theorem witness_WorkDispatchRows_5 : Passes mapped 0x102 [] ownD2d ∧
    Passes mapped 0x103 [] ownNet := by decide +kernel

theorem witness_WorkDispatchRows_net : (findFlight (dispatched (holding mapped 0x103 []) 0 (cmdOf 0x103 []) (readyOf 0x103 []))
    mapped.nextFlight).isSome = true := by decide +kernel

theorem witness_WorkDispatchRows_kernels_1 : Passes mapped 0x200 [] (ownLaunch []) ∧
    Passes mapped 0x201 [] ownGraph := by decide +kernel
theorem witness_WorkDispatchRows_kernels_2 : Passes mapped 0x202 [] ownRearm ∧
    Passes tabled 0x305 [(112, 4, 4096), (76, 4, 1), (80, 8, 0)] ownGather := by decide +kernel
theorem witness_WorkDispatchRows_kernels_3 : Passes tabled 0x306 [] ownUpdate ∧
    Passes tabled 0x307 [] ownPublish := by decide +kernel

theorem witness_TableDispatchRows_1 : Passes mapped 0x300 [] ownCreate ∧
    Passes tabled 0x301 [(66, 2, 2)] ownLoad := by decide +kernel
theorem witness_TableDispatchRows_2 : Passes tabled 0x302 [(66, 2, 2)] ownPrepare ∧
    Passes prepared 0x303 [(66, 2, 2)] ownCommit := by decide +kernel
theorem witness_TableDispatchRows_3 : Passes tabled 0x304 [(66, 2, 2)] ownRetire ∧
    Passes mapped 0x400 [(72, 8, 4194304), (80, 8, 2097152), (90, 1, 3), (92, 2, 1)] ownMap := by decide +kernel
theorem witness_TableDispatchRows_4 : Passes live 0x401 [(80, 8, 2097152)] ownUnmap ∧
    Passes live 0x402 [] noCheck := by decide +kernel
theorem witness_TableDispatchRows_5 : Passes mapped 0x403 [] ownWindow ∧
    Passes live 0x404 [] noCheck := by decide +kernel

theorem witness_ConfigDispatchRows_1 : Passes live 0x500 [] ownStage ∧
    Passes live 0x501 [] ownArm := by decide +kernel
theorem witness_ConfigDispatchRows_2 : Passes live 0x502 [] (fun s r => setFree s (toDevice r)) ∧
    Passes live 0x502 [] (fun s r => (psQmap s r).1) := by decide +kernel
theorem witness_ConfigDispatchRows_3 : Passes live 0x503 [] (fun s r => setFree s (r.part.getD devSet)) ∧
    Passes live 0x503 [] (fun s r => need (csQueue s r).isSome stQueueNotOwned) := by decide +kernel
theorem witness_ConfigDispatchRows_4 : Passes live 0x504 [] (fun s r => setFree s (toDevice r)) ∧
    Passes live 0x505 [] (fun s r => setFree s (toDevice r)) := by decide +kernel
theorem witness_ConfigDispatchRows_5 : Passes live 0x506 [] (fun s r => setFree s (toDevice r)) ∧
    Passes live 0x600 [] (fun s r => setFree s (setOf r)) := by decide +kernel

theorem witness_ConfigDispatchRows_rest_1 : Passes mapped 0x601 [] ownTest ∧
    Passes { mapped with integ := { mapped.integ with nextSeq := 2 } } 0x602 [(72, 8, 1)] ownCheckStatus := by decide +kernel
theorem witness_ConfigDispatchRows_rest_2 : Passes mapped 0x700 [] ownMonArm ∧
    Passes { mapped with tele := { mapped.tele with monitors := [monitor0] } } 0x701 [] ownMonRead := by decide +kernel
theorem witness_ConfigDispatchRows_rest_3 : Passes mapped 0x702 [] ownRecArm ∧
    Passes live 0x703 [] noCheck := by decide +kernel
theorem witness_ConfigDispatchRows_rest_4 : Passes mapped 0x704 [] ownQuery := by decide +kernel

theorem witness_SecurityDispatchRows : HeadReady (holding live 0x801 []) 0 0x801 (cmdOf 0x801 []) (readyOf 0x801 []) ∧
    isMember { live with net := { live.net with group := { gstate := 2 } } } = true := by decide +kernel
theorem witness_SecurityDispatchRows_report : Passes mapped 0x802 [] (fun s r => resultOk s r (pAddr r.slot 72) 192) ∧
    Passes mapped 0x900 [] ownAttest := by decide +kernel
theorem witness_SecurityDispatchRows_keys : Passes live 0x901 [] (fun s r => need (smGet s.sec.keyDomains 0 (kdOf r) = 0) 1) ∧
    Passes live 0x903 [] ownFlowKey := by decide +kernel
theorem witness_SecurityDispatchRows_destroy :
    Passes { live with sec := { live.sec with keyDomains := [(1, 7)] } } 0x902 [(64, 2, 1)] (fun s r =>
      need (smGet s.sec.keyDomains 0 (kdOf r) != 0 && !(s.mem.extents.any fun e => e.2.keyDomain == kdOf r)) 1) := by decide +kernel

theorem witness_HeldHeadWaits : (getQueue { holding live 0 [] with beat := {} } 0).fetched.head? = some (cmdOf 0 []) ∧
    mayDispatch { holding live 0 [] with power := { live.power with entering := true } } 0 (cmdOf 0 []).bytes = false := by decide +kernel

def gather0 : Gather := {
  features := [], bags := 1, keys := [(0, []), (1, [])], work := [0, 0], workBytes := 64, pfence := 0, clamped := false, done := []
  reran := [], fetched := [], held := false, echoAddr := 0, begun := [1] }
def gflight : Flight := flightOf (.gather gather0)
def gathering : State := { live with flights := [gflight] }
def graph0 : Graph := { nodes := 2, addr := 0, started := [], starts := [], ended := [], failed := none, cur := [] }
def graphing : State := { live with flights := [flightOf (.graph graph0)] }
theorem witness_ContinuationRows : findFlight graphing 0 = some (flightOf (.graph graph0)) ∧
    nodeReady graph0 1 (parseNode 1 (zeros 64)) = true ∧ nodeMustWait graphing (flightOf (.graph graph0)) 0 = false ∧
    (retiringCtx { live with mem := { live.mem with retiring := [{ context := 65535, flight := none }] } } 65535 = true ∧
      drained live 65535 none = true) ∧
    yarrowRunning gathering 0 1 = true ∧ findFlight gathering 0 = some gflight ∧
    ({ gather0 with reran := [1] } : Gather).reran.contains 1 = true ∧ gather0.reran.contains 1 = false ∧
    (let q : Nat × List Nat × List Nat × Nat := (3, [1], [], 0)
     ([q].find? fun x => x.1 = q.1) = some q ∧ q.2.1 ≠ [] ∧ q.2.2.2 + 2 ≤ 2) := by decide +kernel

theorem witness_ApplyBeatRule : beatNo live = 0 ∧ 249999 < (0 + 1) * beatNs live - 0 * 1000 ∧ (0 + 1) * beatNs live - 0 * 1000 ≤ 250000 := by
  decide +kernel

def tablesOf (x : Tables) : State := { live with tables := x }
theorem witness_UpdateRows : (findPart live 0).isSome = true ∧ live.tables.closed.contains (0, beatNo live + 1) = false ∧
    mergeBeat (tablesOf { closed := [(0, 1)] }) 0 0 = some 1 ∧ yarrowBusy (tablesOf { closed := [(0, 1)] }) 0 0 = false ∧
    yarrowBusy gathering 0 1 = true ∧ 0 < (partDies part0).length ∧
    windowBeat (tablesOf { closed := [(0, 0)], merged := [(0, 0, 0)] }) 0 = some 0 ∧
    smFind (tablesOf { windows := [(0, { beat := 0, tables := [], overrun := false })] }).tables.windows 0 =
      some { beat := 0, tables := [], overrun := false } := by decide +kernel

def msg0 : TxMsg := {
  mseq := 4, type := 1, header := zeros 72, payload := [], sent := 0, segs := 1, size := 4096, lc := false, flight := none
  nackCfg := none, resendAt := none, source := 0, port := none, part := none, mem := none, formed := 0 }
def flowOf (f : Flow) : State := { ported with net := { ported.net with flows := [(0x10, f)] } }
theorem witness_NetworkRows : subUp ported 0 = true ∧ portsOn ported = true ∧
    pickFlow (flowOf { flow0 with txMsgs := [{ msg0 with type := tyGroup }] }) 0 0 = some (0x10, { msg0 with type := tyGroup }) ∧
    (pickFlow (flowOf { flow0 with txMsgs := [{ msg0 with lc := true }] }) 0 0 = none ∧
      pickFlow (flowOf { flow0 with txMsgs := [{ msg0 with lc := true }] }) 0 1 = some (0x10, { msg0 with lc := true })) ∧
    (pickFlow (flowOf { flow0 with txMsgs := [msg0] }) 0 1 = none ∧ pickFlow (flowOf { flow0 with txMsgs := [msg0] }) 0 2 = some (0x10, msg0)) ∧
    findFlow (flowOf { flow0 with ackDue := some (1, 5) }) 0x10 = some { flow0 with ackDue := some (1, 5) } ∧ findFlow (flowOf flow0) 0x10 = some flow0 ∧ ported.net.retryMax ≤ 10 ∧ 9 < ported.net.retryMax ∧
    ([{ msg0 with resendAt := some 9 }].find? fun m => m.mseq = 4 && m.resendAt.isSome) = some { msg0 with resendAt := some 9 } ∧
    ({ msg0 with nackCfg := some 0 } : TxMsg).nackCfg.getD 0 + 2 ≤ 2 ∧ 1 < ({ msg0 with nackCfg := some 0 } : TxMsg).nackCfg.getD 0 + 2 ∧
    subIpv4 ported 0 = false ∧ subIpv4 { ported with net := { ported.net with subs := [(0, { mac := 2 ^ 60 })] } } 0 = true ∧
    (getPort ported 0).pfcEn = true ∧ loopback ported (15 / 4) = false ∧
    loopback { ported with flights := [{ flightOf (.test [0x203] [] 0 0) with slot := patch (zeros 256) 65 [1] }] } (15 / 4) = true ∧ ((getSub ported 15).linkUp ≠ true ∨ (getSub ported 15).pcs ≠ false) := by decide +kernel

theorem witness_NetworkRows_frames : portsOn ported = true ∧ frameAccepted ported { frame0 with ipOk := true } = true ∧
    frameAccepted ported { frame0 with tags := 2 } = false ∧ frameAccepted ported { frame0 with kind := 1 } = true ∧
    ((getPort ported 0).pfcEn = true ∨ rxHeld (getPort ported 0) + 100 ≤ rxBufferBytes) ∧
    rxBufferBytes < rxHeld (getPort ported 0) + (rxBufferBytes + 1) := by decide +kernel

def packetFrom (ty : Nat) : Packet := { packetOf ty with header := rec_ 72 [(0, 1, 1), (1, 1, ty), (4, 2, 0x10)] }
theorem witness_PacketRows : (∀ ty ∈ [tyAck, tyNack, tyWrite, tyReadReq, tyReadResp, tySend, tyAtomic, tyClear, tyRetract, tyBeatSync],
      Arrives ported (packetFrom ty) ∧ pType (packetFrom ty) = ty) ∧
    (∀ k ∈ List.range 9, ofGroup k { packet0 with header := rec_ 72 [(0, 1, 1), (1, 1, tyGroup), (4, 2, 0x10), (56, 1, k)] } = true) ∧
    authentic ported { packetFrom tyWrite with tagOk := false } = false := by decide +kernel

theorem witness_DetectorRows : smGet live.integ.flitFails 0 3 < 2 ∧ 2 ≤ smGet [(3, 2)] 0 3 ∧ live.sec.trngFails = 0 ∧
    1 ≤ ({ live.sec with trngFails := 1 } : Sec).trngFails ∧ live.power.moduleFault = none := by decide +kernel

def calibrating (n : Nat) : State := { live with integ := { live.integ with calib := [(0, [n])] } }
theorem witness_TestRows : (getTile (onTile { withdrawn := some .quarantine }) 3).withdrawn = some .quarantine ∧
    ({} : Tile).returning = false ∧ ({} : Tile).widthNext = none ∧
    (slotMayStart (calibrating 3) 3 = true ∧ slotFor (calibrating 3) 3 = some .calibration) ∧
    (getTile (onTile { withdrawn := some .selfTest }) 3).withdrawn = some .selfTest ∧ result0.fault = false ∧
    (getTile live 127).retired = false := by decide +kernel

def event0 : Event := { stamp := 0, device := 0, source := 0, sseq := 0, degraded := true, code := evMarker, part := 255, data := [] }
theorem witness_TelemetryRows : bootEvent evMarker = false ∧ ({ live.tele with events := [event0] } : Tele).events = event0 :: [] ∧
    live.tele.armed = false ∧ sensorReads live 0x110 = true ∧ sensorReads live 0x200 = false ∧ sensorDefined 0x110 = true := by decide +kernel

theorem witness_ResetRows : Reachable live ∧ ({ live.power with rails := .none_ } : Power).rails = .none_ ∧
    (State.reset.power.ready = false ∧ State.reset.sec.recovery = false ∧ State.reset.power.rails = .on ∧ State.reset.power.state = .s0 ∧
      State.reset.sec.preferred ≠ 1 ∧ State.reset.sec.minSvn ≤ 0) ∧
    (({ live.sec with fwStart := some 0, manifestMinSvn := 1 } : Sec).minSvn < 1 ∧ live.power.moduleFault = none ∧ live.sec.svnTried = false) ∧
    ({ live.sec with unlockNonce := some 4 } : Sec).unlockNonce = some 4 := by decide +kernel

def stateOf (p : Power) : State := { live with power := p }
theorem witness_PowerStateRows : hostReach live = true ∧ hostReach (stateOf { live.power with state := .s1 }) = true ∧ moduleIdle live = true ∧
    moduleIdle (onTile busy) = false ∧ (Working live ∧ live.power.entering = false ∧
      ({ live.power with autoS1 := true } : Power).autoS1 = true) ∧
    (entryDrained (stateOf { live.power with entering := true, target := .s3 }) = true ∧
      (stateOf { live.power with entering := true, target := .s2 }).power.target = .s2) ∧
    (stateOf { live.power with state := .s2, waking := true }).power.waking = true := by decide +kernel

theorem witness_SupplyAndHeatRows : live.power.rails = .on ∧ ((175 : Nat) < 176 ∨ 228 < 175) ∧ (228 : Nat) < 229 ∧
    (stateOf { live.power with rails := .uvOff }).power.rails = .uvOff ∧ Working live ∧ protect live 3 = false ∧
    (110000 : Int) ≤ 110000 ∧ (stateOf { live.power with rails := .hubOff }).power.rails = .hubOff ∧ (84999 : Int) < 85000 := by decide +kernel

def bound : State := { live with sched := { live.sched with parts := [(0, { part0 with qmap := 0 :: List.replicate 63 255 })] } }
theorem witness_RegisterRows : Reachable live ∧ barDead live 255 = false ∧ Reachable bound ∧ barDead bound 255 = false ∧
    barUnbound bound 255 = false ∧ barUnbound live 255 = true ∧ ((5 : Nat) ≠ 4 ∧ (5 : Nat) ≠ 8) ∧ (6 : Nat) % 4 ≠ 0 ∧
    findPart live 0 = some part0 ∧ hostReach State.reset = false := by decide +kernel

end Sys2Proof.Tests
end

/-! PROOFS. Writes and reads of the module's registers and rings, and the regulators' refill (O60). -/

namespace Sys2Proof.Machine

/-! ### Host accesses without a host -/

theorem hostAccess_of_not_hostReach {s : State} (h : hostReach s = false) (act : State → State) : hostAccess act s = s := by
  simp [hostAccess, h]

/-- Every row that is one host access leaves the state alone where the host reaches nothing; the write of TARGET 0 has the same
guard of its own. -/
theorem powerWrite_of_not_hostReach {s : State} (h : hostReach s = false) :
    ∀ i ∈ [Instr.coldReset, .warmReset true, .pwrTargetS1, .pwrTargetS2, .pwrTargetS3, .pwrTargetS0], exec i s = .next s := by
  have access (act : State → State) : (.next (hostAccess act s) : Res) = .next s := by rw [hostAccess_of_not_hostReach h]
  have target0 : execPwrTargetS0 s = .next s := by rw [execPwrTargetS0, h, doWhen_false]
  simp only [List.forall_mem_cons, List.not_mem_nil, false_imp_iff, implies_true, and_true]
  exact ⟨access _, access _, access _, access _, access _, target0⟩

/-! ### Accesses to BAR0 -/

/-- The physical function's BAR answers whatever its queues. -/
theorem barUnbound_zero (s : State) : barUnbound s 0 = false := rfl

/-- The guard of a function that does not answer. -/
theorem barSilent_iff (s : State) (f : Nat) :
    (decide (255 < f) || barDead s f || barUnbound s f) = true ↔ 255 < f ∨ barDead s f = true ∨ barUnbound s f = true := by
  simp [or_assoc]

/-- Another size than 4 or 8 bytes, or an offset not aligned to the size (R346). -/
abbrev BadAccess (off size : Nat) : Prop := (size ≠ 4 ∧ size ≠ 8) ∨ off % size ≠ 0

theorem badAccess_guard {off size : Nat} (h : BadAccess off size) :
    (!(size == 4 || size == 8) || off % size != 0 || decide (2 ^ 24 ≤ off)) = true := by
  rcases h with ⟨h4, h8⟩ | hoff
  · simp [h4, h8]
  · simp [hoff]

theorem regWrite_of_badAccess {off size : Nat} (h : BadAccess off size) (f v : Nat) (s : State) : regWrite f off size v s = s := by
  rw [regWrite, if_pos (badAccess_guard h)]

theorem regRead_of_badAccess {off size : Nat} (h : BadAccess off size) (s : State) (f : Nat) : regRead s f off size = 0 := by
  simp only [regRead, badAccess_guard h, if_true, ite_self]

theorem regRead_of_silent {s : State} {f : Nat} (h : 255 < f ∨ barDead s f = true ∨ barUnbound s f = true) (off size : Nat) :
    regRead s f off size = 0 := by
  rw [regRead, if_pos ((barSilent_iff s f).2 h)]

/-! ### Register writes of the host -/

theorem exec_registerWrite (f off size : Nat) (v : BitVec 64) (s : State) :
    exec (.registerWrite f off size v) s = execRegisterWrite f off size v s := rfl

theorem registerWrite_of_silent {s : State} (hr : Reachable s) {f : Nat} (h : 255 < f ∨ barDead s f = true ∨ barUnbound s f = true)
    (off size : Nat) (v : BitVec 64) : exec (.registerWrite f off size v) s = .next s := by
  rw [exec_registerWrite, execRegisterWrite, hostAccess_of_reachable hr, if_pos ((barSilent_iff s f).2 h)]

/-- A write to a function that answers; to a virtual one it sets VF Enable (log 33). -/
theorem registerWrite_of_answers {s : State} (hr : Reachable s) {f : Nat} (h : ¬ (255 < f ∨ barDead s f = true ∨ barUnbound s f = true))
    (off size : Nat) (v : BitVec 64) : exec (.registerWrite f off size v) s =
      .next (regWrite f off size v.toNat (if f = 0 then s else { s with link := { s.link with vfEnable := true } })) := by
  rw [exec_registerWrite, execRegisterWrite, hostAccess_of_reachable hr, if_neg (mt (barSilent_iff s f).1 h)]
  rfl

theorem registerWrite_zero {s : State} (hr : Reachable s) (off size : Nat) (v : BitVec 64) :
    exec (.registerWrite 0 off size v) s = .next (if barDead s 0 = true then s else regWrite 0 off size v.toNat s) := by
  by_cases hd : barDead s 0 = true
  · rw [registerWrite_of_silent hr (.inr (.inl hd)), if_pos hd]
  · rw [registerWrite_of_answers hr (by simp [hd, barUnbound_zero]), if_neg hd, if_pos rfl]

theorem registerWrite_virtual {s : State} (hr : Reachable s) {f : Nat} (h0 : f ≠ 0) (hf : f < 256) (hd : barDead s f = false)
    (hu : barUnbound s f = false) (off size : Nat) (v : BitVec 64) : exec (.registerWrite f off size v) s =
      .next (regWrite f off size v.toNat { s with link := { s.link with vfEnable := true } }) := by
  have answers : ¬ (255 < f ∨ barDead s f = true ∨ barUnbound s f = true) := by simp [hd, hu]; omega
  rw [registerWrite_of_answers hr answers, if_neg h0]

/-! ### Rings and scheduler control -/

theorem schedCtrlWrite_of_reachable {s : State} (hr : Reachable s) (v : BitVec 32) :
    exec (.schedCtrlWrite v) s = .next { s with sched := { s.sched with ctrlNext := some v } } :=
  congrArg _ (hostAccess_of_reachable hr _)

theorem billBaseWrite_of_reachable {s : State} (hr : Reachable s) (v : BitVec 64) : exec (.billBaseWrite v) s =
    .next { s with mem := { s.mem with bill := ringBaseWrite s none v.toNat s.mem.bill } } :=
  congrArg _ (hostAccess_of_reachable hr _)

theorem billHeadWrite_of_reachable {s : State} (hr : Reachable s) (v : BitVec 32) : exec (.billHeadWrite v) s =
    .next { s with mem := { s.mem with bill := { s.mem.bill with head := ringHead s.mem.bill v.toNat } } } :=
  congrArg _ (hostAccess_of_reachable hr _)

/-- A host access to a function's BAR that is not dead acts. -/
theorem hostAccess_live {s : State} (hr : Reachable s) {f : Nat} (hd : barDead s f = false) (act : State → State) :
    hostAccess (fun s => if barDead s f then s else act s) s = act s := by
  simp [hostAccess_of_reachable hr, hd]

theorem faultqBaseWrite_of_reachable {s : State} (hr : Reachable s) {f : Nat} (hd : barDead s f = false) (o : Bool) (v : BitVec 64) :
    exec (.faultqBaseWrite o f v) s = .next (faultqBase o f v.toNat s) := congrArg _ (hostAccess_live hr hd _)

theorem faultqHeadWrite_of_reachable {s : State} (hr : Reachable s) {f : Nat} (hd : barDead s f = false) (o : Bool) (v : BitVec 32) :
    exec (.faultqHeadWrite o f v) s = .next (faultqHead o f v.toNat s) := congrArg _ (hostAccess_live hr hd _)

/-! ### Token buckets -/

theorem updPart_of_findPart {s : State} {p : Nat} {w : Part} (h : findPart s p = some w) (g : Part → Part) :
    updPart p g s = { s with sched := { s.sched with parts := smSet s.sched.parts p (g w) } } := by
  simp only [updPart, h]

theorem regulatorRefill_of_findPart {s : State} {p res : Nat} {w : Part} (hres : res < 4) (h : findPart s p = some w) (ns : Nat) :
    exec (.regulatorRefill p res ns) s = .next { s with sched := { s.sched with parts := smSet s.sched.parts p { w with
      regs := smSet w.regs res (bucketRefill ns (bucketOf w res)) } } } := by
  change execRegulatorRefill p res ns s = _
  rw [execRegulatorRefill, decide_eq_true hres, doWhen_true, updPart_of_findPart h]

/-- Settles O60: each row is one host access, which the functions that answer take; the refill is one update of its bucket. -/
theorem registerRows : Obligations.RegisterRows := by
  intro s
  refine ⟨registerWrite_zero, ?virtual, ?silent, ?bad, schedCtrlWrite_of_reachable, ?faultq, billBaseWrite_of_reachable,
    billHeadWrite_of_reachable, ?refill, powerWrite_of_not_hostReach⟩
  case virtual => exact fun hr f off size v h0 hf hd hu => ⟨_, rfl, registerWrite_virtual hr h0 hf hd hu off size v⟩
  case silent => exact fun hr f off size v h => ⟨registerWrite_of_silent hr h off size v, regRead_of_silent h off size⟩
  case bad => exact fun f off size v h => ⟨regWrite_of_badAccess h f v s, regRead_of_badAccess h s f⟩
  case faultq =>
    exact fun hr o f v hd => ⟨faultqBaseWrite_of_reachable hr hd o v, faultqHeadWrite_of_reachable hr hd o⟩
  case refill => exact fun p res ns w hres h => ⟨_, regulatorRefill_of_findPart hres h ns, rfl⟩

end Sys2Proof.Machine

/-! PROOFS. Fences raised by a run and barrier groups (O20). -/

namespace Sys2Proof.Machine

/-! ### FSIG -/

theorem exec_fsig {s : State} {tile : Nat} (hi : Issues s tile) (fe v : SOp) : exec (.fsig tile fe v) s =
    doWhen (storesDone s tile) (updTile tile nextPc
      (if isPrimary (getTile s tile) && fenceOwner s (sval (getTile s tile) fe % 2 ^ 18) == runPart s tile then
        runFence tile (sval (getTile s tile) fe % 2 ^ 18) (sval (getTile s tile) v) s else s)) s := by
  change execFsig tile fe v s = _
  simp only [execFsig, issues_of_issues hi, Bool.true_and]

/-- A run's store still on its way holds FSIG back (R24). -/
theorem fsig_of_stores_pending {s : State} {tile : Nat} (hi : Issues s tile) (hp : storesDone s tile = false) (fe v : SOp) :
    exec (.fsig tile fe v) s = .next s := by
  rw [exec_fsig hi, hp, doWhen_false]

theorem fsig_raises {s : State} {tile : Nat} (hi : Issues s tile) (hd : storesDone s tile = true) {fe : SOp} (v : SOp)
    (primary : isPrimary (getTile s tile) = true) (own : fenceOwner s (sval (getTile s tile) fe % 2 ^ 18) = runPart s tile) :
    exec (.fsig tile fe v) s = .next (updTile tile nextPc
      (runFence tile (sval (getTile s tile) fe % 2 ^ 18) (sval (getTile s tile) v) s)) := by
  have guard : (isPrimary (getTile s tile) && fenceOwner s (sval (getTile s tile) fe % 2 ^ 18) == runPart s tile) = true := by
    rw [primary, own, beq_self_eq_true, Bool.true_and]
  rw [exec_fsig hi, hd, doWhen_true, if_pos guard]

/-- A duplicate or a third run goes on and raises nothing (R407). -/
theorem fsig_of_not_primary {s : State} {tile : Nat} (hi : Issues s tile) (hd : storesDone s tile = true)
    (copy : isPrimary (getTile s tile) = false) (fe v : SOp) : exec (.fsig tile fe v) s = .next (updTile tile nextPc s) := by
  rw [exec_fsig hi, hd, doWhen_true, copy, Bool.false_and, if_neg Bool.false_ne_true]

/-- With no run that holds its stores, the fence is raised at once. -/
theorem runFence_of_not_held {s : State} {tile : Nat}
    (free : ∀ u r, runAt s tile = some u → (getTile s u).run = some r → r.hold = false) (f v : Nat) :
    runFence tile f v s = fenceRaise false f v s := by
  cases place : runAt s tile with
  | none => simp only [runFence, place, Option.bind_none]
  | some u =>
    cases run : (getTile s u).run with
    | none => simp only [runFence, place, run, Option.bind_some, Option.map_none]
    | some r => simp only [runFence, place, run, Option.bind_some, Option.map_some, free u r place run, Bool.false_eq_true, if_false]

/-! ### BAR -/

theorem bar_joins {s : State} {tile : Nat} (hi : Issues s tile) (g : Fin 64) (ms : List Nat) : exec (.bar tile g ms) s =
    .next { updTile tile (fun t => { t with stall := .bar g.val }) s with
      barriers := smSet s.barriers (barKey tile g ms)
        ((smGet s.barriers (ms, []) (barKey tile g ms)).1, (smGet s.barriers (ms, []) (barKey tile g ms)).2 ++ [tile]) } := by
  change execBar tile g ms s = _
  rw [execBar, issues_of_issues hi, doWhen_true]

theorem barGroupComplete_of_barFull {s : State} {die : Nat} {g : Fin 64} (full : barFull s (die * 64 + g.val) = true) :
    exec (.barGroupComplete die g) s =
      .next ((smGet s.barriers ([], []) (die * 64 + g.val)).2.eraseDups.foldl (fun s t => updTile t (fun w =>
        if w.stall == .bar g.val then proceed w else w) s) { s with barriers := smDel s.barriers (die * 64 + g.val) }) := by
  change execBarGroupComplete die g s = _
  rw [execBarGroupComplete, full, doWhen_true]

/-- Settles O20: FSIG by the cases of its guard, a fence by whether the run's stores are held, and the rows of a barrier group. -/
theorem fenceAndBarrierRows : Obligations.FenceAndBarrierRows := by
  intro s tile
  refine ⟨?raises, ?waits, fun f v free => runFence_of_not_held free f v, bar_joins, fun _ _ => barGroupComplete_of_barFull⟩
  case raises => exact fun hi hd fe v primary own => fsig_raises hi hd v primary own
  case waits =>
    exact fun hi fe v => ⟨fun hp => fsig_of_stores_pending hi hp fe v, fun hd copy => ⟨_, fsig_of_not_primary hi hd copy fe v, rfl⟩⟩

end Sys2Proof.Machine

/-! PROOFS. Network time, Clover's comparators and the rows of the beat (O6, O8 to O13). -/

namespace Sys2Proof.Machine

/-! ### Reset -/

theorem getQueue_reset (q : Nat) : getQueue State.reset q = {} := rfl
theorem getTile_reset (t : Nat) : getTile State.reset t = {} := rfl
theorem getChan_reset (c : Nat) : getChan State.reset c = {} := rfl
theorem getPort_reset (p : Nat) : getPort State.reset p = {} := rfl
theorem fenceVal_reset (f : Nat) : fenceVal State.reset f = 0 := rfl
theorem findPart_reset (p : Nat) : findPart State.reset p = none := rfl
theorem windows_reset (w : Nat) : smFind State.reset.mem.windows w = none := rfl
theorem owners_reset (i : Nat) : smFind State.reset.mem.owners i = none := rfl

/-- Settles O6: what the sparse maps of the reset state do not list is at its default; the other fields are read off. -/
theorem resetValues : Obligations.ResetValues := by
  simp only [Obligations.ResetValues, getQueue_reset, getTile_reset, getChan_reset, getPort_reset, fenceVal_reset, findPart_reset,
    windows_reset, owners_reset, forall_const]
  decide

/-! ### Rounding up -/

theorem ceilDiv_le_iff {n : Nat} (hn : 0 < n) (a c : Nat) : ceilDiv a n ≤ c ↔ a ≤ c * n := by
  rw [ceilDiv, Nat.div_le_iff_le_mul hn]; omega

theorem le_roundUp {n : Nat} (hn : 0 < n) (a : Nat) : a ≤ roundUp a n := (ceilDiv_le_iff hn a _).1 (Nat.le_refl _)

theorem roundUp_mod (a n : Nat) : roundUp a n % n = 0 := Nat.mul_mod_left _ _

theorem convBeat_of_le {at_ b old : Nat} (h : at_ ≤ b * old) (new : Nat) : convBeat old new at_ b = ceilDiv (b * old) new := if_pos h

/-- Settles O13: the converted beat is the old start divided by the new period, rounded up. -/
theorem convertedBeatIsFirst : Obligations.ConvertedBeatIsFirst := by
  intro old new at_ b hnew hat
  have start : b * old ≤ ceilDiv (b * old) new * new := le_roundUp hnew _
  rw [convBeat_of_le hat]
  exact ⟨start, fun c => (ceilDiv_le_iff hnew _ c).2, Nat.le_trans hat start⟩

/-! ### The correction of a measurement (R42) -/

section Correction
variable {member : Bool} {off : Int}

theorem correctionOf_small (h : off.natAbs ≤ 1000000) (tsc : Nat) :
    correctionOf false member tsc off = (tsc, if off = 0 then .none else .slew off, false) := by
  simp only [correctionOf, Bool.false_eq_true, if_false, if_pos h]

theorem correctionOf_member (h : 1000000 < off.natAbs) (tsc : Nat) :
    correctionOf false true tsc off = (tsc, .slew off, false) := by
  simp only [correctionOf, Bool.false_eq_true, if_false, if_neg (Nat.not_le.2 h), if_true]

theorem correctionOf_behind (h : off < -1000000) (tsc : Nat) :
    correctionOf false false tsc off = (((tsc : Int) - off).toNat % 2 ^ 64, .none, true) := by
  simp only [correctionOf, Bool.false_eq_true, if_false, if_neg (show ¬ off.natAbs ≤ 1000000 by omega), if_pos (show off < 0 by omega)]

theorem correctionOf_ahead (h : 1000000 < off) (tsc : Nat) :
    correctionOf false false tsc off = (tsc, .halfRate off, false) := by
  simp only [correctionOf, Bool.false_eq_true, if_false, if_neg (show ¬ off.natAbs ≤ 1000000 by omega),
    if_neg (show ¬ off < 0 by omega)]

end Correction

/-- The four cases of R42 after the first measurement: a small offset, a group member, a TSC behind, a TSC ahead. -/
theorem correction_rules {member : Bool} {tsc : Nat} {off : Int} {t : Nat} {c : Correction} {b : Bool}
    (h : correctionOf false member tsc off = (t, c, b)) :
    (b = true ↔ off < -1000000 ∧ member = false) ∧ (b = false → t = tsc) ∧
    ((tsc : Int) - off < 2 ^ 64 → tsc ≤ t) ∧ (b = true → (t : Int) = ((tsc : Int) - off) % 2 ^ 64 ∧ c = .none) ∧
    (b = false → off ≠ 0 → c = if 1000000 < off ∧ member = false then .halfRate off else .slew off) := by
  by_cases small : off.natAbs ≤ 1000000
  · rw [correctionOf_small small] at h
    obtain ⟨rfl, rfl, rfl⟩ := h
    have notBehind : ¬ off < -1000000 := by omega
    have notAhead : ¬ 1000000 < off := by omega
    simp +contextual [notBehind, notAhead]
  cases member with
  | true =>
    rw [correctionOf_member (by omega)] at h
    obtain ⟨rfl, rfl, rfl⟩ := h
    simp
  | false =>
    by_cases behind : off < -1000000
    · rw [correctionOf_behind behind] at h
      obtain ⟨rfl, rfl, rfl⟩ := h
      simp only [behind, Bool.true_eq_false, true_and, and_true, false_imp_iff, forall_const]
      omega
    · have ahead : 1000000 < off := by omega
      rw [correctionOf_ahead ahead] at h
      obtain ⟨rfl, rfl, rfl⟩ := h
      simp [behind, ahead]

/-! ### The lock state after a measurement (R43) -/

theorem lockAfter_bad {off : Int} (h : 2000 < off.natAbs) (l : LockState) (good : Nat) : lockAfter l good off = .unlocked := if_pos h

theorem lockAfter_good {off : Int} (h : off.natAbs ≤ 250) (l : LockState) (good : Nat) :
    lockAfter l (min 255 (good + 1)) off = if 8 ≤ good + 1 then .locked else l := by
  have counts : 8 ≤ min 255 (good + 1) ↔ 8 ≤ good + 1 := by omega
  unfold lockAfter
  rw [if_neg (show ¬ 2000 < off.natAbs by omega)]
  cases l with
  | locked => simp [Nat.not_lt.2 h]
  | degraded => simp only [ge_iff_le, counts]
  | unlocked => simp only [ge_iff_le, counts]

theorem lockAfter_middling {off : Int} (h : 250 < off.natAbs) (h' : off.natAbs ≤ 2000) (l : LockState) :
    lockAfter l 0 off = if l = .locked then .degraded else l := by
  unfold lockAfter
  rw [if_neg (Nat.not_lt.2 h')]
  cases l with
  | locked => exact if_pos h
  | degraded => rfl
  | unlocked => rfl

/-- Settles O10: R42 by the size and sign of the offset and membership, R43 by the offset's three ranges. -/
theorem measurementRules : Obligations.MeasurementRules :=
  ⟨fun _ _ _ _ _ _ h => correction_rules h,
    fun l good _ => ⟨fun h => lockAfter_bad h l _, fun h => lockAfter_good h l good, fun h h' => lockAfter_middling h h' l⟩⟩

/-! ### What a measurement changes -/

/-- A change of the lock state writes the lock's fields of the clock, and telemetry. -/
theorem setLock_changes (l : LockState) (s : State) : ∃ ever since e,
    setLock l s = { s with
      clock := { s.clock with
        lock := l
        everLocked := ever
        unlockedSince := since }
      tele := e } ∧
    (l = .unlocked → s.clock.lock ≠ .unlocked → since = s.clock.tsc) := by
  by_cases same : l = s.clock.lock
  · subst same
    exact ⟨s.clock.everLocked, s.clock.unlockedSince, s.tele, if_pos rfl, fun h h' => absurd h h'⟩
  · rw [setLock, if_neg same]
    refine ⟨s.clock.everLocked || l == .locked, if l = .unlocked then s.clock.tsc else s.clock.unlockedSince, ?_⟩
    by_cases locked : (l == .locked) = true
    · exact ⟨_, by simp only [if_pos locked]; rfl, fun h _ => if_pos h⟩
    · exact ⟨_, by simp only [if_neg locked]; rfl, fun h _ => if_pos h⟩

/-- The clock a measurement leaves, but for the lock state. -/
def measuredClock (off : Int) (s : State) : Clock :=
  let x := correctionOf (!s.clock.measured) (isMember s) (now s) off
  { s.clock with
    tsc := x.1
    frac := if x.2.2 then 0 else s.clock.frac
    corr := x.2.1
    offset := satOffset off
    measured := true
    lastValid := x.1
    holdover := false
    goodCount := if off.natAbs ≤ 250 then min 255 (s.clock.goodCount + 1) else 0
    stepOccurred := s.clock.stepOccurred || x.2.2 }

theorem measure_eq (off : Int) (s : State) : ∃ l e, measure off s = setLock l { s with
    clock := measuredClock off s
    tele := e } := by
  unfold measure measuredClock
  dsimp only
  rcases correctionOf (!s.clock.measured) (isMember s) (now s) off with ⟨t, corr, step⟩
  cases step with
  | true => exact ⟨_, _, rfl⟩
  | false => exact ⟨_, s.tele, rfl⟩

/-- A measurement changes the clock and telemetry alone, and is the last valid one. -/
theorem measure_changes (off : Int) (s : State) : ∃ c e,
    measure off s = { s with
      clock := c
      tele := e } ∧
    c.offset = satOffset off ∧ c.measured = true ∧ c.holdover = false ∧ c.lastValid = c.tsc := by
  obtain ⟨l, e, h⟩ := measure_eq off s
  obtain ⟨ever, since, e', h', -⟩ := setLock_changes l { s with
    clock := measuredClock off s
    tele := e }
  exact ⟨_, e', h.trans h', rfl, rfl, rfl, rfl⟩

/-! ### The rows of the measurements -/

theorem ptpMessage_measures {s : State} (hs : ctlSource s = 1) (hp : s.power.state = .s0 ∨ s.power.state = .s1) (source : Nat) :
    exec (.ptpMessage (ctlPort s) (ctlDomain s) (ctlTransport s) source) s =
      .next (measure (offsetTo s (ptpSource (ctlPort s) source s)) s) := by
  have accepted : ptpAccepted (ctlPort s) (ctlDomain s) (ctlTransport s) s = true := by
    simpa [ptpAccepted, hs] using hp
  change execPtpMessage _ _ _ _ _ = _
  rw [execPtpMessage, accepted, doWhen_true]

theorem ppsEdge_measures {s : State} {m : Tod} (hs : ctlSource s = 2) (hm : s.clock.tod = some m)
    (early : m.arrived + 100000000 ≤ now s) (late : now s ≤ m.arrived + 900000000) :
    exec .ppsEdge s = .next (updClock (fun c => { c with tod := none }) (updClock (fun c => { c with
      utcOffset := m.utcOffset
      todFlags := m.flags }) (measure (offsetTo s (m.taiSec * secNs) - ppsInDelay s) s))) := by
  have labels : todLabels m (now s) = true := by rw [todLabels, decide_eq_true early, decide_eq_true late, Bool.and_true]
  change execPpsEdge s = _
  simp only [execPpsEdge, hs, hm, labels, if_true, beq_self_eq_true, doWhen_true]

theorem todMessage_kept {s : State} {b : List Byte} (hs : ctlSource s = 2) (hl : b.length = 16) (hsync : num b 0 2 = 0x3CC3)
    (htype : num b 2 1 = 1) : exec (.todMessage b) s = .next { s with clock := { s.clock with tod := todKept b (now s) } } := by
  have framed : todFramed b = true := by simp [todFramed, hl, hsync, htype]
  change execTodMessage b s = _
  rw [execTodMessage, hs, framed]
  rfl

theorem todKept_of_crc {b : List Byte} (h : crc16 (b.take 14) = num b 14 2) (t : Nat) :
    todKept b t = some { taiSec := num b 3 8, utcOffset := num b 11 2, flags := num b 13 1, arrived := t } :=
  if_pos (beq_iff_eq.2 h)

theorem todKept_of_bad_crc {b : List Byte} (h : crc16 (b.take 14) ≠ num b 14 2) (t : Nat) : todKept b t = none :=
  if_neg (mt beq_iff_eq.1 h)

theorem measurementTimeout_unlocks {s : State} (h : s.clock.lock ≠ .unlocked) : exec .measurementTimeout s =
    .next (setLock .unlocked (updClock (fun c => { c with goodCount := 0 }) (advance (s.clock.lastValid + 2 * secNs) s))) := by
  change execMeasurementTimeout s = _
  rw [execMeasurementTimeout, show (s.clock.lock != .unlocked) = true from bne_iff_ne.2 h, doWhen_true]

theorem unlockedGroupTimeout_leaves {s : State} (hl : s.clock.lock = .unlocked) (hm : 2 ≤ s.net.group.gstate)
    (hn : s.net.group.leave = none) : exec .unlockedGroupTimeout s =
      .next (updGroup (fun g => { g with
        gstate := 3
        leave := some none }) (advance (s.clock.unlockedSince + 10 * secNs) s)) := by
  change execUnlockedGroupTimeout s = _
  simp [execUnlockedGroupTimeout, isMember, hl, hm, hn]

/-- Settles O8: each row runs to its measurement, its timeout or its update; `measure` and `setLock` write the clock and
telemetry alone. -/
theorem timeMeasurements : Obligations.TimeMeasurements := by
  intro s
  refine ⟨?ptp, ?pps, ?tod, ?timeout, rfl, fun hl hm hn => unlockedGroupTimeout_leaves hl hm hn⟩
  case ptp =>
    rintro _ _ _ source hs rfl rfl rfl hp
    rw [ptpMessage_measures hs hp]
    obtain ⟨c, e, h, rest⟩ := measure_changes (offsetTo s (ptpSource (ctlPort s) source s)) s
    exact ⟨c, e, congrArg _ h, rest⟩
  case pps =>
    intro m hs hm early late
    rw [ppsEdge_measures hs hm early late]
    obtain ⟨c, e, h, offset, measured, -, valid⟩ := measure_changes (offsetTo s (m.taiSec * secNs) - ppsInDelay s) s
    rw [h]
    exact ⟨_, e, rfl, offset, rfl, valid, measured, rfl, rfl⟩
  case tod =>
    exact fun b hs hl hsync htype => ⟨todMessage_kept hs hl hsync htype, fun h => todKept_of_bad_crc h _, fun h => todKept_of_crc h _⟩
  case timeout =>
    intro h
    rw [measurementTimeout_unlocks h]
    obtain ⟨ever, since, e, eq, unlocks⟩ := setLock_changes .unlocked
      (updClock (fun c => { c with goodCount := 0 }) (advance (s.clock.lastValid + 2 * secNs) s))
    rw [eq]
    exact ⟨_, e, rfl, rfl, rfl, rfl, unlocks rfl h⟩

/-! ### 1PPS and ToD out -/

theorem ppsOutEdge_drives {s : State} (h : ppsOutEn s = true) : exec .ppsOutEdge s =
    .next { s with clock := { (advance (nextPps s) s).clock with ppsEdge := some (nextPps s) } } := by
  change execPpsOutEdge s = _
  rw [execPpsOutEdge, h]
  rfl

theorem ppsOutHigh_iff {s : State} {t : Nat} (h : s.clock.ppsEdge = some t) : ppsOutHigh s = true ↔ now s < t + 100000000 := by
  rw [ppsOutHigh, h]; exact decide_eq_true_iff

theorem ppsOutDelay_of_zero {s : State} (h : bits s.power.modPps.toNat 31 16 = 0) : ppsOutDelay s = 0 := by
  rw [ppsOutDelay, h]; rfl

/-- Without an output delay the edges are whole TAI seconds (R41). -/
theorem nextPps_of_no_delay {s : State} (h : bits s.power.modPps.toNat 31 16 = 0) : nextPps s % 1000000000 = 0 ∧ now s ≤ nextPps s := by
  have up : now s ≤ roundUp (now s) 1000000000 := le_roundUp (by decide) _
  have whole : roundUp (now s) 1000000000 % 1000000000 = 0 := roundUp_mod _ _
  simp only [nextPps, wholeSecond, secNs, ppsOutDelay_of_zero h, Int.add_zero, Int.sub_zero, Int.toNat_natCast]
  split <;> omega

/-! ### Fields of a record -/

theorem le_length (n v : Nat) : (le n v).length = n := by
  induction n generalizing v with
  | zero => rfl
  | succ n ih => rw [le, List.length_cons, ih]

theorem unle_le (n v : Nat) : unle (le n v) = v % 256 ^ n := by
  induction n generalizing v with
  | zero => rw [Nat.pow_zero, Nat.mod_one]; rfl
  | succ n ih =>
    calc unle (le (n + 1) v) = v % 256 + 256 * (v / 256 % 256 ^ n) := by rw [le, unle, ih]; rfl
      _ = v % 256 ^ (n + 1) := by rw [← Nat.mod_mul, Nat.pow_succ']

@[simp] theorem patch_length (bs : List Byte) (off : Nat) (xs : List Byte) : (patch bs off xs).length = bs.length := by
  simp only [patch, List.length_append, List.length_take, List.length_drop]; omega

@[simp] theorem zeros_length (n : Nat) : (zeros n).length = n := List.length_replicate

/-- A field is read back as it was written. -/
theorem num_patch_same {bs : List Byte} {off n : Nat} (h : off + n ≤ bs.length) (v : Nat) :
    num (patch bs off (le n v)) off n = unle (le n v) := by
  have whole : (le n v).take (bs.length - off) = le n v := List.take_of_length_le (by rw [le_length]; omega)
  rw [num, patch, whole, List.append_assoc, List.drop_left' (List.length_take_of_le (by omega)), List.take_left' (le_length n v)]

/-- A later field leaves an earlier one as it is. -/
theorem num_patch_later {bs : List Byte} {off n off' : Nat} (h : off + n ≤ off') (h' : off' ≤ bs.length) (xs : List Byte) :
    num (patch bs off' xs) off n = num bs off n := by
  have short : off + n ≤ (bs.take off').length := by rw [List.length_take_of_le h']; exact h
  have start : (patch bs off' xs).take (off + n) = bs.take (off + n) := by
    rw [patch, List.append_assoc, List.take_append_of_le_length short, List.take_take, Nat.min_eq_left h]
  rw [num, num, List.take_drop, List.take_drop, start]

theorem num_append {a : List Byte} {off n : Nat} (h : off + n ≤ a.length) (b : List Byte) : num (a ++ b) off n = num a off n := by
  rw [num, num, List.take_drop, List.take_drop, List.take_append_of_le_length h]

/-! ### The ToD message sent (R39, R477) -/

theorem todOut_length (s : State) (sec : Nat) : (todOut s sec).length = 16 := by
  simp [todOut, rec_, le_length]

theorem todOut_sync (s : State) (sec : Nat) : num (todOut s sec) 0 2 = 0x3CC3 := by
  simp (disch := simp) only [todOut, rec_, List.foldl_cons, List.foldl_nil, num_append, num_patch_later, num_patch_same]
  exact unle_le 2 0x3CC3

theorem todOut_second (s : State) (sec : Nat) : num (todOut s sec) 3 8 = sec % 2 ^ 64 := by
  simp (disch := simp) only [todOut, rec_, List.foldl_cons, List.foldl_nil, num_append, num_patch_later, num_patch_same]
  exact unle_le 8 sec

theorem todTransmit_sends {s : State} (h : ppsOutEn s = true) : exec .todTransmit s =
    .next { advance (nextTodTx s) s with out := { s.out with tod := s.out.tod ++ [todOut s (todSecond s / secNs)] } } := by
  change execTodTransmit s = _
  rw [execTodTransmit, h]
  rfl

/-! ### The latch of TIME.TSC -/

/-- The high half of TIME.TSC reads as what was latched for the function (R36). -/
theorem regRead_tsc_high {u : State} {f : Nat} (hf : f ≤ 255) (hd : barDead u f = false) (hu : barUnbound u f = false)
    (hr : u.sec.recovery = false) : regRead u f 0x104 4 = (smGet u.clock.latch 0 f).toNat := by
  have answers : ¬ (255 < f ∨ barDead u f = true ∨ barUnbound u f = true) := by simp [hd, hu]; omega
  rw [regRead, if_neg (mt (barSilent_iff u f).1 answers), hr]
  rfl

/-- Settles O9: the next edge is a whole second, the ToD message's fields are read back, the latch keeps the upper half. -/
theorem timeOutputs : Obligations.TimeOutputs := by
  intro s
  refine ⟨fun en => ⟨_, ppsOutEdge_drives en, rfl, fun ahead => ?high, fun u h => ppsOutHigh_iff h⟩, nextPps_of_no_delay,
    fun en => ⟨_, todOut_length s _, todOut_sync s _, todOut_second s _, todTransmit_sends en⟩,
    fun func => ⟨_, rfl, rfl, fun u latched hf hd hu hr => ?latch⟩⟩
  case high =>
    have reached : max (now s) (nextPps s) < nextPps s + 100000000 := by omega
    exact (ppsOutHigh_iff rfl).2 reached
  case latch =>
    have kept : u.clock.latch = smSet s.clock.latch func (BitVec.ofNat 32 (now s / 2 ^ 32)) := latched
    rw [regRead_tsc_high hf hd hu hr, kept, smGet_smSet, if_pos rfl, BitVec.toNat_ofNat]

/-! ### Clover's comparators (R56, R57) -/

/-- `t` is `s` but for power, the link and what goes out. -/
abbrev PinsOnly (s t : State) : Prop := ∃ p l o, t = { s with
  power := p
  link := l
  out := o }

theorem PinsOnly.refl (s : State) : PinsOnly s s := ⟨_, _, _, rfl⟩

theorem PinsOnly.ite {s a b : State} {c : Prop} [Decidable c] (ha : PinsOnly s a) (hb : PinsOnly s b) :
    PinsOnly s (if c then a else b) := by split <;> assumption

theorem PinsOnly.updPower {s t : State} (f : Power → Power) : PinsOnly s t → PinsOnly s (updPower f t) := by
  rintro ⟨p, l, o, rfl⟩; exact ⟨_, _, _, rfl⟩

theorem PinsOnly.msix {s t : State} (f v : Nat) : PinsOnly s t → PinsOnly s (msix f v t) := by
  rintro ⟨p, l, o, rfl⟩; exact .ite ⟨_, _, _, rfl⟩ ⟨_, _, _, rfl⟩

theorem PinsOnly.wake {s t : State} (code : Nat) (h : PinsOnly s t) : PinsOnly s (wake code t) := by
  unfold Machine.wake
  cases t.power.state with
  | s1 => exact h.updPower _
  | s2 => exact .ite h (h.updPower _)
  | s0 => exact h
  | s3 => exact h

/-- The comparator's bit set and its event written. -/
def cloverMark (k : Nat) (s : State) : State :=
  emit 0 evCloverFired devPart [(20, 1, k)] (updClover (fun c => { c with fired := c.fired ||| BitVec.ofNat 32 (2 ^ k) }) s)

/-- Past its mark, a comparator that fires interrupts and wakes. -/
theorem cloverFire_changes (k code : Nat) (s : State) : PinsOnly (cloverMark k s) (cloverFire k code s) := by
  have marked := PinsOnly.refl (cloverMark k s)
  have interrupted {c : Prop} [Decidable c] : PinsOnly (cloverMark k s) (if c then msix 0 0 (cloverMark k s) else cloverMark k s) :=
    .ite (marked.msix 0 0) marked
  exact .ite interrupted (.ite (interrupted.updPower _) (interrupted.wake code))

/-- Once its bit is set a comparator is not armed. -/
theorem cloverArmed_of_fired {s : State} {k : Nat} (h : cloverFired s k = true) : cloverArmed s k = false := by
  simp [cloverArmed, h]

theorem testBit_or_two_pow {k : Nat} (hk : k < 32) (x : BitVec 32) : (x ||| BitVec.ofNat 32 (2 ^ k)).toNat.testBit k = true := by
  have small : 2 ^ k < 2 ^ 32 := Nat.pow_lt_pow_right (by decide) hk
  rw [BitVec.toNat_or, BitVec.toNat_ofNat, Nat.mod_eq_of_lt small, Nat.testBit_or, Nat.testBit_two_pow_self, Bool.or_true]

/-- Byte 20 of an event is the first of its data (17 R456). -/
theorem eventData_first {k : Nat} (hk : k < 256) : num ((rec_ 56 [(20, 1, k)]).drop 20) 0 1 = k :=
  calc num (rec_ 56 [(20, 1, k)]) 20 1 = unle (le 1 k) := num_patch_same (by simp) k
    _ = k % 256 ^ 1 := unle_le 1 k
    _ = k := Nat.mod_eq_of_lt hk

theorem cloverFire_fired {k : Nat} (hk : k < 8) (code : Nat) (s : State) :
    ComparatorFired k s (cloverFire k code s) ∧ (cloverFire k code s).clock = s.clock := by
  obtain ⟨p, l, o, h⟩ := cloverFire_changes k code s
  rw [h]
  have fired : cloverFired { cloverMark k s with
      power := p
      link := l
      out := o } k = true := testBit_or_two_pow (by omega) s.clover.fired
  exact ⟨⟨rfl, cloverArmed_of_fired fired, ⟨_, rfl, rfl, eventData_first (by omega)⟩,
    rfl, rfl, rfl, rfl, rfl, rfl, rfl, rfl, rfl, rfl, rfl⟩, rfl⟩

theorem cloverWakeFire_fires {s : State} {n : Nat} (hn : n < 4) (ha : cloverArmed s n = true) : exec (.cloverWakeFire n) s =
    .next (cloverFire n 3 (advance (smGet s.clover.wake 0 n).toNat s)) := by
  change execCloverWakeFire n s = _
  rw [execCloverWakeFire, decide_eq_true hn, ha, Bool.and_true, doWhen_true]

theorem cloverTempFire_fires {s : State} {n c : Nat} (hn : n < 2) (ha : cloverArmed s (4 + n) = true)
    (hc : (if n = 0 then s.clover.temp0 else s.clover.temp1) ≤ c) : exec (.cloverTempFire n c) s = .next (cloverFire (4 + n) 4 s) := by
  change execCloverTempFire n c s = _
  rw [execCloverTempFire, decide_eq_true hn, ha, decide_eq_true hc, Bool.and_true, Bool.and_true, doWhen_true]

theorem cloverSupplyFire_fires {s : State} {v : Nat} (ha : cloverArmed s 6 = true) (hv : v < s.clover.supply) :
    exec (.cloverSupplyFire v) s = .next (cloverFire 6 5 s) := by
  change execCloverSupplyFire v s = _
  rw [execCloverSupplyFire, ha, decide_eq_true hv, Bool.and_true, doWhen_true]

theorem cloverLinkFire_fires {s : State} (ha : cloverArmed s 7 = true) :
    exec (.cloverLinkFire s.clover.link) s = .next (cloverFire 7 6 s) := by
  change execCloverLinkFire _ s = _
  rw [execCloverLinkFire, ha, beq_self_eq_true, Bool.and_true, doWhen_true]

/-- Settles O11: every armed comparator's row is `cloverFire`, the time's at its instant; the write of FIRED is a host access. -/
theorem comparatorsFire : Obligations.ComparatorsFire := by
  intro s
  refine ⟨fun n hn ha => ?time, fun n c hn ha hc => ⟨_, cloverTempFire_fires hn ha hc, cloverFire_fired (by omega) 4 s⟩,
    fun v ha hv => ⟨_, cloverSupplyFire_fires ha hv, cloverFire_fired (by decide) 5 s⟩,
    fun ha => ⟨_, cloverLinkFire_fires ha, cloverFire_fired (by decide) 6 s⟩, fun v hr => congrArg _ (hostAccess_of_reachable hr _)⟩
  case time =>
    obtain ⟨fired, clock⟩ := cloverFire_fired (show n < 8 by omega) 3 (advance (smGet s.clover.wake 0 n).toNat s)
    refine ⟨_, cloverWakeFire_fires hn ha, fired, ?_⟩
    rw [now, clock]
    exact Nat.le_max_right _ _

/-! ### What leaves the clock alone -/

@[simp] theorem emit_clock (src code part : Nat) (fields : List (Nat × Nat × Nat)) (s : State) :
    (emit src code part fields s).clock = s.clock := rfl

@[simp] theorem msix_clock (f v : Nat) (s : State) : (msix f v s).clock = s.clock := by
  obtain ⟨p, l, o, h⟩ := PinsOnly.msix f v (.refl s)
  rw [h]

theorem writePiece_clock (mode : Nat) (ok : Nat → Bool) (pa0 : Nat) (bs : List Byte) (x : State × Acc) (p : Nat × Nat) :
    (writePiece mode ok pa0 bs x p).1.clock = x.1.clock := by
  simp only [writePiece, apply_ite Prod.fst, apply_ite State.clock, updMem_clock, ite_self]

theorem writePhys_clock (ok : Nat → Bool) (pa : Nat) (bs : List Byte) (x : State × Acc) :
    (writePhys ok pa bs x).1.clock = x.1.clock :=
  List.foldlRecOn _ _ (motive := fun y : State × Acc => y.1.clock = x.1.clock) rfl fun _ h _ _ => (writePiece_clock ..).trans h

@[simp] theorem putVa_clock (c va : Nat) (bs : List Byte) (s : State) : (putVa c va bs s).clock = s.clock :=
  List.foldlRecOn _ _ (motive := fun y : State × Acc => y.1.clock = s.clock) rfl fun _ h _ _ => (writePhys_clock ..).trans h

@[simp] theorem setFaultq_clock (p : Option Nat) (r : Ring) (s : State) : (setFaultq p r s).clock = s.clock := rfl

@[simp] theorem faultPut_clock (p : Option Nat) (r : FaultRec) (s : State) : (faultPut p r s).clock = s.clock := by
  simp only [faultPut, apply_ite State.clock, msix_clock, setFaultq_clock, putVa_clock, ite_self]

@[simp] theorem placeFault_clock (f : Flight) (r : FaultRec) (s : State) : (placeFault f r s).clock = s.clock := faultPut_clock ..

@[simp] theorem placeAccess_clock (f : Flight) (s : State) : (placeAccess f s).clock = s.clock := by
  unfold placeAccess
  cases f.denied <;> cases f.uncorr <;> simp

@[simp] theorem placeStatus_clock (f : Flight) (st : Nat) (s : State) : (placeStatus f st s).clock = s.clock := by
  simp only [placeStatus, apply_ite State.clock, placeFault_clock, ite_self]

@[simp] theorem haltQueue_clock (q seq st : Nat) (s : State) : (haltQueue q seq st s).clock = s.clock := rfl

@[simp] theorem fenceRaise_clock (add : Bool) (f v : Nat) (s : State) : (fenceRaise add f v s).clock = s.clock := rfl

@[simp] theorem trySignal_clock (n : Nat) (s : State) : (trySignal n s).clock = s.clock := by
  unfold trySignal
  cases findFlight s n with
  | none => rfl
  | some f => simp only [apply_ite State.clock, fenceRaise_clock, updFlight_clock, ite_self]

@[simp] theorem finishTop_clock (n st : Nat) (s : State) : (finishTop n st s).clock = s.clock := by
  unfold finishTop
  cases findFlight s n with
  | none => rfl
  | some f => simp only [apply_ite State.clock, trySignal_clock, haltQueue_clock, placeStatus_clock, placeAccess_clock,
      dropStages_clock, updFlight_clock, ite_self]

@[simp] theorem graphNodeEnded_clock (gn idx st : Nat) (node : Flight) (s : State) : (graphNodeEnded gn idx st node s).clock = s.clock := by
  unfold graphNodeEnded
  dsimp only
  split
  · split
    · simp only [apply_ite State.clock, finishTop_clock, updFlight_clock, ite_self]
    · simp
  · simp

@[simp] theorem finishFlight_clock (n st : Nat) (s : State) : (finishFlight n st s).clock = s.clock := by
  unfold finishFlight
  cases findFlight s n with
  | none => rfl
  | some f =>
    dsimp only
    cases f.node with
    | none => simp
    | some x => simp only [graphNodeEnded_clock, apply_ite State.clock, updFlight_clock, dropFlight_clock, ite_self]

@[simp] theorem updSet_clock (i : Nat) (f : CfgSet → CfgSet) (s : State) : (updSet i f s).clock = s.clock := rfl

/-! ### The period switch (R47, R48) -/

theorem cancelSets_clock (at_ : Nat) (s : State) : (cancelSets at_ s).clock = s.clock := by
  unfold cancelSets
  refine List.foldlRecOn _ _ (motive := fun u : State => u.clock = s.clock) rfl fun u h i _ => ?_
  split
  · split
    · simpa using h
    · exact h
  · exact h

/-- With no configuration set there is none to cancel. -/
theorem cancelSets_of_no_sets {s : State} (h : s.sched.sets = []) (at_ : Nat) : cancelSets at_ s = s := by
  unfold cancelSets
  refine List.foldlRecOn _ _ (motive := fun u => u = s) rfl fun u hu i _ => ?_
  subst hu
  have free : (getSet u i).armed = none := by rw [getSet, h]; rfl
  rw [free]

theorem monitorsSwitch_clock (b : Nat) (s : State) : (monitorsSwitch b s).clock = s.clock := by
  unfold monitorsSwitch
  refine List.foldlRecOn _ _ (motive := fun x : State × List Monitor => x.1.clock = s.clock) rfl fun x h m _ => ?_
  dsimp only
  split
  · exact h
  · simpa [monClose] using h

theorem monitorsSwitch_of_no_monitors {s : State} (h : s.tele.monitors = []) (b : Nat) : monitorsSwitch b s = s := by
  simp only [monitorsSwitch, h, List.foldl_nil]
  rw [← h]
  rfl

section Digest
variable (s : State)

theorem groupDigest_changes : ∃ n, groupDigest s = { s with net := n } := by
  unfold groupDigest
  split
  · exact ⟨_, rfl⟩
  · exact ⟨s.net, rfl⟩

@[simp] theorem groupDigest_clock : (groupDigest s).clock = s.clock := by obtain ⟨n, h⟩ := groupDigest_changes s; rw [h]
@[simp] theorem groupDigest_beat : (groupDigest s).beat = s.beat := by obtain ⟨n, h⟩ := groupDigest_changes s; rw [h]
@[simp] theorem groupDigest_mem : (groupDigest s).mem = s.mem := by obtain ⟨n, h⟩ := groupDigest_changes s; rw [h]
@[simp] theorem groupDigest_tiles : (groupDigest s).tiles = s.tiles := by obtain ⟨n, h⟩ := groupDigest_changes s; rw [h]
@[simp] theorem groupDigest_queues : (groupDigest s).queues = s.queues := by obtain ⟨n, h⟩ := groupDigest_changes s; rw [h]

end Digest

/-- The new period governs, the clock stands, and messages of the new period act last. -/
theorem switchNow_changes {s : State} {w : Switch} (h : s.beat.switch = some w) : ∃ t : State,
    switchNow s = t.net.flows.foldl (fun u f => runEffects f.1 66 u) t ∧ t.clock = s.clock ∧
    t.beat.periodUs = w.periodUs ∧ t.beat.switch = none ∧ t.beat.lastSwitch = some (w.at_, beatNs s) ∧
    (s.sched.sets = [] → s.tele.monitors = [] → t.mem = s.mem ∧ t.tiles = s.tiles ∧ t.queues = s.queues) := by
  simp only [switchNow, h]
  refine ⟨_, rfl, ?clock, ?period, ?switch, ?last, fun sets monitors => ?frame⟩
  case clock => simp only [groupDigest_clock, updBeat_clock, monitorsSwitch_clock, updGroup_clock, updTables_clock, cancelSets_clock]
  case period => rw [groupDigest_beat, updBeat_beat]
  case switch => rw [groupDigest_beat, updBeat_beat]
  case last => rw [groupDigest_beat, updBeat_beat]
  case frame =>
    rw [cancelSets_of_no_sets sets, monitorsSwitch_of_no_monitors (s := updGroup _ (updTables _ s)) monitors]
    exact ⟨groupDigest_mem _, groupDigest_tiles _, groupDigest_queues _⟩

theorem beatPeriodSwitch_switches {s : State} {w : Switch} (h : s.beat.switch = some w) (due : w.at_ ≤ nextEdge s) :
    exec .beatPeriodSwitch s = .next (switchNow (advance w.at_ s)) := by
  change execBeatPeriodSwitch s = _
  simp only [execBeatPeriodSwitch, h, decide_eq_true due, Bool.or_true, doWhen_true]

/-! ### The beat head (R45, R50) -/

theorem beatEdge_runs {s : State} (hw : Working s) (uj : Nat) (first : switchFirst s (nextEdge s) = false) :
    exec (.beatEdge uj) s = .next (settle (tablesStep6 (advance (nextEdge s + 1500) (updTele (fun t => { t with hot := [] })
      (openBudgets (energyPart (edgePower (nextEdge s) (edgeBegin (nextEdge s) s)) uj)
        (edgeConfig (nextEdge s) (edgePower (nextEdge s) (edgeBegin (nextEdge s) s)))))))) := by
  change execBeatEdge uj s = _
  simp only [execBeatEdge, cpOn_of_working hw, first, Bool.not_false, Bool.and_true, doWhen_true]

theorem admissionResume_resumes {s : State} (hw : Working s) {e : Nat} (he : s.beat.edge = some e) (hp : s.beat.paused = true) :
    exec .admissionResume s = .next (admitReady (updBeat (fun b => { b with paused := false }) (advance (e + 2000) s))) := by
  change execAdmissionResume s = _
  simp only [execAdmissionResume, he, cpOn_of_working hw, hp, Bool.and_true, doWhen_true]

theorem beatHeadEnd_ends {s : State} (hw : Working s) {e : Nat} (he : s.beat.edge = some e) (hh : s.beat.inHead = true)
    (hp : s.beat.paused = false) : exec .beatHeadEnd s =
      .next (releaseGathers (overrunEvents (updBeat (fun b => { b with inHead := false }) (advance (e + headNs s) s)))) := by
  change execBeatHeadEnd s = _
  simp only [execBeatHeadEnd, he, cpOn_of_working hw, hh, hp, Bool.not_false, Bool.and_true, doWhen_true]

/-- Settles O12: the rows of the head run in a working module; the switch cancels sets and closes windows, which both leave the
clock alone and, where there are none, everything. -/
theorem beatRows : Obligations.BeatRows := by
  intro s hw
  refine ⟨?edge, fun e he hp => admissionResume_resumes hw he hp, fun e he hh hp => beatHeadEnd_ends hw he hh hp, ?switch⟩
  case edge =>
    rintro uj _ _ first rfl rfl
    exact beatEdge_runs hw uj first
  case switch =>
    intro w h due
    obtain ⟨t, runs, clock, period, switch, last, frame⟩ := switchNow_changes (s := advance w.at_ s) h
    refine ⟨t, ?_, period, switch, ?_, last, frame⟩
    · rw [beatPeriodSwitch_switches h due, runs]
    · rw [now, clock]
      exact Nat.le_max_right _ _

end Sys2Proof.Machine

/-! PROOFS. Matrix work on an array: its start, its end and guard replay, debug mode's halt, and the ramp down of an array (O24). -/

namespace Sys2Proof.Machine

/-! ### Start and end (R84, R101, R104) -/

theorem mma_starts {s : State} {tile : Nat} (hi : Issues s tile) (free : matrixBusy (getTile s tile) = false) {r : Run} {f : Flight}
    {k : Kernel} (run : (getTile s tile).run = some r) (kernel : kernelOf s r.flight = some (f, k)) (d : SOp) {b : List Byte}
    (taken : b = spadRead (getTile s tile) (kernConv k) (sval (getTile s tile) d) 256) : exec (.mma tile d) s =
      .next (updTile tile (fun t =>
          nextPc (orFlags (spadFlag (kernConv k) (sval t d) 256) (startMatrix (addMma s f b k) (sval t d) b t)))
        (updKernel f.num (addMma s f b) (haltCheck tile f (parseMDesc k.level b) (rampUp tile s)))) := by
  subst taken
  have found : (getTile s tile).run.bind (fun r => kernelOf s r.flight) = some (f, k) := by rw [run, Option.bind_some, kernel]
  change execMma tile d s = _
  simp only [execMma, found, issues_of_issues hi, free, Bool.not_false, Bool.and_true, doWhen_true]

section MatrixRun
variable {s : State} {tile : Nat} {r : Run} {f : Flight} {k : Kernel} {m : Matrix}

/-- The last row leaves once no halt holds it or is still to come. -/
theorem matrixInstanceEnd_ends (here : matrixAt s tile = some (r, f, k, m)) (running : m.ended = false) (first : m.replay = false)
    (goes : m.halted = false ∨ m.resumed = true) (noHalt : mayHalt s r f k m = false) :
    exec (.matrixInstanceEnd tile) s = .next (matrixEnd tile r f k m s) := by
  have free : (m.halted && !m.resumed) = false := by
    rcases goes with h | h
    · rw [h, Bool.false_and]
    · rw [h, Bool.not_true, Bool.and_false]
  change execMatrixInstanceEnd tile s = _
  simp only [execMatrixInstanceEnd, here, running, first, free, noHalt, Bool.or_self, Bool.false_eq_true, if_false]

/-- The scale is derived from the largest magnitude of the first conversion (R80). -/
theorem guardReplayDone_delivers {d : MDesc} {o : MOut} (here : matrixAt s tile = some (r, f, k, m)) (running : m.ended = false)
    (replays : m.replay = true) (desc : d = parseMDesc k.level m.bytes)
    (first : o = matrixOut (heldReader m.held) d r.inst (scaleOfDesc k m d) none) : exec (.guardReplayDone tile) s =
      .next (deliver tile r f m d (matrixOut (heldReader m.held) d r.inst (scaleOfDesc k m d)
        (some (derive d.qc.fmt (scaleKind d.qc) o.amax).1)) qReplayed 1 s) := by
  subst desc first
  change execGuardReplayDone tile s = _
  simp only [execGuardReplayDone, here, running, replays, Bool.not_true, Bool.or_self, Bool.false_eq_true, if_false]

/-! ### Debug mode (R102, R103) -/

/-- Filling the accumulator files changes tiles alone, and of no tile its matrix. -/
theorem fillAcc_changes (t : Nat) (els : List AccEl) (s : State) : ∃ ts, fillAcc t els s = { s with tiles := ts } ∧
    ∀ u, (getTile (fillAcc t els s) u).matrix = (getTile s u).matrix := by
  refine List.foldlRecOn els _
    (motive := fun v : State => ∃ ts, v = { s with tiles := ts } ∧ ∀ u, (getTile v u).matrix = (getTile s u).matrix)
    ⟨s.tiles, rfl, fun _ => rfl⟩ ?filled
  case filled =>
    rintro _ ⟨ts, rfl, kept⟩ x -
    refine ⟨_, rfl, fun u => ?_⟩
    rw [getTile_updTile]
    split
    · subst u
      exact kept x.tile
    · exact kept u

/-- A matrix as debug mode halts it: chunk HALT_CHUNK has entered in full. -/
def haltedMatrix (k : Kernel) (m : Matrix) : Matrix :=
  let d := parseMDesc k.level m.bytes
  let n := d.halt.getD 0 + 1
  { m with
    halted := true
    chunks := n
    runPos := if d.acc16 then n % d.run else 0 }

theorem debugHalt_halts (here : matrixAt s tile = some (r, f, k, m)) (running : m.ended = false) (first : m.replay = false)
    (halts : mayHalt s r f k m = true) : exec (.debugHalt tile) s =
      .next (fillAcc tile (exposed s f (parseMDesc k.level m.bytes) k.shape tile r.inst (haltedMatrix k m).chunks)
        (updTile tile (fun w => { w with matrix := some (haltedMatrix k m) }) s)) := by
  change execDebugHalt tile s = _
  simp only [execDebugHalt, haltedMatrix, here, running, first, halts, Bool.not_true, Bool.or_self, Bool.false_eq_true, if_false]

end MatrixRun

theorem dbgResume_resumes {s : State} {func tile : Nat} {r : Run} (h : haltedTile s func = some (tile, r)) :
    exec (.dbgResume func) s = .next (updTile tile (fun t => { t with matrix := t.matrix.map fun m => { m with
      resumed := true
      halted := false } }) s) := by
  change execDbgResume func s = _
  simp only [execDbgResume, dbgResume, h]

theorem dbgAbort_aborts {s : State} {func tile : Nat} {r : Run} (h : haltedTile s func = some (tile, r)) :
    exec (.dbgAbort func) s = .next (abortFlight (topOf s r.flight) stInstanceAborted s) := by
  change execDbgAbort func s = _
  simp only [execDbgAbort, dbgAbort, h]

/-! ### Ramp down (R107, R108) -/

/-- A tile that no run occupies ramps down alone. -/
theorem arrayRampDown_alone {s : State} {tile : Nat} (alone : runAt s tile = none) (free : matrixBusy (getTile s tile) = false)
    (pends : instancePends s tile = false) : exec (.arrayRampDown tile) s =
      .next (updTile tile (fun t => { t with ramp := .idle }) s) := by
  change execArrayRampDown tile s = _
  simp only [execArrayRampDown, alone, Option.getD_none, free, pends, Bool.not_false, Bool.and_self, doWhen_true, List.foldl_cons,
    List.foldl_nil]

theorem arrayRampDown_together {s : State} {tile u : Nat} (member : runAt s tile = some u) (free : matrixBusy (getTile s u) = false)
    (pends : instancePends s tile = false) : exec (.arrayRampDown tile) s =
      .next ((runTiles s u).foldl (fun s v => updTile v (fun t => { t with ramp := .idle }) s) s) := by
  change execArrayRampDown tile s = _
  simp only [execArrayRampDown, member, Option.getD_some, free, pends, Bool.not_false, Bool.and_self, doWhen_true]

/-- Settles O24: each row runs where its guards hold; the accumulators a halt exposes leave the halted matrix as it stands. -/
theorem matrixRows : Obligations.MatrixRows := by
  intro s tile
  refine ⟨?start, fun r f k m => matrixInstanceEnd_ends, fun r f k m d o => guardReplayDone_delivers, ?halt,
    fun func r h => ⟨⟨_, dbgResume_resumes h, rfl⟩, dbgAbort_aborts h⟩,
    fun free alone pends => ⟨_, arrayRampDown_alone alone free pends, rfl⟩, fun u => arrayRampDown_together⟩
  case start =>
    intro d r f k b run stall free kernel taken
    exact mma_starts ⟨by rw [run]; rfl, stall⟩ free run kernel d taken
  case halt =>
    intro r f k m here running first halts
    rw [Runs, debugHalt_halts here running first halts]
    generalize exposed s f (parseMDesc k.level m.bytes) k.shape tile r.inst (haltedMatrix k m).chunks = els
    obtain ⟨_, filled, kept⟩ := fillAcc_changes tile els (updTile tile (fun w => { w with matrix := some (haltedMatrix k m) }) s)
    refine ⟨_, rfl, ⟨haltedMatrix k m, ?matrix, rfl, rfl, running, rfl⟩, ?frame⟩
    case matrix => rw [kept, getTile_updTile_same]
    case frame =>
      rw [filled]
      exact ⟨rfl, rfl, rfl, rfl⟩

end Sys2Proof.Machine

/-! PROOFS. The sequencer: its own instructions, SETVL, loops, waits, the vector instructions, and what stops the machine (O15 to
O19, O22). -/

namespace Sys2Proof.Machine

/-! ### Rows that change one tile -/

section TileRow
variable {s : State} {tile : Nat} {i : Instr} {f g : Tile → Tile}

/-- A row that changes one tile, which it leaves as `g` says. -/
theorem runs_tileStep (row : exec i s = .next (updTile tile f s)) (same : f (getTile s tile) = g (getTile s tile)) :
    Runs i s (TileStep tile g s) :=
  ⟨_, row, by rw [TileStep, ← same]; rfl⟩

theorem runs_of_guard {c : Bool} (row : exec i s = doWhen c (updTile tile f s) s) (holds : c = true)
    (same : f (getTile s tile) = g (getTile s tile)) : Runs i s (TileStep tile g s) :=
  runs_tileStep (row.trans (by rw [holds, doWhen_true])) same

/-- An instruction of the sequencer does what it does, and the pc moves on. -/
theorem seqOp_runs (hi : Issues s tile) (row : exec i s = seqOp tile f s) :
    Runs i s (TileStep tile (fun t => nextPc (f t)) s) :=
  runs_tileStep (row.trans (seqOp_issues hi f)) rfl

end TileRow

/-! ### SOP, SADV, GQ and END (R116, R126) -/

section Streams
variable {s : State} {tile st : Nat}

theorem sadv_runs (hi : Issues s tile) {x : Stream} (h : findStream (getTile s tile) st = some x) (n : SOp) :
    Runs (.sadv tile st n) s (TileStep tile (fun t => { t with
      streams := smSet t.streams st (advStream (tileConv s tile) (sval t n) x t)
      flags := t.flags ||| (if x.kind = 1 then streamFlag (tileConv s tile) x x.pos (sval t n) else 0)
      pc := t.pc + 1 }) s) :=
  runs_of_guard rfl (issues_of_issues hi) (by simp only [h]; rfl)

theorem gq_runs (hi : Issues s tile) {x : Stream} (h : findStream (getTile s tile) st = some x) (off cnt : SOp) :
    Runs (.gq tile st off cnt) s (TileStep tile (fun t => { t with
      streams := smSet t.streams st { x with
        idx := x.idx ++ (List.range (sval t cnt)).map (fun i =>
          num (spadRead t (tileConv s tile) (sval t off) (8 * sval t cnt)) (8 * i) 8) }
      flags := t.flags ||| spadFlag (tileConv s tile) (sval t off) (8 * sval t cnt)
      pc := t.pc + 1 }) s) :=
  runs_of_guard rfl (issues_of_issues hi) (by simp only [h]; rfl)

/-- SADV and GQ of a stream that the kernel has not defined only move the pc (log 14). -/
theorem sadv_gq_of_no_stream (hi : Issues s tile) (h : findStream (getTile s tile) st = none) (n off cnt : SOp) :
    Runs (.sadv tile st n) s (TileStep tile nextPc s) ∧ Runs (.gq tile st off cnt) s (TileStep tile nextPc s) :=
  ⟨runs_of_guard rfl (issues_of_issues hi) (by simp only [h]), runs_of_guard rfl (issues_of_issues hi) (by simp only [h])⟩

end Streams

/-- Settles O15: each row is one change of its tile; SADV and GQ by whether the kernel has defined the stream. -/
theorem sequencerRows : Obligations.SequencerRows := by
  intro s tile hi
  exact ⟨fun op d a b => runs_of_guard rfl (issues_of_issues hi) rfl, fun st n x h => sadv_runs hi h n,
    fun st off cnt x h => gq_runs hi h off cnt,
    fun st n off cnt h => sadv_gq_of_no_stream hi h n off cnt, runs_of_guard rfl (issues_of_issues hi) rfl⟩

/-! ### Loops (R114, R126; log 14) -/

section Loops
variable {s : State} {tile : Nat}

theorem vloop_opens (hi : Issues s tile) (free : (getTile s tile).vloop = none) (n : Nat) :
    exec (.vloop tile n) s = .next (updTile tile (vloopOpen n) s) := by
  change execVloop tile n s = _
  simp only [execVloop, issues_of_issues hi, free, Option.isSome_none, Bool.not_true, Bool.false_eq_true, if_false]

theorem vend_moves (hi : Issues s tile) {v : VLoop} (h : (getTile s tile).vloop = some v) :
    exec (.vend tile) s = .next (updTile tile (vendNext v) s) := by
  change execVend tile s = _
  simp only [execVend, issues_of_issues hi, h, Bool.not_true, Bool.false_eq_true, if_false]

theorem loop_opens (hi : Issues s tile) (free : (getTile s tile).vloop = none) (shallow : (getTile s tile).loops.length < 8)
    (src : SOp) (n : Nat) :
    exec (.loop tile src n) s = .next (updTile tile (loopOpen (sval (getTile s tile) src % 2 ^ 32) n) s) := by
  change execLoop tile src n s = _
  simp only [execLoop, issues_of_issues hi, free, Nat.not_le.2 shallow, Option.isSome_none, Bool.not_true, Bool.false_eq_true,
    if_false]

theorem lend_moves (hi : Issues s tile) (free : (getTile s tile).vloop = none) {l : Loop} {rest : List Loop}
    (h : (getTile s tile).loops = l :: rest) : exec (.lend tile) s = .next (updTile tile (lendNext l rest) s) := by
  change execLend tile s = _
  simp only [execLend, issues_of_issues hi, free, h, Option.isSome_none, Bool.not_true, Bool.false_eq_true, if_false]

/-! Ill-formed nests. -/

theorem vloop_in_vloop (hi : Issues s tile) {v : VLoop} (h : (getTile s tile).vloop = some v) (n : Nat) :
    exec (.vloop tile n) s = .fault .loopInVloop := by
  change execVloop tile n s = _
  simp only [execVloop, issues_of_issues hi, h, Option.isSome_some, Bool.not_true, Bool.false_eq_true, if_false, if_true]

theorem loop_in_vloop (hi : Issues s tile) {v : VLoop} (h : (getTile s tile).vloop = some v) (src : SOp) (n : Nat) :
    exec (.loop tile src n) s = .fault .loopInVloop := by
  change execLoop tile src n s = _
  simp only [execLoop, issues_of_issues hi, h, Option.isSome_some, Bool.not_true, Bool.false_eq_true, if_false, if_true]

theorem lend_in_vloop (hi : Issues s tile) {v : VLoop} (h : (getTile s tile).vloop = some v) :
    exec (.lend tile) s = .fault .lendWithoutLoop := by
  change execLend tile s = _
  simp only [execLend, issues_of_issues hi, h, Option.isSome_some, Bool.not_true, Bool.false_eq_true, if_false, if_true]

theorem vend_without_vloop (hi : Issues s tile) (free : (getTile s tile).vloop = none) :
    exec (.vend tile) s = .fault .vendWithoutVloop := by
  change execVend tile s = _
  simp only [execVend, issues_of_issues hi, free, Bool.not_true, Bool.false_eq_true, if_false]

theorem loop_too_deep (hi : Issues s tile) (free : (getTile s tile).vloop = none) (deep : 8 ≤ (getTile s tile).loops.length)
    (src : SOp) (n : Nat) : exec (.loop tile src n) s = .fault .loopDepth := by
  change execLoop tile src n s = _
  simp only [execLoop, issues_of_issues hi, free, deep, Option.isSome_none, Bool.not_true, Bool.false_eq_true, if_false, if_true]

theorem lend_without_loop (hi : Issues s tile) (free : (getTile s tile).vloop = none) (h : (getTile s tile).loops = []) :
    exec (.lend tile) s = .fault .lendWithoutLoop := by
  change execLend tile s = _
  simp only [execLend, issues_of_issues hi, free, h, Option.isSome_none, Bool.not_true, Bool.false_eq_true, if_false]

end Loops

/-- Settles O17: each loop instruction by the loops around it, an opening or a closing one then by its count. -/
theorem loopRows : Obligations.LoopRows := by
  intro s tile n hi
  refine ⟨fun free some => runs_tileStep (vloop_opens hi free n) (if_neg some),
    fun free none => runs_tileStep (vloop_opens hi free n) (if_pos none), ?inVloop, vend_without_vloop hi, ?loop,
    fun src free deep => loop_too_deep hi free deep src n, ?lend, lend_without_loop hi⟩
  case inVloop =>
    exact fun v h => ⟨fun more => runs_tileStep (vend_moves hi h) (if_pos more),
      fun last => runs_tileStep (vend_moves hi h) (if_neg (Nat.not_lt.2 last)), vloop_in_vloop hi h n,
      fun src => loop_in_vloop hi h src n, lend_in_vloop hi h⟩
  case loop =>
    exact fun src free shallow => ⟨fun zero => runs_tileStep (loop_opens hi free shallow src n) (if_pos zero),
      fun some => runs_tileStep (loop_opens hi free shallow src n) (if_neg some)⟩
  case lend =>
    exact fun l rest free h => ⟨fun more => runs_tileStep (lend_moves hi free h) (if_pos more),
      fun last => runs_tileStep (lend_moves hi free h) (if_neg (Nat.not_lt.2 last))⟩

/-! ### SETVL (R114) -/

theorem setVl_zero (t : Tile) : setVl 0 t = { t with vlZero := true } := rfl

theorem setVl_clamped {v : Nat} (h : 8192 < v) (t : Tile) : setVl v t = { t with
    vl := 8192
    vlZero := false
    flags := t.flags ||| fVlClamped } := by
  rw [setVl, if_neg (by omega), if_pos h]
  rfl

theorem setVl_inRange {v : Nat} (h0 : 0 < v) (h : v ≤ 8192) (t : Tile) : setVl v t = { t with
    vl := v
    vlZero := false } := by
  rw [setVl, if_neg (by omega), if_neg (by omega)]

theorem vStrips_of_mark_clear {t : Tile} (h : t.vlZero = false) : vStrips t = ceilDiv t.vl 128 := by
  rw [vStrips, h, if_neg Bool.false_ne_true]

/-- SETVL changes VL, its mark of a zero and the flags, nothing else. -/
theorem setVl_changes (v : Nat) (t : Tile) : setVl v t = { t with
    vl := (setVl v t).vl
    vlZero := (setVl v t).vlZero
    flags := (setVl v t).flags } := by
  rcases Nat.eq_zero_or_pos v with rfl | pos
  · rfl
  · rcases Nat.lt_or_ge 8192 v with above | within
    · rw [setVl_clamped above]
    · rw [setVl_inRange pos within]

/-- After a SETVL of 0 the next VLOOP runs no strips: it skips its body, once. -/
theorem vloop_after_setvl_zero {s u : State} {tile : Nat} {src : SOp} (hi : Issues s tile) (zero : sval (getTile s tile) src = 0)
    (free : (getTile s tile).vloop = none) (hu : TileStep tile (fun t => nextPc (setVl (sval t src) t)) s u) (n : Nat) :
    Runs (.vloop tile n) u (TileStep tile (fun w => { w with
      vlZero := false
      pc := w.pc + n + 2 }) u) := by
  have tileOf : getTile u tile = nextPc { getTile s tile with vlZero := true } := by
    rw [hu, ← setVl_zero, ← zero]
    exact getTile_updTile_same tile (fun t => nextPc (setVl (sval t src) t)) s
  have issuing : Issues u tile := by rw [Issues, tileOf]; exact hi
  have none : (getTile u tile).vloop = none := by rw [tileOf]; exact free
  have strips : vStrips (getTile u tile) = 0 := by rw [tileOf]; rfl
  exact runs_tileStep (vloop_opens issuing none n) (if_pos strips)

/-- Settles O16: the source value is zero, above 8,192 or between, and SETVL touches only VL, its mark and the flags. -/
theorem setvlRule : Obligations.SetvlRule := by
  intro s tile src hi
  refine ⟨fun t => nextPc (setVl (sval t src) t), seqOp_runs hi rfl, ?_⟩
  intro v t'
  have isNext : t' = nextPc (setVl v (getTile s tile)) := rfl
  have changes := setVl_changes v (getTile s tile)
  refine ⟨?pc, fun zero => ?zero, fun above => ?above, fun pos within => ?within, ?frame,
    fun n u zero free hu => vloop_after_setvl_zero hi zero free hu n⟩
  case pc => rw [isNext, changes]; rfl
  case zero => rw [isNext, zero, setVl_zero]; exact ⟨rfl, rfl, rfl⟩
  case above =>
    have full : ceilDiv 8192 128 = 64 := by decide
    rw [isNext, setVl_clamped above]
    exact ⟨rfl, (vStrips_of_mark_clear rfl).trans full, rfl⟩
  case within => rw [isNext, setVl_inRange pos within]; exact ⟨rfl, vStrips_of_mark_clear rfl, rfl⟩
  case frame => rw [isNext, changes]; rfl

/-! ### Waits (R126) -/

section Waits
variable {s : State} {tile : Nat}

theorem swait_runs (hi : Issues s tile) {st : Nat} {x : Stream} (h : findStream (getTile s tile) st = some x) (n : SOp) :
    Runs (.swait tile st n) s (TileStep tile (fun t =>
      if swaitMet x (sval t n) then nextPc t else { t with stall := .swait st (sval t n) }) s) :=
  runs_of_guard rfl (issues_of_issues hi) (by simp only [h])

theorem swait_of_no_stream (hi : Issues s tile) {st : Nat} (h : findStream (getTile s tile) st = none) (n : SOp) :
    Runs (.swait tile st n) s (TileStep tile (fun t => { t with stall := .swait st (sval t n) }) s) :=
  runs_of_guard rfl (issues_of_issues hi) (by simp only [h])

theorem fwait_own (hi : Issues s tile) {fe : SOp} (own : fenceOwner s (sval (getTile s tile) fe % 2 ^ 18) = runPart s tile) (v : SOp) :
    Runs (.fwait tile fe v) s (TileStep tile (fun t =>
      if sval t v ≤ fenceVal s (sval t fe % 2 ^ 18) then nextPc t
      else { t with stall := .fwait (sval t fe % 2 ^ 18) (sval t v) (now s) }) s) :=
  runs_of_guard rfl (issues_of_issues hi) (by simp only [own, bne_self_eq_false, Bool.false_or, decide_eq_true_eq])

/-- A fence of another partition is not waited for (log 15). -/
theorem fwait_foreign (hi : Issues s tile) {fe : SOp} (foreign : fenceOwner s (sval (getTile s tile) fe % 2 ^ 18) ≠ runPart s tile)
    (v : SOp) : Runs (.fwait tile fe v) s (TileStep tile nextPc s) :=
  runs_of_guard rfl (issues_of_issues hi) (if_pos (by rw [bne_iff_ne.2 foreign, Bool.true_or]))

theorem fwaitReady_of_reached {f v since : Nat} (h : (getTile s tile).stall = .fwait f v since) (reached : v ≤ fenceVal s f) :
    fwaitReady s (getTile s tile) = true := by
  simp only [fwaitReady, h, reached, decide_true]

end Waits

/-- Settles O19: an instruction of a wait goes on or stalls by its condition; the row that ends the wait is guarded by it. -/
theorem waitRows : Obligations.WaitRows := by
  intro s tile
  refine ⟨fun hi => ⟨fun st n x h => swait_runs hi h n, fun st n h => swait_of_no_stream hi h n,
      fun st => runs_of_guard rfl (issues_of_issues hi) rfl, runs_of_guard rfl (issues_of_issues hi) rfl,
      fun fe v own => fwait_own hi own v, fun fe v foreign => fwait_foreign hi foreign v⟩,
    fun ready => runs_of_guard rfl ready rfl, fun ready => runs_of_guard rfl ready rfl, fun f v since h reached => ?met⟩
  case met => exact runs_of_guard rfl (fwaitReady_of_reached h reached) rfl

/-! ### Vector instructions (R116, R118) -/

/-- Settles O22: each vector instruction is one operation of the sequencer on its tile. -/
theorem vectorRows : Obligations.VectorRows := by
  intro s tile hi
  exact ⟨fun op h m d a b c => seqOp_runs hi rfl, fun op m d a b => seqOp_runs hi rfl, fun op m d a b => seqOp_runs hi rfl,
    fun op d a b => seqOp_runs hi rfl, fun op m d a => seqOp_runs hi rfl, fun fn m d a => seqOp_runs hi rfl,
    fun r m d a b => seqOp_runs hi rfl, fun op m d a => seqOp_runs hi rfl, fun op h m d a => seqOp_runs hi rfl,
    fun m d x => seqOp_runs hi rfl, fun m a x => seqOp_runs hi rfl⟩

end Sys2Proof.Machine

/-! PROOFS. What stops the machine: an ill-formed nest of loops alone (O18). -/

namespace Sys2Proof.Machine

/-! ### Rows that answer in every case

Most rows are a next state as they are written. Those below branch first. -/

/-- The answer is a next state. -/
abbrev Answers (r : Res) : Prop := ∃ t, r = .next t

/-- A row of the channel controllers answers whether they are on or off. -/
theorem memRow_answers (t s : State) : Answers (memRow s (.next t)) := by
  cases on : hbmOn s with
  | true => exact ⟨t, by rw [memRow, on, if_pos rfl]⟩
  | false => exact ⟨s, by rw [memRow, on, if_neg Bool.false_ne_true]⟩

theorem mma_answers (tile : Nat) (d : SOp) (s : State) : Answers (exec (.mma tile d) s) := by
  change Answers (execMma tile d s)
  unfold execMma
  dsimp only
  split <;> exact ⟨_, rfl⟩

/-! The rows of the beat head wait for an edge, the period switch for a switch. -/

theorem admissionResume_answers (s : State) : Answers (exec .admissionResume s) := by
  change Answers (execAdmissionResume s)
  unfold execAdmissionResume
  split <;> exact ⟨_, rfl⟩

theorem beatHeadEnd_answers (s : State) : Answers (exec .beatHeadEnd s) := by
  change Answers (execBeatHeadEnd s)
  unfold execBeatHeadEnd
  split <;> exact ⟨_, rfl⟩

theorem beatPeriodSwitch_answers (s : State) : Answers (exec .beatPeriodSwitch s) := by
  change Answers (execBeatPeriodSwitch s)
  unfold execBeatPeriodSwitch
  split <;> exact ⟨_, rfl⟩

theorem minSvnUpdate_answers (writeOk : Bool) (s : State) : Answers (exec (.minSvnUpdate writeOk) s) := by
  change Answers (execMinSvnUpdate writeOk s)
  unfold execMinSvnUpdate
  split <;> exact ⟨_, rfl⟩

/-! ### Loops -/

/-- The answer is a next state, or a fault of a tile that issues. -/
abbrev AnswersOrStops (s : State) (tile : Nat) (r : Res) : Prop := Answers r ∨ ∃ f, r = .fault f ∧ Issues s tile

theorem issues_iff {s : State} {tile : Nat} : issues (getTile s tile) = true ↔ Issues s tile := by
  simp only [issues, Bool.and_eq_true, beq_iff_eq]

section Loops
variable {s : State} {tile : Nat}

theorem not_issues_of_idle (idle : ¬ Issues s tile) : (!issues (getTile s tile)) = true := by
  simpa using mt issues_iff.1 idle

theorem vloop_idle (idle : ¬ Issues s tile) (n : Nat) : exec (.vloop tile n) s = .next s := if_pos (not_issues_of_idle idle)
theorem vend_idle (idle : ¬ Issues s tile) : exec (.vend tile) s = .next s := if_pos (not_issues_of_idle idle)
theorem loop_idle (idle : ¬ Issues s tile) (src : SOp) (n : Nat) : exec (.loop tile src n) s = .next s :=
  if_pos (not_issues_of_idle idle)
theorem lend_idle (idle : ¬ Issues s tile) : exec (.lend tile) s = .next s := if_pos (not_issues_of_idle idle)

variable (s tile)

theorem vloop_answers_or_stops (n : Nat) : AnswersOrStops s tile (exec (.vloop tile n) s) := by
  by_cases hi : Issues s tile
  · cases h : (getTile s tile).vloop with
    | none => exact .inl ⟨_, vloop_opens hi h n⟩
    | some v => exact .inr ⟨_, vloop_in_vloop hi h n, hi⟩
  · exact .inl ⟨s, vloop_idle hi n⟩

theorem vend_answers_or_stops : AnswersOrStops s tile (exec (.vend tile) s) := by
  by_cases hi : Issues s tile
  · cases h : (getTile s tile).vloop with
    | none => exact .inr ⟨_, vend_without_vloop hi h, hi⟩
    | some v => exact .inl ⟨_, vend_moves hi h⟩
  · exact .inl ⟨s, vend_idle hi⟩

theorem loop_answers_or_stops (src : SOp) (n : Nat) : AnswersOrStops s tile (exec (.loop tile src n) s) := by
  by_cases hi : Issues s tile
  · cases h : (getTile s tile).vloop with
    | some v => exact .inr ⟨_, loop_in_vloop hi h src n, hi⟩
    | none =>
      rcases Nat.lt_or_ge (getTile s tile).loops.length 8 with shallow | deep
      · exact .inl ⟨_, loop_opens hi h shallow src n⟩
      · exact .inr ⟨_, loop_too_deep hi h deep src n, hi⟩
  · exact .inl ⟨s, loop_idle hi src n⟩

theorem lend_answers_or_stops : AnswersOrStops s tile (exec (.lend tile) s) := by
  by_cases hi : Issues s tile
  · cases h : (getTile s tile).vloop with
    | some v => exact .inr ⟨_, lend_in_vloop hi h, hi⟩
    | none =>
      cases around : (getTile s tile).loops with
      | nil => exact .inr ⟨_, lend_without_loop hi h around, hi⟩
      | cons l rest => exact .inl ⟨_, lend_moves hi h around⟩
  · exact .inl ⟨s, lend_idle hi⟩

end Loops

/-- Settles O18: the four loop instructions stop where their nest is ill-formed; the rows that branch before they answer, answer on
each branch; every other row is a next state as written. -/
theorem onlyLoopsStop : Obligations.OnlyLoopsStop := by
  intro i s
  cases i with
  | vloop tile n => exact (vloop_answers_or_stops s tile n).imp_right fun ⟨f, h, hi⟩ =>
      ⟨tile, f, h, hi, .inr (.inr (.inl ⟨n, rfl⟩))⟩
  | vend tile => exact (vend_answers_or_stops s tile).imp_right fun ⟨f, h, hi⟩ => ⟨tile, f, h, hi, .inl rfl⟩
  | loop tile src n => exact (loop_answers_or_stops s tile src n).imp_right fun ⟨f, h, hi⟩ =>
      ⟨tile, f, h, hi, .inr (.inr (.inr ⟨src, n, rfl⟩))⟩
  | lend tile => exact (lend_answers_or_stops s tile).imp_right fun ⟨f, h, hi⟩ => ⟨tile, f, h, hi, .inr (.inl rfl)⟩
  | mma tile d => exact .inl (mma_answers tile d s)
  | admissionResume => exact .inl (admissionResume_answers s)
  | beatHeadEnd => exact .inl (beatHeadEnd_answers s)
  | beatPeriodSwitch => exact .inl (beatPeriodSwitch_answers s)
  | minSvnUpdate writeOk => exact .inl (minSvnUpdate_answers writeOk s)
  | channelRequest | channelServe | guardWindowStart | refresh | retrainSlot | retrainDone | zeroFillDone | scrubRead
  | scrubPriorityTimeout | mapoutStart | mapoutCmd | mapoutFrameStaged | mapoutFrameWritten => exact .inl (memRow_answers _ s)
  | _ => exact .inl ⟨_, rfl⟩

end Sys2Proof.Machine

/-! PROOFS. The lanes of a register written lane by lane (O23). -/

namespace Sys2Proof.Machine

/-! ### A range written over a sparse map -/

section PutRange
variable {α : Type}

theorem smFind_append_of_lt {a : SMap α} {i : Nat} (below : ∀ kv ∈ a, kv.1 < i) (b : SMap α) : smFind (a ++ b) i = smFind b i := by
  induction a with
  | nil => rfl
  | cons kv a ih =>
    obtain ⟨first, rest⟩ := List.forall_mem_cons.1 below
    rw [List.cons_append, smFind, if_neg (by omega), if_neg (by omega), ih rest]

/-- The entries a range of values makes, numbered from `n`. -/
theorem smFind_range {vs : List α} {l : Nat} (h : l < vs.length) (lo n : Nat) (m : SMap α) :
    smFind ((vs.zipIdx n).map (fun v => (lo + v.2, v.1)) ++ m) (lo + (n + l)) = some vs[l] := by
  induction vs generalizing l n with
  | nil => exact absurd h (Nat.not_lt_zero l)
  | cons v vs ih =>
    rw [List.zipIdx_cons, List.map_cons, List.cons_append, smFind]
    cases l with
    | zero => exact if_pos rfl
    | succ l =>
      have next : lo + (n + (l + 1)) = lo + (n + 1 + l) := by omega
      rw [if_neg (by omega), if_neg (by omega), next, ih (Nat.lt_of_succ_lt_succ h)]
      rfl

theorem smFind_smPutRange {vs : List α} {l : Nat} (h : l < vs.length) (m : SMap α) (lo : Nat) :
    smFind (smPutRange m lo vs) (lo + l) = some vs[l] := by
  have below : ∀ kv ∈ m.filter (fun kv => kv.1 < lo), kv.1 < lo + l := fun kv hkv => by
    have := (List.mem_filter.1 hkv).2
    simp only [decide_eq_true_eq] at this
    omega
  have found := smFind_range h lo 0 (m.filter fun kv => lo + vs.length ≤ kv.1)
  rw [Nat.zero_add] at found
  rw [smPutRange, List.append_assoc, smFind_append_of_lt below, found]

/-- Outside the range the map holds what it held. -/
theorem mem_smPutRange_of_outside {vs : List α} {lo : Nat} {kv : Nat × α} (h : kv.1 < lo ∨ lo + vs.length ≤ kv.1) (m : SMap α) :
    kv ∈ smPutRange m lo vs ↔ kv ∈ m := by
  have apart : kv ∉ vs.zipIdx.map (fun v => (lo + v.2, v.1)) := fun hkv => by
    obtain ⟨v, hv, rfl⟩ := List.mem_map.1 hkv
    have := List.snd_lt_of_mem_zipIdx hv
    simp only at h
    omega
  have kept : kv ∈ m ∧ kv.1 < lo ∨ kv ∈ m ∧ lo + vs.length ≤ kv.1 ↔ kv ∈ m := by
    rw [← and_or_left]
    exact and_iff_left h
  simp only [smPutRange, List.mem_append, List.mem_filter, decide_eq_true_eq, apart, or_false, kept]

end PutRange

/-! ### One register -/

theorem vget_vput_same {vs : List U32} {l : Nat} (h : l < vs.length) (d : Fin 32) (t : Tile) : vget (vput d vs t) d l = vs[l] := by
  rw [vget, vput, smGet, smFind_smPutRange h, Option.getD_some]

theorem mem_vput_of_other {vs : List U32} {d : Fin 32} {kv : Nat × U32} (full : vs.length = 128) (other : kv.1 / 128 ≠ d.val)
    (t : Tile) : kv ∈ (vput d vs t).vreg ↔ kv ∈ t.vreg :=
  mem_smPutRange_of_outside (by omega) t.vreg

/-! ### Lane by lane (R118 to R120) -/

section Lanes
variable (m : VMask) (d : Fin 32) (res : Nat → U32 × U32) (t : Tile)

/-- The lane a write leaves: its result where it is active (R118), else what R119 says. -/
def laneAfter (l : Nat) : U32 :=
  if active t m (curStrip t) l then (res l).1 else inactiveLane t m (vget t d l) (res l).1

/-- The flags the active lanes raise (R120). -/
def laneFlags : U32 :=
  (List.range 128).foldl (fun f l => if active t m (curStrip t) l then f ||| (res l).2 else f) 0

theorem vwrite_eq : vwrite m d res t =
    orFlags (withSource fSrcVector (laneFlags m res t) ||| mergeFlag t m) (vput d ((List.range 128).map (laneAfter m d res t)) t) := by
  simp only [vwrite, laneFlags, List.map_map, List.foldl_map]
  rfl

variable {m d res t}

theorem vget_vwrite {l : Nat} (h : l < 128) : vget (vwrite m d res t) d l = laneAfter m d res t l := by
  have inside : l < ((List.range 128).map (laneAfter m d res t)).length := by simpa using h
  rw [vwrite_eq]
  calc vget (vput d ((List.range 128).map (laneAfter m d res t)) t) d l
      = ((List.range 128).map (laneAfter m d res t))[l] := vget_vput_same inside d t
    _ = laneAfter m d res t l := by rw [List.getElem_map, List.getElem_range]

theorem laneAfter_active {l : Nat} (h : active t m (curStrip t) l = true) : laneAfter m d res t l = (res l).1 := if_pos h

theorem laneAfter_inactive {l : Nat} (h : active t m (curStrip t) l = false) :
    laneAfter m d res t l = inactiveLane t m (vget t d l) (res l).1 := if_neg (by rw [h]; exact Bool.false_ne_true)

/-- Active lanes that raise nothing leave no flag. -/
theorem laneFlags_of_none (quiet : ∀ l, l < 128 → active t m (curStrip t) l = true → (res l).2 = 0) : laneFlags m res t = 0 := by
  refine List.foldlRecOn _ _ (motive := fun f : U32 => f = 0) rfl fun f hf l hl => ?_
  subst hf
  split
  next on => rw [quiet l (List.mem_range.1 hl) on]; rfl
  next => rfl

theorem flags_vwrite_of_none (quiet : ∀ l, l < 128 → active t m (curStrip t) l = true → (res l).2 = 0) (merge : mergeFlag t m = 0) :
    (vwrite m d res t).flags = t.flags := by
  rw [vwrite_eq, laneFlags_of_none quiet, merge]
  exact BitVec.or_zero

end Lanes

/-- Settles O23: a written register reads lane by lane as `laneAfter`, and the flags are those of the active lanes. -/
theorem lanesOfAWrite : Obligations.LanesOfAWrite := by
  intro m d res t
  refine ⟨fun l h on => ?active, ?zero, ?merge, fun kv other => ?other, ?frame, flags_vwrite_of_none⟩
  case active => rw [vget_vwrite h, laneAfter_active on]
  case zero =>
    rintro l k h off rfl
    rw [vget_vwrite h, laneAfter_inactive off, inactiveLane]
  case merge =>
    rintro l k h off rfl
    rw [vget_vwrite h, laneAfter_inactive off, inactiveLane]
  case other =>
    rw [vwrite_eq]
    exact mem_vput_of_other (by rw [List.length_map, List.length_range]) other t
  case frame =>
    rw [vwrite_eq]
    rfl

end Sys2Proof.Machine

/-! PROOFS. Instances and kernels: their start, their end and their overrun (O25); data and acknowledgements of streams (O28). -/

namespace Sys2Proof.Machine

/-! ### The start of a run (R320, R401) -/

section Start
variable {s : State} {tile fl inst : Nat} {f : Flight} {k : Kernel}

/-- Of a kernel that is not over, where no check wants its run on this array, a primary may start. -/
theorem instanceStart_primary (kernel : kernelOf s fl = some (f, k)) (running : f.done = none)
    (unchecked : (s.integ.checks.find? fun c => c.2.flight = fl && c.2.inst = inst && checkWants s tile c.2) = none) :
    exec (.instanceStart tile fl inst) s = .next (primaryStart f k tile inst s) := by
  change execInstanceStart tile fl inst s = _
  simp only [execInstanceStart, kernel, unchecked, running, Option.isSome_none, Bool.false_eq_true, if_false]

theorem instanceStart_check (kernel : kernelOf s fl = some (f, k)) {c : Nat} {x : Check}
    (wanted : (s.integ.checks.find? fun c => c.2.flight = fl && c.2.inst = inst && checkWants s tile c.2) = some (c, x))
    (free : arrayFree s k.shape tile = true) : exec (.instanceStart tile fl inst) s = .next (checkStart f k c x tile s) := by
  change execInstanceStart tile fl inst s = _
  simp only [execInstanceStart, kernel, wanted, free, if_true]

end Start

/-! ### The end of a run and of a kernel (R122) -/

theorem instanceEnd_ends {s : State} {tile : Nat} {r : Run} (runs : (getTile s tile).run.isSome = true)
    (ending : (getTile s tile).stall = .ending) (done : storesDone s tile = true)
    (after : (getTile (gatherFences tile s) tile).run = some r) :
    exec (.instanceEnd tile) s = .next (endRun tile r (gatherFences tile s)) := by
  obtain ⟨r0, run⟩ := Option.isSome_iff_exists.1 runs
  change execInstanceEnd tile s = _
  simp only [execInstanceEnd, run, ending, done, after, beq_self_eq_true, Bool.and_self, if_true]

theorem kernelComplete_completes {s : State} {fl : Nat} {f : Flight} {k : Kernel} (kernel : kernelOf s fl = some (f, k))
    (ended : kernelOver f k = true) : exec (.kernelComplete fl) s = .next (completeKernel f k s) := by
  change execKernelComplete fl s = _
  simp only [execKernelComplete, kernel, ended, if_true]

/-! ### The overrun (R321) -/

section Overrun
variable {s : State} {tile : Nat} {r : Run} {f : Flight}

/-- The event of an overrun, counted for the partition. -/
def overrunNoted (f : Flight) (r : Run) (tile : Nat) (s : State) : State :=
  updPart f.part (fun p => { p with durOver := satAdd 32 p.durOver 1 }) (emit (srcTile tile) evDurationOverrun f.part
    [(20, 2, f.queue), (24, 4, hReady f.slot), (28, 4, r.durationUs), (32, 4, (now s - r.start) / 1000)] s)

theorem durationOverrun_reports (run : (getTile s tile).run = some r) (flight : findFlight s r.flight = some f)
    (first : r.overrun = false) (late : r.start + r.durationUs * 1000 < now s) : exec (.durationOverrun tile) s =
      .next (updTile tile (fun w => { w with run := some { r with overrun := true } }) (overrunNoted f r tile s)) := by
  change execDurationOverrun tile s = _
  simp only [execDurationOverrun, overrunNoted, run, flight, first, Nat.not_le.2 late, decide_false, Bool.or_self, Bool.false_eq_true,
    if_false]

/-- Past its event, an overrun leaves everything but the partition's count. -/
theorem overrunNoted_changes (f : Flight) (r : Run) (tile : Nat) (s : State) :
    (∃ e, (overrunNoted f r tile s).tele.events = s.tele.events ++ [e] ∧ e.code = evDurationOverrun ∧ e.part = f.part) ∧
    (overrunNoted f r tile s).mem = s.mem ∧ (overrunNoted f r tile s).flights = s.flights ∧
    (overrunNoted f r tile s).queues = s.queues ∧ (overrunNoted f r tile s).clock = s.clock ∧
    (overrunNoted f r tile s).tiles = s.tiles := by
  simp only [overrunNoted, updPart_tele, updPart_mem, updPart_flights, updPart_queues, updPart_clock, updPart_tiles]
  exact ⟨⟨_, rfl, rfl, rfl⟩, rfl, rfl, rfl, rfl, rfl⟩

end Overrun

/-! ### The check of a long run (R411) -/

/-- A run checked late, from its own start on. -/
def checkedLate (tile : Nat) (r : Run) (c : Nat) (s : State) : State :=
  setCheck c (fun x => { x with start := r.start }) (updTile tile (fun w => { w with run := some { r with check := some c } }) s)

theorem longInstanceCheck_checks {s s1 : State} {tile dup c : Nat} {r : Run} {f : Flight} {k : Kernel} {x : Check}
    (run : (getTile s tile).run = some r) (kernel : kernelOf s r.flight = some (f, k)) (primary : r.role = .primary)
    (unchecked : r.check = none) (long : r.start + 4000000 ≤ now s) (added : addCheck f r.inst 3 tile false false s = (c, s1))
    (found : smFind (checkedLate tile r c s1).integ.checks c = some x)
    (eligible : (dupArrays (checkedLate tile r c s1) x k).contains dup = true) : exec (.longInstanceCheck tile dup) s =
      .next (if arrayFree (checkedLate tile r c s1) k.shape dup then checkStart f k c x dup (checkedLate tile r c s1)
        else updTile dup (fun w => { w with reserved := some c }) (checkedLate tile r c s1)) := by
  have due : (r.role != .primary || r.check.isSome || decide (now s < r.start + 4000000)) = false := by
    simp [primary, unchecked, long]
  unfold checkedLate at found eligible ⊢
  change execLongInstanceCheck tile dup s = _
  simp only [execLongInstanceCheck, run, kernel, due, added, found, eligible, Bool.not_true, Bool.false_eq_true, if_false]

/-- Settles O25: each row runs where its guards hold; the overrun adds one event and the run's mark. -/
theorem instanceRows : Obligations.InstanceRows := by
  intro s
  refine ⟨fun tile fl inst f k => instanceStart_primary,
    fun tile fl inst f k c x kernel _ wanted free => instanceStart_check kernel wanted free,
    fun tile r => instanceEnd_ends, fun fl f k => kernelComplete_completes, ?overrun, ?long⟩
  case overrun =>
    intro tile r f run flight first late
    obtain ⟨event, mem, flights, queues, clock, tiles⟩ := overrunNoted_changes f r tile s
    refine ⟨_, durationOverrun_reports run flight first late, event, mem, flights, queues, clock, ?_⟩
    rw [updTile_tiles, getTile, tiles]
    rfl
  case long =>
    intro tile dup r f k c s1 x run kernel primary unchecked long added found s2 eligible
    exact longInstanceCheck_checks run kernel primary unchecked long added.symm found eligible

/-! ### Streams (R133, R135, R139, R140) -/

section StreamData
variable {s : State} {tile engine : Nat} {x : Stream} {f : Flight}

theorem streamResponse_load (stream : findStream (getTile s tile) engine = some x) (flight : tileFlight s tile = some f)
    (load : x.kind = 0) (n : Nat) (d : List Byte) :
    exec (.streamResponse tile engine n d) s = .next (killsDue (loadDeliver tile engine n d f x s)) := by
  change execStreamResponse tile engine n d s = _
  simp only [execStreamResponse, stream, flight, load, if_true]

theorem streamResponse_gather (stream : findStream (getTile s tile) engine = some x) (flight : tileFlight s tile = some f)
    (gather : x.kind = 2) (n : Nat) (d : List Byte) :
    exec (.streamResponse tile engine n d) s = .next (killsDue (gatherDeliver tile engine d f x s)) := by
  change execStreamResponse tile engine n d s = _
  simp only [execStreamResponse, stream, flight, gather, if_true]
  rfl

theorem storeAck_done (stream : findStream (getTile s tile) engine = some x) {u i : Nat} {r : Run} {p : PendStore}
    (place : runAt s tile = some u) (run : (getTile s u).run = some r) (pending : x.pend[i]? = some p)
    (flight : findFlight s r.flight = some f) (store : x.kind = 1) :
    exec (.storeAck tile engine i) s = .next (killsDue (storeDone tile engine f u r x i p s)) := by
  change execStoreAck tile engine i s = _
  simp only [execStoreAck, stream, place, run, pending, flight, store, if_true]

end StreamData

/-- Settles O28: a response by the kind of its stream, an acknowledgement by the store it names. -/
theorem streamRows : Obligations.StreamRows := by
  intro s tile engine x stream
  exact ⟨fun f n d flight => ⟨fun load => streamResponse_load stream flight load n d,
      fun gather => streamResponse_gather stream flight gather n d⟩,
    fun u r f i p place run pending flight store => storeAck_done stream place run pending flight store⟩

end Sys2Proof.Machine

/-! PROOFS. Loss of the host link (O30). -/

namespace Sys2Proof.Machine

/-- A link loss leaves the mark of the link IDE stream as it was: R361 does not name it, and R359 has it end with a failed integrity
check. -/
theorem linkLost_linkIde_of_no_requests {s : State} (h : s.link.hostReqs = []) (cause : Nat) :
    (linkLost cause s).link.linkIde = s.link.linkIde := by
  simp only [linkLost, h, List.foldl_nil]
  rfl

/-- The reset state with a trained link whose link IDE stream is secure. -/
def secureLink : State := { State.reset with link := {
  up := true
  linkIde := true } }

/-- Refutes O30: by its third clause the link IDE stream is not secure after a link loss, but on `secureLink` it stays secure. -/
theorem not_linkAndHostMemoryRows : ¬ Obligations.LinkAndHostMemoryRows := by
  intro h
  obtain ⟨ofLink, -⟩ := h
  obtain ⟨-, -, lost, -⟩ := ofLink secureLink
  obtain ⟨-, -, -, -, -, notSecure⟩ := lost 0
  have secure : (linkLost 0 secureLink).link.linkIde = true := linkLost_linkIde_of_no_requests rfl 0
  exact Bool.false_ne_true (notSecure.symm.trans secure)

end Sys2Proof.Machine

/-! PROOFS. Online updates: the apply beat (O49), closing, merging and the apply window (O50). -/

namespace Sys2Proof.Machine

/-! ### The apply beat (R186) -/

section ApplyBeat
variable {s : State} {t : Table}

theorem applyBeat_of_before (h : now s < closeAt s t (beatNo s + 1)) : applyBeat s t = beatNo s + 1 := if_pos h

theorem applyBeat_of_past (h : closeAt s t (beatNo s + 1) ≤ now s) : applyBeat s t = beatNo s + 2 := if_neg (Nat.not_lt.2 h)

end ApplyBeat

/-- Settles O49: the cutoff of the rule is the instant at which the table closes collection for the next beat. -/
theorem applyBeatRule : Obligations.ApplyBeatRule := by
  rintro s t _ rfl
  exact ⟨applyBeat_of_before, applyBeat_of_past⟩

/-! ### Closing (R187) -/

theorem now_advance (t : Nat) (s : State) : now (advance t s) = max (now s) t := rfl

theorem now_le_advance (t : Nat) (s : State) : now s ≤ now (advance t s) := Nat.le_max_left _ _

/-- An instant bounded by `e - 1` leaves the clock below `e`, or where it was; `e` may be 0. -/
theorem now_advance_of_bounded {s : State} {t e : Nat} (h : t ≤ e - 1) : now (advance t s) = now s ∨ now (advance t s) < e := by
  rw [now_advance]
  omega

/-- One row closes the next beat's collection on every table of the partition (log 25). -/
theorem collectionClose_closes {s : State} {p : Nat} (part : (findPart s p).isSome = true)
    (still : s.tables.closed.contains (p, beatNo s + 1) = false) : exec (.collectionClose p) s =
      .next (updTables (fun x => { x with closed := x.closed ++ [(p, beatNo s + 1)] })
        (advance (min (closeInstant s p) ((beatNo s + 1) * beatNs s - 1)) s)) := by
  change execCollectionClose p s = _
  rw [execCollectionClose, part, still, Bool.not_false, Bool.and_true, doWhen_true]

/-! ### Merging (R191) -/

section Merge
variable {s : State} {p die a : Nat} {w : Part}

/-- A merge that is due goes before every batch that waits. -/
theorem beginBatch_of_mergeBeat (due : mergeBeat s p die = some a) : beginBatch p die s = s := by
  rw [beginBatch, due, Option.isSome_some, Bool.or_true, if_pos rfl]

theorem updateMergeDone_merges (due : mergeBeat s p die = some a) (part : findPart s p = some w) (own : die < (partDies w).length)
    (free : yarrowBusy s p die = false) {k : Nat} (keys : k = ((entriesFor s p a).filter fun e => e.die = die).length) :
    exec (.updateMergeDone p die) s = .next (beginBatch p die (meterKeys p k (takeCharge p (keyCharge k) true { s with
      tables := { s.tables with merged := s.tables.merged ++ [(p, die, a)] } }))) := by
  subst keys
  change execUpdateMergeDone p die s = _
  simp only [execUpdateMergeDone, due, part, own, free, decide_true, Bool.not_false, Bool.and_true, if_true]
  rfl

/-- A batch in progress finishes before the merge. -/
theorem updateMergeDone_waits (busy : yarrowBusy s p die = true) : exec (.updateMergeDone p die) s = .next s := by
  change execUpdateMergeDone p die s = _
  simp only [execUpdateMergeDone, busy, Bool.not_true, Bool.and_false, Bool.false_eq_true, if_false]
  split <;> rfl

end Merge

/-! ### The apply window (R192), begun and applied in one step each (log 26) -/

theorem applyWindowStart_starts {s : State} {p a : Nat} (idle : smFind s.tables.windows p = none) (ready : windowBeat s p = some a) :
    exec (.applyWindowStart p) s = .next (startWindow p a s) := by
  change execApplyWindowStart p s = _
  simp only [execApplyWindowStart, idle, ready, Option.isSome_none, Bool.false_eq_true, if_false]

theorem applyWindowEnd_ends {s : State} {p : Nat} {w : Window_} (runs : smFind s.tables.windows p = some w) :
    exec (.applyWindowEnd p) s = .next (endWindow p w s) := by
  change execApplyWindowEnd p s = _
  simp only [execApplyWindowEnd, runs]

/-- Settles O50: a close leaves the clock within the beat, a merge goes by whether its die is at work, and the window's
rows start and end it. -/
theorem updateRows : Obligations.UpdateRows := by
  intro s p
  refine ⟨fun part still => ?close, fun die a w due part own => ?merge, fun a => applyWindowStart_starts,
    fun w => applyWindowEnd_ends⟩
  case close =>
    exact ⟨_, collectionClose_closes part still, rfl, rfl, rfl, rfl, rfl, now_le_advance _ s,
      now_advance_of_bounded (Nat.min_le_right _ _)⟩
  case merge =>
    exact ⟨fun free => ⟨_, rfl, updateMergeDone_merges due part own free rfl⟩, updateMergeDone_waits,
      beginBatch_of_mergeBeat due⟩

end Sys2Proof.Machine

/-! PROOFS. Memory's canonical form: every step keeps it (O4), and what a byte reads as after a write (O7). -/

namespace Sys2Proof.Machine

/-! ### The step keeps the canonical form -/

/-- No command touches the queue or breaks memory's canonical form: row by row, as its meaning keeps both. -/
theorem exec_keeps {s0 s : State} (h : Keeps s0 s) (c : Instr) : KeepsRes s0 (exec c s) :=
  match c with
  | .ptpMessage .. => execPtpMessage_keeps h
  | .todMessage .. => execTodMessage_keeps h
  | .ppsEdge => execPpsEdge_keeps h
  | .measurementTimeout => execMeasurementTimeout_keeps h
  | .unlockedGroupTimeout => execUnlockedGroupTimeout_keeps h
  | .ppsOutEdge => execPpsOutEdge_keeps h
  | .todTransmit => execTodTransmit_keeps h
  | .tscLowRead .. => execTscLowRead_keeps h
  | .beatEdge .. => execBeatEdge_keeps h
  | .admissionResume => execAdmissionResume_keeps h
  | .beatHeadEnd => execBeatHeadEnd_keeps h
  | .beatPeriodSwitch => execBeatPeriodSwitch_keeps h
  | .cloverWakeFire .. => execCloverWakeFire_keeps h
  | .cloverTempFire .. => execCloverTempFire_keeps h
  | .cloverSupplyFire .. => execCloverSupplyFire_keeps h
  | .cloverLinkFire .. => execCloverLinkFire_keeps h
  | .cloverFiredWrite .. => execCloverFiredWrite_keeps h
  | .instanceStart .. => execInstanceStart_keeps h
  | .setvl .. => execSetvl_keeps h
  | .vloop .. => execVloop_keeps h
  | .vend .. => execVend_keeps h
  | .loop .. => execLoop_keeps h
  | .lend .. => execLend_keeps h
  | .sop .. => execSop_keeps h
  | .swait .. => execSwait_keeps h
  | .swaitMet .. => execSwaitMet_keeps h
  | .sadv .. => execSadv_keeps h
  | .gq .. => execGq_keeps h
  | .sdrain .. => execSdrain_keeps h
  | .sdrainDone .. => execSdrainDone_keeps h
  | .mma .. => execMma_keeps h
  | .mwait .. => execMwait_keeps h
  | .fsig .. => execFsig_keeps h
  | .fwait .. => execFwait_keeps h
  | .fwaitMet .. => execFwaitMet_keeps h
  | .bar .. => execBar_keeps h
  | .barGroupComplete .. => execBarGroupComplete_keeps h
  | .end_ .. => execEnd_keeps h
  | .instanceEnd .. => execInstanceEnd_keeps h
  | .arith .. => execArith_keeps h
  | .int .. => execInt_keeps h
  | .cmp .. => execCmp_keeps h
  | .maskop .. => execMaskop_keeps h
  | .cvt .. => execCvt_keeps h
  | .trans .. => execTrans_keeps h
  | .div .. => execDiv_keeps h
  | .perm .. => execPerm_keeps h
  | .reduce .. => execReduce_keeps h
  | .ldv .. => execLdv_keeps h
  | .stv .. => execStv_keeps h
  | .matrixInstanceEnd .. => execMatrixInstanceEnd_keeps h
  | .guardReplayDone .. => execGuardReplayDone_keeps h
  | .debugHalt .. => execDebugHalt_keeps h
  | .dbgResume .. => execDbgResume_keeps h
  | .dbgAbort .. => execDbgAbort_keeps h
  | .arrayRampDown .. => execArrayRampDown_keeps h
  | .kernelComplete .. => execKernelComplete_keeps h
  | .durationOverrun .. => execDurationOverrun_keeps h
  | .longInstanceCheck .. => execLongInstanceCheck_keeps h
  | .checkAgeExpiry .. => execCheckAgeExpiry_keeps h
  | .checkWatermarkTick => execCheckWatermarkTick_keeps h
  | .provisionalExpiry => execProvisionalExpiry_keeps h
  | .quarantineTestDone .. => execQuarantineTestDone_keeps h
  | .testSlotStart .. => execTestSlotStart_keeps h
  | .testSlotEnd .. => execTestSlotEnd_keeps h
  | .calibrationTimer => execCalibrationTimer_keeps h
  | .scratchpadEccError .. => execScratchpadEccError_keeps h
  | .hubSramEccError .. => execHubSramEccError_keeps h
  | .lockstepMismatch => execLockstepMismatch_keeps h
  | .flitCrcError .. => execFlitCrcError_keeps h
  | .trngHealthFail => execTrngHealthFail_keeps h
  | .streamResponse .. => execStreamResponse_keeps h
  | .storeAck .. => execStoreAck_keeps h
  | .channelRequest .. => execChannelRequest_keeps h
  | .channelServe .. => execChannelServe_keeps h
  | .guardWindowStart .. => execGuardWindowStart_keeps h
  | .refresh .. => execRefresh_keeps h
  | .retrainSlot => execRetrainSlot_keeps h
  | .retrainDone .. => execRetrainDone_keeps h
  | .zeroFillDone .. => execZeroFillDone_keeps h
  | .scrubRead .. => execScrubRead_keeps h
  | .scrubPriorityTimeout .. => execScrubPriorityTimeout_keeps h
  | .ceHourRollover => execCeHourRollover_keeps h
  | .mapoutStart .. => execMapoutStart_keeps h
  | .mapoutCmd .. => execMapoutCmd_keeps h
  | .mapoutFrameStaged .. => execMapoutFrameStaged_keeps h
  | .mapoutFrameWritten .. => execMapoutFrameWritten_keeps h
  | .cxlMemRead .. => execCxlMemRead_keeps h
  | .cxlMemWrite .. => execCxlMemWrite_keeps h
  | .birsp .. => execBirsp_keeps h
  | .biTimeout .. => execBiTimeout_keeps h
  | .hostSnoop .. => execHostSnoop_keeps h
  | .hostReadCompletion .. => execHostReadCompletion_keeps h
  | .hostWriteGo .. => execHostWriteGo_keeps h
  | .hostAccessReject .. => execHostAccessReject_keeps h
  | .bar4Read .. => execBar4Read_keeps h
  | .bar4Write .. => execBar4Write_keeps h
  | .linkLoss .. => execLinkLoss_keeps h
  | .linkUp .. => execLinkUp_keeps h
  | .perstAssert => execPerstAssert_keeps h
  | .functionLevelReset .. => execFunctionLevelReset_keeps h
  | .ideIntegrityFail .. => execIdeIntegrityFail_keeps h
  | .ideKm .. => execIdeKm_keeps h
  | .tdispRequest .. => execTdispRequest_keeps h
  | .msixUnmask .. => execMsixUnmask_keeps h
  | .getVersion .. => execGetVersion_keeps h
  | .getCapabilities .. => execGetCapabilities_keeps h
  | .negotiateAlgorithms .. => execNegotiateAlgorithms_keeps h
  | .getDigests .. => execGetDigests_keeps h
  | .getCertificate .. => execGetCertificate_keeps h
  | .challenge .. => execChallenge_keeps h
  | .getMeasurements .. => execGetMeasurements_keeps h
  | .keyExchange .. => execKeyExchange_keeps h
  | .finish .. => execFinish_keeps h
  | .heartbeat .. => execHeartbeat_keeps h
  | .keyUpdate .. => execKeyUpdate_keeps h
  | .endSession .. => execEndSession_keeps h
  | .vendorDefinedRequest .. => execVendorDefinedRequest_keeps h
  | .mctpControl .. => execMctpControl_keeps h
  | .getPdr .. => execGetPdr_keeps h
  | .getPdrRepositoryInfo => execGetPdrRepositoryInfo_keeps h
  | .getSensorReading .. => execGetSensorReading_keeps h
  | .getSensorThresholds .. => execGetSensorThresholds_keeps h
  | .setSensorThresholds .. => execSetSensorThresholds_keeps h
  | .setEventReceiver .. => execSetEventReceiver_keeps h
  | .pldmFirmwareUpdate .. => execPldmFirmwareUpdate_keeps h
  | .queueEnable .. => execQueueEnable_keeps h
  | .queueDisable .. => execQueueDisable_keeps h
  | .queueReset .. => execQueueReset_keeps h
  | .queueResetDone .. => execQueueResetDone_keeps h
  | .sqDb .. => execSqDb_keeps h
  | .cqDb .. => execCqDb_keeps h
  | .resumeCompletions .. => execResumeCompletions_keeps h
  | .reissue .. => execReissue_keeps h
  | .clearHalt .. => execClearHalt_keeps h
  | .slotFetch .. => execSlotFetch_keeps h
  | .slotReread .. => execSlotReread_keeps h
  | .doorbellSweep .. => execDoorbellSweep_keeps h
  | .fenceCheckTick => execFenceCheckTick_keeps h
  | .fenceTimeout .. => execFenceTimeout_keeps h
  | .waitMapTimeout .. => execWaitMapTimeout_keeps h
  | .deadlineExpiry .. => execDeadlineExpiry_keeps h
  | .commandCompletion .. => execCommandCompletion_keeps h
  | .nop .. => execNop_keeps h
  | .fenceWait .. => execFenceWait_keeps h
  | .fenceSignal .. => execFenceSignal_keeps h
  | .barrier .. => execBarrier_keeps h
  | .marker .. => execMarker_keeps h
  | .copyH2d .. => execCopyH2d_keeps h
  | .copyD2h .. => execCopyD2h_keeps h
  | .copyD2d .. => execCopyD2d_keeps h
  | .copyNet .. => execCopyNet_keeps h
  | .launchKernel .. => execLaunchKernel_keeps h
  | .launchGraph .. => execLaunchGraph_keeps h
  | .graphNodeDispatch .. => execGraphNodeDispatch_keeps h
  | .streamRearm .. => execStreamRearm_keeps h
  | .tableCreate .. => execTableCreate_keeps h
  | .tableLoad .. => execTableLoad_keeps h
  | .tablePrepare .. => execTablePrepare_keeps h
  | .tableCommit .. => execTableCommit_keeps h
  | .tableRetire .. => execTableRetire_keeps h
  | .gather .. => execGather_keeps h
  | .updateApply .. => execUpdateApply_keeps h
  | .publishRows .. => execPublishRows_keeps h
  | .extentMap .. => execExtentMap_keeps h
  | .extentUnmap .. => execExtentUnmap_keeps h
  | .retireContext .. => execRetireContext_keeps h
  | .retireContextDrained .. => execRetireContextDrained_keeps h
  | .windowOpen .. => execWindowOpen_keeps h
  | .windowClose .. => execWindowClose_keeps h
  | .configStage .. => execConfigStage_keeps h
  | .configArm .. => execConfigArm_keeps h
  | .partitionSet .. => execPartitionSet_keeps h
  | .classSet .. => execClassSet_keeps h
  | .regulatorSet .. => execRegulatorSet_keeps h
  | .powerSet .. => execPowerSet_keeps h
  | .beatSet .. => execBeatSet_keeps h
  | .samplingSet .. => execSamplingSet_keeps h
  | .testRun .. => execTestRun_keeps h
  | .checkStatus .. => execCheckStatus_keeps h
  | .monitorArm .. => execMonitorArm_keeps h
  | .monitorRead .. => execMonitorRead_keeps h
  | .recorderArm .. => execRecorderArm_keeps h
  | .recorderStop .. => execRecorderStop_keeps h
  | .query .. => execQuery_keeps h
  | .groupJoin .. => execGroupJoin_keeps h
  | .groupLeave .. => execGroupLeave_keeps h
  | .groupState .. => execGroupState_keeps h
  | .attest .. => execAttest_keeps h
  | .keyDomainCreate .. => execKeyDomainCreate_keeps h
  | .keyDomainErase .. => execKeyDomainErase_keeps h
  | .flowKey .. => execFlowKey_keeps h
  | .yarrowBatchDone .. => execYarrowBatchDone_keeps h
  | .collectionClose .. => execCollectionClose_keeps h
  | .updateMergeDone .. => execUpdateMergeDone_keeps h
  | .applyWindowStart .. => execApplyWindowStart_keeps h
  | .applyWindowEnd .. => execApplyWindowEnd_keeps h
  | .schedCtrlWrite .. => execSchedCtrlWrite_keeps h
  | .faultqBaseWrite .. => execFaultqBaseWrite_keeps h
  | .faultqHeadWrite .. => execFaultqHeadWrite_keeps h
  | .billBaseWrite .. => execBillBaseWrite_keeps h
  | .billHeadWrite .. => execBillHeadWrite_keeps h
  | .frameReceive .. => execFrameReceive_keeps h
  | .arpRequest .. => execArpRequest_keeps h
  | .neighbourSolicitation .. => execNeighbourSolicitation_keeps h
  | .pfcFrame .. => execPfcFrame_keeps h
  | .portLinkChange .. => execPortLinkChange_keeps h
  | .portModeWrite .. => execPortModeWrite_keeps h
  | .packetTransmit .. => execPacketTransmit_keeps h
  | .rtoExpiry .. => execRtoExpiry_keeps h
  | .ackTimer .. => execAckTimer_keeps h
  | .ccTick => execCcTick_keeps h
  | .configNackResend .. => execConfigNackResend_keeps h
  | .dataWrite .. => execDataWrite_keeps h
  | .dataReadReq .. => execDataReadReq_keeps h
  | .dataReadResp .. => execDataReadResp_keeps h
  | .send .. => execSend_keeps h
  | .atomicAddF32 .. => execAtomicAddF32_keeps h
  | .checkClear .. => execCheckClear_keeps h
  | .retract .. => execRetract_keeps h
  | .beatSync .. => execBeatSync_keeps h
  | .joinReq .. => execJoinReq_keeps h
  | .joinAccept .. => execJoinAccept_keeps h
  | .joinRefuse .. => execJoinRefuse_keeps h
  | .configPush .. => execConfigPush_keeps h
  | .memberUp .. => execMemberUp_keeps h
  | .leave .. => execLeave_keeps h
  | .groupMismatch .. => execGroupMismatch_keeps h
  | .versionQuery .. => execVersionQuery_keeps h
  | .versionReply .. => execVersionReply_keeps h
  | .versionReplyTimeout .. => execVersionReplyTimeout_keeps h
  | .ack .. => execAck_keeps h
  | .nack .. => execNack_keeps h
  | .sensorSample .. => execSensorSample_keeps h
  | .eventArrival => execEventArrival_keeps h
  | .pwrTargetS0 => execPwrTargetS0_keeps h
  | .pwrTargetS1 => execPwrTargetS1_keeps h
  | .pwrTargetS2 => execPwrTargetS2_keeps h
  | .pwrTargetS3 => execPwrTargetS3_keeps h
  | .idleTimeout => execIdleTimeout_keeps h
  | .powerEntryDrained => execPowerEntryDrained_keeps h
  | .wakeComplete => execWakeComplete_keeps h
  | .warmReset .. => execWarmReset_keeps h
  | .coldReset => execColdReset_keeps h
  | .powerOn .. => execPowerOn_keeps h
  | .bootReady .. => execBootReady_keeps h
  | .minSvnUpdate .. => execMinSvnUpdate_keeps h
  | .testUnlock .. => execTestUnlock_keeps h
  | .supplyUndervoltage .. => execSupplyUndervoltage_keeps h
  | .supplyRecovery .. => execSupplyRecovery_keeps h
  | .thermalProtectEntry .. => execThermalProtectEntry_keeps h
  | .junctionLimit .. => execJunctionLimit_keeps h
  | .dieTrip .. => execDieTrip_keeps h
  | .hubTrip .. => execHubTrip_keeps h
  | .hubTripRecovery .. => execHubTripRecovery_keeps h
  | .registerWrite .. => execRegisterWrite_keeps h
  | .holdover => execHoldover_keeps h
  | .agingSummary => execAgingSummary_keeps h
  | .yarrowProgress .. => execYarrowProgress_keeps h
  | .regulatorRefill .. => execRegulatorRefill_keeps h
  | .inputPowerLoss => execInputPowerLoss_keeps h

theorem keeps_of_exec {c : Instr} {s t : State} (h : exec c s = .next t) : Keeps s t :=
  keepsRes_elim (exec_keeps (Keeps.refl s) c) h

/-- Settles O4: a step is a tick or runs a command, and both keep the form. -/
theorem memoryFormKept : Obligations.MemoryFormKept := by
  intro s t wf stepped
  unfold step at stepped
  split at stepped
  case h_1 =>
    obtain rfl := Host.Outcome.next.inj stepped
    obtain ⟨-, kept⟩ := tick_keeps (Keeps.refl s)
    exact kept wf
  case h_2 =>
    obtain ⟨-, kept⟩ := keeps_of_exec stepped
    exact kept wf

/-! ### A byte read after a write (R208) -/

section Cells
variable {l r cells : List Host.Cell} {a b : Nat}

theorem find_cell_none (h : ∀ c ∈ l, c.1 ≠ b) : l.find? (fun c => c.1 = b) = none :=
  List.find?_eq_none.2 fun c hc => by simpa using h c hc

theorem cellGet_of_not_mem (h : ∀ c ∈ l, c.1 ≠ b) : cellGet l b = 0 := by
  simp only [cellGet, find_cell_none h]

theorem cellGet_append_of_not_right (h : ∀ c ∈ r, c.1 ≠ b) : cellGet (l ++ r) b = cellGet l b := by
  simp only [cellGet, List.find?_append, find_cell_none h, Option.or_none]

theorem cellGet_append_of_not_left (h : ∀ c ∈ l, c.1 ≠ b) : cellGet (l ++ r) b = cellGet r b := by
  simp only [cellGet, List.find?_append, find_cell_none h, Option.none_or]

/-- A filter by address that keeps address `b` leaves its byte. -/
theorem cellGet_filter {p : Nat → Prop} [DecidablePred p] (h : p b) :
    cellGet (cells.filter fun c => p c.1) b = cellGet cells b := by
  have same : ∀ c : Host.Cell, p c.1 ∧ c.1 = b ↔ c.1 = b := fun c => ⟨And.right, fun hc => ⟨hc ▸ h, hc⟩⟩
  simp only [cellGet, List.find?_filter, decide_eq_true_eq, same]

/-- The cells of a byte string list what is not zero in it, so that each of its addresses reads as its byte. -/
theorem cellGet_cellsOf {bs : List Byte} (h : a ≤ b) : cellGet (cellsOf a bs) b = bs.getD (b - a) 0 := by
  induction bs generalizing a with
  | nil => rfl
  | cons x bs ih =>
    obtain rfl | later := Nat.eq_or_lt_of_le h
    case inl =>
      have others : ∀ c ∈ cellsOf (a + 1) bs, c.1 ≠ a := fun c hc => Nat.ne_of_gt (cellsOf_mem hc).1
      simp only [cellsOf, Nat.sub_self, List.getD_cons_zero]
      split
      · rw [cellGet_of_not_mem others, ‹x = 0›]
      · simp [cellGet]
    case inr =>
      have skip : cellGet (cellsOf a (x :: bs)) b = cellGet (cellsOf (a + 1) bs) b := by
        simp only [cellsOf]
        split
        · rfl
        · exact cellGet_append_of_not_left (l := [(a, x)]) (by simpa using Nat.ne_of_lt later)
      rw [skip, ih later, show b - a = b - (a + 1) + 1 by omega, List.getD_cons_succ]

end Cells

/-- Settles O7: of the three parts of the cells after a write, below, in and above the range, one lists the address. -/
theorem readAfterWrite : Obligations.ReadAfterWrite := by
  intro cells a bs b _
  have below : ∀ c ∈ cells.filter fun c => decide (c.1 < a), c.1 < a := fun c hc => by simpa using (List.mem_filter.1 hc).2
  have inside : ∀ c ∈ cellsOf a bs, a ≤ c.1 ∧ c.1 < a + bs.length := fun c hc =>
    ⟨(cellsOf_mem hc).1, (cellsOf_mem hc).2.1⟩
  have above : ∀ c ∈ cells.filter fun c => decide (a + bs.length ≤ c.1), a + bs.length ≤ c.1 := fun c hc => by
    simpa using (List.mem_filter.1 hc).2
  unfold cellsPut
  by_cases low : b < a
  · rw [if_neg (by omega), cellGet_append_of_not_right fun c hc => by have := above c hc; omega,
      cellGet_append_of_not_right fun c hc => by have := inside c hc; omega,
      cellGet_filter (p := (· < a)) low]
  by_cases high : b < a + bs.length
  · rw [if_pos (by omega), cellGet_append_of_not_right fun c hc => by have := above c hc; omega,
      cellGet_append_of_not_left fun c hc => by have := below c hc; omega, cellGet_cellsOf (by omega)]
  · rw [if_neg (by omega), List.append_assoc, cellGet_append_of_not_left fun c hc => by have := below c hc; omega,
      cellGet_append_of_not_left fun c hc => by have := inside c hc; omega,
      cellGet_filter (p := (a + bs.length ≤ ·)) (by omega)]

end Sys2Proof.Machine

/-! PROOFS. Channel requests of a context that retires (O26), and reads of CXL.mem outside the HDM decoder (O31). -/

namespace Sys2Proof.Machine

/-! ### A request of a retiring context (09 R251) -/

theorem enqueueReq_of_retiring {r : ChanReq} {s : State} (h : r.context.any (retiringCtx s) = true) : enqueueReq r s = s :=
  if_pos h

/-- The module in S0 with partition 0 on stack 0, whose first frame context 0 owns while it retires. -/
def retiringOwner : State := { State.reset with
  power := { State.reset.power with ready := true }
  sched := { parts := [(0, {
    first := 0, sixteenths := 1, expert := false, share := 0, lcPercent := 0, qmap := [], carry := false, resizing := false
    budget := 0, avail := 0, reserve := 0, lcUsed := 0, debt := 0, held := false, charged := 0, total := {}, beat := {}
    lcHeld := 0, estLow := 0, durOver := 0, sampling := 0, regs := [], skipped := 0 })] }
  mem := {
    owners := [(0, { owner := 0, keyDomain := 0, partition := 0, ownerW := true, shares := [], hdm := false })]
    retiring := [{ context := 0, flight := none }] } }

/-- A write of context 0 to the first granule of its frame. -/
def retiringWrite : ChanReq := {
  id := 0, context := some 0, write := true, pa := 0, bytes := zeros 64, nibbles := [], len := 64, cls := .beWrite
  teasel := false, who := .command 0 0, partition := 0, arrived := 0, stream := 0, mode := 0 }

/-- Refutes O26: by its second clause an admitted request takes a number and joins its channel's queue, but the request of a
context that retires is discarded, though the frame's owner table still admits it. -/
theorem not_channelRows : ¬ Obligations.ChannelRows := by
  intro h
  obtain ⟨-, queued, -⟩ := h retiringOwner ⟨rfl, rfl, .inl rfl⟩
  have alive : stackDead retiringOwner (stackOf retiringWrite.pa) = false := by decide
  have admitted : ∀ c, retiringWrite.context = some c →
      admits retiringOwner c retiringWrite.write (frameOf retiringWrite.pa) = true := by
    rintro _ ⟨⟩
    decide
  have joins := queued retiringWrite alive admitted (.inl rfl)
  rw [enqueueReq_of_retiring (by decide)] at joins
  exact Nat.succ_ne_self _ (congrArg (fun s : State => s.mem.nextId) joins).symm

/-! ### A read that the HDM decoder does not map (13 R351, 09 R494) -/

/-- The channel of a blocked access writes an event. -/
theorem cxlDenied_events (write : Bool) (pa : Nat) (s : State) :
    ∃ e, (cxlDenied write pa s).tele.events = s.tele.events ++ [e] := ⟨_, rfl⟩

theorem cxlMemRead_beyond {s : State} {dpa : Nat} (reach : Reachable s) (cxl : s.link.cxl = true) (beyond : 1280 * 2 ^ 30 ≤ dpa)
    (ex : Bool) : exec (.cxlMemRead dpa ex) s =
      .next (cxlReply (dpaPa (dpa / 64 * 64)) true (zeros 64) (cxlDenied false (dpaPa (dpa / 64 * 64)) s)) := by
  change Host.Outcome.next (hostAccess _ s) = _
  rw [hostAccess_of_reachable reach]
  simp only [cxlReach, cxl, Bool.not_true, Bool.false_eq_true, if_false, decide_eq_false (Nat.not_lt.2 beyond), Bool.false_and]

/-- The module in S0 with a trained CXL link. -/
def cxlHost : State := { State.reset with
  power := { State.reset.power with ready := true }
  link := {
    up := true
    cxl := true } }

/-- Refutes O31: by its fourth clause a CXL.mem read that is not mapped changes only what is sent to the host, but it also
writes an ACCESS_DENIED event. -/
theorem not_hostAccessRows : ¬ Obligations.HostAccessRows := by
  intro h
  obtain ⟨-, -, -, blocked, -⟩ := h cxlHost
  have reach : Reachable cxlHost := ⟨rfl, nofun⟩
  obtain ⟨answered, -⟩ := blocked reach rfl (1280 * 2 ^ 30) false [] (.inl (Nat.le_refl _))
  rw [cxlMemRead_beyond reach rfl (Nat.le_refl _)] at answered
  obtain ⟨e, written⟩ := cxlDenied_events false (dpaPa (1280 * 2 ^ 30 / 64 * 64)) cxlHost
  have silent := congrArg (fun s : State => s.tele.events) (Host.Outcome.next.inj answered)
  exact List.append_ne_nil_of_right_ne_nil _ (List.cons_ne_nil e []) (written.symm.trans silent)

end Sys2Proof.Machine

/-! PROOFS. Map-out of a channel, its staging slots, and the zero-fill of a stack (O27). -/

namespace Sys2Proof.Machine

/-! ### What filling the staging slots can do (R227) -/

/-- From `s` to `t` free staging slots have taken next frames of stacks in map-out, and nothing else has changed. -/
structure SlotsFilled (s t : State) : Prop where
  only : ∃ hbm stage last, t = { s with mem := { s.mem with
    hbm := hbm
    stage := stage
    stageLast := last } }
  ofStack : ∀ k, ∃ n, getStack t k = { getStack s k with next := n }
  taken : ∀ i v, smFind s.mem.stage i = some v → v.phase ≠ .written → smFind t.mem.stage i = some v
  moving : ∀ k, (getStack s k).phase ≠ .moving → (∀ x ∈ s.mem.stage, x.2.stack ≠ k) → ∀ x ∈ t.mem.stage, x.2.stack ≠ k

namespace SlotsFilled
variable {s t u : State}

theorem refl (s : State) : SlotsFilled s s where
  only := ⟨_, _, _, rfl⟩
  ofStack _ := ⟨_, rfl⟩
  taken _ _ found _ := found
  moving _ _ free := free

theorem phase (h : SlotsFilled s t) (k : Nat) : (getStack t k).phase = (getStack s k).phase := by
  obtain ⟨n, same⟩ := h.ofStack k
  rw [same]

theorem reduced (h : SlotsFilled s t) (k : Nat) : (getStack t k).reduced = (getStack s k).reduced := by
  obtain ⟨n, same⟩ := h.ofStack k
  rw [same]

theorem cells (h : SlotsFilled s t) : t.mem.cells = s.mem.cells := by
  obtain ⟨_, _, _, rfl⟩ := h.only
  rfl

theorem channels (h : SlotsFilled s t) : t.mem.channels = s.mem.channels := by
  obtain ⟨_, _, _, rfl⟩ := h.only
  rfl

theorem tiles (h : SlotsFilled s t) : t.tiles = s.tiles := by
  obtain ⟨_, _, _, rfl⟩ := h.only
  rfl

theorem tele (h : SlotsFilled s t) : t.tele = s.tele := by
  obtain ⟨_, _, _, rfl⟩ := h.only
  rfl

theorem getChan (h : SlotsFilled s t) (c : Nat) : getChan t c = Machine.getChan s c := by
  rw [Machine.getChan, h.channels, Machine.getChan]

theorem trans (h : SlotsFilled s t) (h' : SlotsFilled t u) : SlotsFilled s u where
  only := by
    obtain ⟨_, _, _, rfl⟩ := h.only
    obtain ⟨_, _, _, rfl⟩ := h'.only
    exact ⟨_, _, _, rfl⟩
  ofStack k := by
    obtain ⟨_, first⟩ := h.ofStack k
    obtain ⟨_, second⟩ := h'.ofStack k
    exact ⟨_, second.trans (by rw [first])⟩
  taken i v found unwritten := h'.taken i v (h.taken i v found unwritten) unwritten
  moving k still free := h'.moving k (by rwa [h.phase]) (h.moving k still free)

end SlotsFilled

theorem mem_smSet {α : Type} {m : SMap α} {i : Nat} {v : α} {x : Nat × α} (h : x ∈ smSet m i v) : x = (i, v) ∨ x ∈ m := by
  induction m with
  | nil => exact .inl (List.mem_singleton.1 h)
  | cons y m ih =>
    simp only [smSet] at h
    split at h
    · next same => exact (List.mem_cons.1 h).imp (same ▸ id) (List.mem_cons_of_mem _)
    · split at h
      · exact List.mem_cons.1 h
      · obtain rfl | h := List.mem_cons.1 h
        · exact .inr List.mem_cons_self
        · exact (ih h).imp_right (List.mem_cons_of_mem _)

theorem slotFree_of_find {s : State} {i : Nat} {v : StageSlot} (h : smFind s.mem.stage i = some v) :
    slotFree s i = (v.phase == .written) := by
  rw [slotFree, h]

/-- A free slot takes frame `f` of stack `k`. -/
theorem slotsFilled_take {s : State} {i k f : Nat} {n : Option Nat} (free : slotFree s i = true) (wants : wantsSlot s k = true) :
    SlotsFilled s (updMem (fun m => { m with
      stage := smSet m.stage i { stack := k, frame := f, phase := .reading }
      stageLast := k }) (updStack k (fun x => { x with next := n }) s)) where
  only := ⟨_, _, _, rfl⟩
  ofStack j := by
    change ∃ n', getStack (updStack k (fun x => { x with next := n }) s) j = _
    rw [getStack_updStack]
    split
    · subst j
      exact ⟨_, rfl⟩
    · exact ⟨_, rfl⟩
  taken j v found unwritten := by
    have other : j ≠ i := by
      rintro rfl
      rw [slotFree_of_find found] at free
      exact unwritten (beq_iff_eq.1 free)
    simpa [smFind_smSet, other] using found
  moving j still free' x hx := by
    obtain rfl | hx := mem_smSet hx
    · rintro rfl
      simp [wantsSlot, still] at wants
    · exact free' x hx

theorem fillSlot_filled (i : Nat) (s : State) : SlotsFilled s (fillSlot i s) := by
  unfold fillSlot
  split
  · exact .refl s
  · split
    · exact .refl s
    · next free _ k found => exact slotsFilled_take (by simpa using free) (List.find?_some found)

theorem fillSlots_filled (s : State) : SlotsFilled s (fillSlots s) :=
  (fillSlot_filled 0 s).trans (fillSlot_filled 1 _)

/-! ### Rerouting a stack at whose channels nothing waits (R214) -/

theorem reroute_of_no_requests {k : Nat} {s : State} (h : ∀ i, i < 16 → (getChan s (k * 16 + i)).queue = []) :
    reroute k s = s := by
  have nothing (p : Nat → ChanReq → Bool) :
      ((List.range 16).flatMap fun i => (getChan s (k * 16 + i)).queue.filter (p i)) = [] :=
    List.flatMap_eq_nil_iff.2 fun i hi => by rw [h i (List.mem_range.1 hi), List.filter_nil]
  have rest (l : List Nat) : l.foldl (fun (s : State) _ => s) s = s :=
    List.foldlRecOn l _ (motive := (· = s)) rfl fun _ same _ _ => same
  unfold reroute
  simp only [nothing fun i r => chanOf s r.pa != k * 16 + i || (!r.write && r.cls != .background && stagedFrame s r.pa)]
  exact rest _

@[simp] theorem getChan_emit (src code part : Nat) (fields : List (Nat × Nat × Nat)) (s : State) (c : Nat) :
    getChan (emit src code part fields s) c = getChan s c := rfl

/-! ### The rows of a map-out (R226 to R228, R233) -/

section MapOut
variable {s : State} {k slot : Nat} {v : StageSlot}

theorem slotOf_eq_some {p : SlotPhase} (h : slotOf s k slot p = some v) :
    smFind s.mem.stage slot = some v ∧ v.stack = k ∧ v.phase = p ∧ (getStack s k).phase = .moving := by
  obtain ⟨w, found, cond⟩ := Option.bind_eq_some_iff.1 h
  simp only [Option.ite_none_right_eq_some, Option.some.injEq, Bool.and_eq_true, decide_eq_true_eq, beq_iff_eq] at cond
  obtain ⟨⟨⟨stack, phase⟩, moving⟩, rfl⟩ := cond
  exact ⟨found, stack, phase, moving⟩

theorem mapoutStart_tries {c : Nat} (working : Working s) (candidate : candidateOf s k = some c) :
    exec (.mapoutStart k) s = .next (mapoutTry c false s) := by
  change execMapoutStart k s = _
  simp only [execMapoutStart, memRow_of_working working, candidate]

theorem mapoutCmd_begins {x : BitVec 32} (working : Working s) (start : x.toNat.testBit 8 = true)
    (candidate : (getChan s (x.toNat % 256)).candidate = true) (whole : (getStack s (x.toNat % 256 / 16)).out = none)
    (alive : (getStack s (x.toNat % 256 / 16)).retired = false) (free : ownedFrom s (x.toNat % 256 / 16) 38400 = []) :
    exec (.mapoutCmd x) s = .next (mapoutBegin (x.toNat % 256) s) := by
  change execMapoutCmd x s = _
  simp only [execMapoutCmd, memRow_of_working working, mapoutCmd, bit, start, candidate, whole, alive, free, Option.isNone_none,
    Bool.not_false, List.isEmpty_nil, Bool.and_self, if_true]

theorem mapoutFrameStaged_stages (working : Working s) (read : slotOf s k slot .reading = some v) :
    exec (.mapoutFrameStaged k slot) s = .next (stageFrame k slot v s) := by
  change execMapoutFrameStaged k slot s = _
  simp only [execMapoutFrameStaged, memRow_of_working working, read]

theorem mapoutFrameWritten_of_staged (working : Working s) (staged : slotOf s k slot .staged = some v) :
    exec (.mapoutFrameWritten k slot) s = .next (if writesNext s v = true then writeFrame k slot v s else s) := by
  change execMapoutFrameWritten k slot s = _
  simp only [execMapoutFrameWritten, memRow_of_working working, staged]

/-- The slot in its next phase. -/
def setSlot (slot : Nat) (v : StageSlot) (p : SlotPhase) (s : State) : State :=
  updMem (fun m => { m with stage := smSet m.stage slot { v with phase := p } }) s

theorem smFind_setSlot (p : SlotPhase) : smFind (setSlot slot v p s).mem.stage slot = some { v with phase := p } := by
  rw [setSlot, updMem_mem, smFind_smSet, if_pos rfl]

theorem writeFrame_eq : writeFrame k slot v s = reroute k (if v.frame = 0 then mapoutDone k (setSlot slot v .written s)
    else fillSlots (setSlot slot v .written s)) := rfl

section Empty
variable (empty : ∀ i, i < 16 → (getChan s (k * 16 + i)).queue = [])
include empty

theorem stageFrame_of_no_requests : stageFrame k slot v s = fillSlots (setSlot slot v .staged s) := by
  change reroute k (fillSlots (setSlot slot v .staged s)) = _
  exact reroute_of_no_requests fun i hi => by rw [(fillSlots_filled _).getChan]; exact empty i hi

theorem writeFrame_of_no_requests (more : v.frame ≠ 0) : writeFrame k slot v s = fillSlots (setSlot slot v .written s) := by
  rw [writeFrame_eq, if_neg more]
  exact reroute_of_no_requests fun i hi => by rw [(fillSlots_filled _).getChan]; exact empty i hi

end Empty

end MapOut

/-- The slots of a stack given up, and not filled again yet. -/
def giveUpSlots (k : Nat) (s : State) : State :=
  updMem (fun m => { m with stage := smFilter m.stage fun _ v => v.stack != k }) s

/-- The stack, its channel and its slots at the end of a map-out. -/
def mapoutEnd (k : Nat) (s : State) : State :=
  giveUpSlots k
    (updChan (k * 16 + (getStack s k).channel) (fun w => { w with
      st := .mappedOut
      candidate := false })
      (updStack k (fun x => { x with
        phase := .idle
        reduced := true
        next := none }) s))

section MapoutEnd
variable (k : Nat) (s : State)

theorem getStack_giveUpSlots (j : Nat) : getStack (giveUpSlots k s) j = getStack s j := rfl

theorem getChan_giveUpSlots (c : Nat) : getChan (giveUpSlots k s) c = getChan s c := rfl

theorem mapoutDone_eq : mapoutDone k s =
    emit (srcChan (k * 16 + (getStack s k).channel)) evMapoutDone devPart [(20, 1, k)] (fillSlots (mapoutEnd k s)) := rfl

theorem getStack_mapoutEnd : getStack (mapoutEnd k s) k = { getStack s k with
    phase := .idle
    reduced := true
    next := none } := by
  rw [mapoutEnd, getStack_giveUpSlots, getStack_updChan, getStack_updStack, if_pos rfl]

theorem getChan_mapoutEnd (c : Nat) : getChan (mapoutEnd k s) c =
    if c = k * 16 + (getStack s k).channel then { getChan s c with
      st := .mappedOut
      candidate := false } else getChan s c := by
  rw [mapoutEnd, getChan_giveUpSlots, getChan_updChan, getChan_updStack, getChan_updStack]
  split
  · subst c
    rfl
  · rfl

theorem stage_mapoutEnd : ∀ x ∈ (mapoutEnd k s).mem.stage, x.2.stack ≠ k := fun x hx => by
  obtain ⟨-, other⟩ := List.mem_filter.1 hx
  simpa using other

end MapoutEnd

/-- With frame 0 written and no requests at its channels, the stack's map-out has ended. -/
theorem writeFrame_zero {s : State} {k slot : Nat} {v : StageSlot} (last : v.frame = 0)
    (empty : ∀ i, i < 16 → (getChan s (k * 16 + i)).queue = []) :
    writeFrame k slot v s = mapoutDone k (setSlot slot v .written s) := by
  rw [writeFrame_eq, if_pos last]
  refine reroute_of_no_requests fun i hi => ?_
  rw [mapoutDone_eq, getChan_emit, (fillSlots_filled _).getChan, getChan_mapoutEnd]
  split <;> exact empty i hi

/-! ### The end of a zero-fill (R231) -/

/-- The stack without its contents. -/
def clearStack (k : Nat) (s : State) : State :=
  let inStack (f : Nat) : Bool := stackFrame k 0 ≤ f && f < stackFrame k 40960
  updMem (fun m => { m with
    cells := m.cells.filter fun x => !inStack (x.1 / frameBytes)
    keyTag := smFilter m.keyTag fun g _ => !inStack (g / 32768)
    zeroed := smFilter m.zeroed fun f _ => !inStack f
    errors := smFilter m.errors fun g _ => !inStack (g / 32768)
    poison := m.poison.filter fun g => !inStack (g / 32768) }) s

/-- An owned frame is zero plaintext under its key domain. -/
def zeroOwned (s : State) (o : Nat × Owner) : State := updMem (fun m => zeroFrame m (keyPair s o.1) o.1) s

/-- The stack's owned frames after its zero-fill. -/
def zeroStack (k : Nat) (s : State) : State := (ownedFrom (clearStack k s) k 0).foldl zeroOwned (clearStack k s)

theorem mem_clearStack {k : Nat} {s : State} {c : Host.Cell} (h : c ∈ (clearStack k s).mem.cells) :
    c ∈ s.mem.cells ∧ ∀ f, stackFrame k 0 ≤ f → f < stackFrame k 40960 → c.1 / frameBytes ≠ f := by
  obtain ⟨old, outside⟩ := List.mem_filter.1 h
  refine ⟨old, fun f lo hi same => ?_⟩
  simp [same, lo, hi] at outside

/-- Zeroing owned frames takes cells away and leaves the events. -/
theorem zeroOwned_foldl (l : List (Nat × Owner)) (s : State) :
    (∀ c ∈ (l.foldl zeroOwned s).mem.cells, c ∈ s.mem.cells) ∧ (l.foldl zeroOwned s).tele = s.tele :=
  List.foldlRecOn l _ (motive := fun t : State => (∀ c ∈ t.mem.cells, c ∈ s.mem.cells) ∧ t.tele = s.tele) ⟨fun _ h => h, rfl⟩
    fun _ ⟨cells, tele⟩ _ _ => ⟨fun c h => cells c (List.mem_filter.1 h).1, tele⟩

theorem mem_zeroStack {k : Nat} {s : State} {c : Host.Cell} (h : c ∈ (zeroStack k s).mem.cells) :
    c ∈ s.mem.cells ∧ ∀ f, stackFrame k 0 ≤ f → f < stackFrame k 40960 → c.1 / frameBytes ≠ f :=
  mem_clearStack ((zeroOwned_foldl _ _).1 c h)

theorem zeroStack_tele (k : Nat) (s : State) : (zeroStack k s).tele = s.tele := (zeroOwned_foldl _ (clearStack k s)).2

theorem zeroFillDone_ends {s : State} {k : Nat} (working : Working s) (filling : (getStack s k).phase = .zeroFill) :
    exec (.zeroFillDone k) s = .next (emit (srcChan (k * 16 + (getStack s k).channel)) evStackReady devPart [(20, 1, k)]
      (updStack k (fun x => { x with
        phase := .idle
        reduced := true }) (zeroStack k s))) := by
  change execZeroFillDone k s = _
  rw [execZeroFillDone, memRow_of_working working, filling]
  rfl

/-- Settles O27: with no request at the stack's channels a row of map-out changes its slot and fills the free ones, which
neither takes a slot in use nor a frame of a stack that does not move. -/
theorem mapOutRows : Obligations.MapOutRows := by
  intro s working
  refine ⟨fun k c => mapoutStart_tries working, fun v => mapoutCmd_begins working, ?staged, ?written, ?waits, ?filled⟩
  case staged =>
    refine fun k slot v read => ⟨_, mapoutFrameStaged_stages working read, rfl, fun empty => ?_⟩
    have filled := fillSlots_filled (setSlot slot v .staged s)
    rw [stageFrame_of_no_requests empty]
    exact ⟨filled.taken _ _ (smFind_setSlot .staged) nofun, filled.cells, filled.channels, filled.tiles⟩
  case written =>
    refine fun k slot v staged next => ⟨_, by rw [mapoutFrameWritten_of_staged working staged, if_pos next], rfl,
      fun empty => ?_⟩
    obtain ⟨-, -, -, moving⟩ := slotOf_eq_some staged
    by_cases last : v.frame = 0
    case pos =>
      have filled := fillSlots_filled (mapoutEnd k (setSlot slot v .written s))
      have stack := getStack_mapoutEnd k (setSlot slot v .written s)
      rw [writeFrame_zero last empty, mapoutDone_eq]
      refine ⟨filled.cells, fun more => absurd last more, fun _ => ⟨?_, ?_, ?_, ?_, ?_⟩⟩
      · exact (filled.phase k).trans (by rw [stack])
      · exact (filled.reduced k).trans (by rw [stack])
      · exact filled.moving k (by rw [stack]; nofun) (stage_mapoutEnd k _)
      · exact (congrArg Channel.st (filled.getChan _)).trans (by rw [getChan_mapoutEnd]; exact congrArg _ (if_pos rfl))
      · exact (congrArg Channel.candidate (filled.getChan _)).trans (by rw [getChan_mapoutEnd]; exact congrArg _ (if_pos rfl))
    case neg =>
      have filled := fillSlots_filled (setSlot slot v .written s)
      rw [writeFrame_of_no_requests empty last]
      exact ⟨filled.cells, fun _ => ⟨(filled.phase k).trans moving, filled.tele, filled.channels⟩, fun zero => absurd zero last⟩
  case waits =>
    intro k slot v staged later
    rw [mapoutFrameWritten_of_staged working staged, if_neg (by simp [later])]
  case filled =>
    intro k filling
    have stack := getStack_updStack k k (fun x => { x with
      phase := .idle
      reduced := true }) (zeroStack k s)
    rw [if_pos rfl] at stack
    refine ⟨_, zeroFillDone_ends working filling, congrArg Stack.phase stack, congrArg Stack.reduced stack,
      fun f lo hi c hc => ?_, fun c hc => ?_, _, congrArg (·.events ++ _) (zeroStack_tele k s), rfl⟩
    · obtain ⟨-, outside⟩ := mem_zeroStack hc
      exact outside f lo hi
    · obtain ⟨old, -⟩ := mem_zeroStack hc
      exact old

end Sys2Proof.Machine

/-! PROOFS. Queues and completion: fences (O21), heads that may not be dispatched (O47), doorbells (O37, O38), the life of a
queue (O39), fetching (O40), timers and the end of a command (O41), and the state a dispatch leaves (O42). -/

namespace Sys2Proof.Machine

/-! ### Fences (R286) -/

theorem fenceVal_fenceRaise (add : Bool) (f v : Nat) (s : State) (g : Nat) : fenceVal (fenceRaise add f v s) g =
    if g = f then (if add then satAdd 64 (fenceVal s f) v else max (fenceVal s f) v) else fenceVal s g :=
  smGet_smSet ..

theorem fenceVal_fenceRaise_same (add : Bool) (f v : Nat) (s : State) :
    fenceVal (fenceRaise add f v s) f = if add then satAdd 64 (fenceVal s f) v else max (fenceVal s f) v := by
  rw [fenceVal_fenceRaise, if_pos rfl]

theorem fenceVal_fenceRaise_of_ne {f g : Nat} (other : g ≠ f) (add : Bool) (v : Nat) (s : State) :
    fenceVal (fenceRaise add f v s) g = fenceVal s g := by
  rw [fenceVal_fenceRaise, if_neg other]

/-- A sum that saturates does not fall below a first summand in range. -/
theorem le_satAdd {n a : Nat} (h : a < 2 ^ n) (b : Nat) : a ≤ satAdd n a b :=
  Nat.le_min.2 ⟨Nat.le_add_right a b, Nat.le_sub_one_of_lt h⟩

/-- Settles O21: the raised fence takes the maximum or the saturating sum, and every other one is read as before. -/
theorem fenceOnlyRises : Obligations.FenceOnlyRises := by
  intro sat f v s g
  refine ⟨fun h => ?maximum, fun h => ?sum, fun inRange => ?rises, fun other => fenceVal_fenceRaise_of_ne other sat v s, rfl, rfl⟩
  case maximum => rw [fenceVal_fenceRaise_same, h, if_neg Bool.false_ne_true]
  case sum => rw [fenceVal_fenceRaise_same, h, if_pos rfl, satAdd]
  case rises =>
    by_cases same : g = f
    · subst g
      rw [fenceVal_fenceRaise_same]
      cases sat with
      | false => exact Nat.le_max_left _ _
      | true => exact le_satAdd (inRange rfl) v
    · exact Nat.le_of_eq (fenceVal_fenceRaise_of_ne same sat v s).symm

/-! ### Heads that may not be dispatched (R272) -/

theorem dispatch_held {s : State} {q : Nat} {c : Cmd} (head : (getQueue s q).fetched.head? = some c)
    (held : mayDispatch s q c.bytes = false) (m : Nat → Bool) (charge : State → Req → Nat) (own : State → Req → Verdict)
    (start : Req → Nat → State → State) : dispatch q m charge own start s = s := by
  obtain ⟨l, fetched⟩ := List.head?_eq_some_iff.1 head
  simp only [dispatch, fetched, held, Bool.not_false, Bool.or_true, if_true]

/-- Settles O47: each of these rows is a dispatch of its queue's head. -/
theorem heldHeadWaits : Obligations.HeldHeadWaits := by
  intro s q c head held
  have row (m charge own start) : (.next (dispatch q m charge own start s) : Res) = .next s :=
    congrArg _ (dispatch_held head held m charge own start)
  simp only [List.forall_mem_cons, List.not_mem_nil, false_imp_iff, implies_true, and_true]
  and_intros <;> exact row _ _ _ _

/-! ### One queue updated -/

/-- An update of a queue puts there what the queue then reads as, and changes nothing else. -/
theorem updQueue_eq_set (n : Nat) (f : Queue → Queue) (s : State) :
    updQueue n f s = { s with queues := smSet s.queues n (getQueue (updQueue n f s) n) } := by
  rw [getQueue_updQueue_same]
  rfl

theorem getQueue_updQueue_of_ne {n m : Nat} (other : m ≠ n) (f : Queue → Queue) (s : State) :
    getQueue (updQueue n f s) m = getQueue s m := by
  rw [getQueue_updQueue, if_neg other]

/-! ### Doorbells (R265 to R267, R274, R284) -/

theorem getQueue_consumer (v n : Nat) (s : State) : getQueue (consumer v n s) n = { getQueue s n with
    cqHead := if ahead v (getQueue s n).cqHead < 2 ^ 31 then
      ((getQueue s n).cqHead + min (ahead v (getQueue s n).cqHead) (ahead (getQueue s n).cqTail (getQueue s n).cqHead)) % 2 ^ 32
      else (getQueue s n).cqHead } :=
  getQueue_updQueue_same ..

/-- Settles O37: CQ_DB is one update of its queue, by whether the value lies ahead of CQ_HEAD. -/
theorem consumerDoorbell : Obligations.ConsumerDoorbell := by
  intro s f q n v reach live place gen enabled power
  refine ⟨consumer (v.toNat % 2 ^ 32) n s, congrArg _ (doorbell_acts reach live place gen enabled power _),
    updQueue_eq_set .., ?_⟩
  rw [getQueue_consumer]
  exact ⟨rfl, fun below => if_pos below, fun beyond => if_neg (Nat.not_lt.2 beyond)⟩

/-- A producer's doorbell leaves a queue that the network feeds alone. -/
theorem producer_of_netFed {s : State} {n : Nat} (fed : (getQueue s n).netFed = true) (v : Nat) : producer v n s = s := by
  rw [producer, if_pos fed]

/-- An access of no bytes waits for nothing. -/
theorem afterSnoops_nil (write : Bool) (act : State → State) (s : State) : afterSnoops write [] act s = act s := by
  have free : writeHeld s [] = false := by simp [writeHeld]
  simp only [afterSnoops, free, Bool.and_false, Bool.false_eq_true, if_false, neededSnoops, List.flatMap_nil]

theorem replaySegs_of_empty {s : State} {n : Nat} (empty : (getQueue s n).shadowRing = []) : replaySegs s n = [] := by
  simp only [replaySegs, empty, List.length_nil, List.range_zero, List.flatMap_nil, ite_self]

/-- With no shadow records RESUME_COMPLETIONS only ends COMPLETION_BLOCKED and FROZEN. -/
theorem resume_of_empty {s : State} {n : Nat} (empty : (getQueue s n).shadowRing = []) (r : Option Nat) :
    afterSnoops true (replaySegs s n) (fun s => replayShadow n (getQueue s n).shadowRing r s) s =
      updQueue n (fun w => { w with
        blocked := false
        frozen := false }) s := by
  rw [replaySegs_of_empty empty, afterSnoops_nil, empty, replayShadow]

/-- Settles O38: a doorbell acts on an enabled queue at its generation, and any other one is counted. -/
theorem doorbellRows : Obligations.DoorbellRows := by
  refine ⟨fun s f q n reach live place enabled power => ?acts, fun s f q n reach live place => ?stale⟩
  case acts =>
    have acts {g : Nat} (gen : g = (getQueue s n).gen) (act) : (.next (doorbell f q g act s) : Res) = .next (act n s) :=
      congrArg _ (doorbell_acts reach live place gen enabled power act)
    refine ⟨fun v gen => ⟨acts gen _, fun fed => ?_⟩, fun r => acts rfl _, fun empty r => ?_, acts rfl _, acts rfl _⟩
    · exact (acts gen _).trans (congrArg _ (producer_of_netFed fed _))
    · exact (acts rfl _).trans (congrArg _ (resume_of_empty empty r))
  case stale =>
    have counted {g : Nat} (stale : g ≠ (getQueue s n).gen ∨ (getQueue s n).life ≠ .enabled) (act) :
        (.next (doorbell f q g act s) : Res) =
          .next (updQueue n (fun w => { w with staleGen := min (w.staleGen + 1) 65535 }) s) :=
      congrArg _ (doorbell_stale reach live place stale act)
    exact ⟨fun v stale => ⟨counted stale _, counted stale _⟩,
      fun g r stale => ⟨counted stale _, counted stale _, counted stale _⟩⟩

/-! ### The life of a queue (R262, R293) -/

theorem enableQueue_of_ringsOk {s : State} {n : Nat} (disabled : (getQueue s n).life = .disabled) (rings : ringsOk s n = true) :
    enableQueue n s = updQueue n (fun w => { w with
      life := .enabled
      cfgErr := false
      prod := 0
      sqHead := 0
      cqTail := 0
      cqHead := 0
      shadowRing := [] }) s := by
  simp [enableQueue, disabled, rings]

theorem enableQueue_of_bad_rings {s : State} {n : Nat} (disabled : (getQueue s n).life = .disabled) (rings : ringsOk s n = false) :
    enableQueue n s = updQueue n (fun w => { w with cfgErr := true }) s := by
  simp [enableQueue, disabled, rings]

theorem disableQueue_of_idle {s : State} {n : Nat} (idle : queueState s n = 1) :
    disableQueue n s = updQueue n (fun w => { w with life := .disabled }) s := by
  rw [disableQueue, if_pos idle]

theorem startQueueReset_of_not_resetting {s : State} {n : Nat} (h : (getQueue s n).life ≠ .resetting) :
    startQueueReset n s = queueResetStart n s := by
  rw [startQueueReset, if_neg (by simpa using h)]

theorem queueResetDone_of_drained {s : State} {n : Nat} (resetting : (getQueue s n).life = .resetting)
    (drained : queueDrained s n = true) : exec (.queueResetDone n) s = .next (queueResetEnd n s) := by
  change execQueueResetDone n s = _
  rw [execQueueResetDone, resetting, drained, beq_self_eq_true, Bool.true_and, doWhen_true]

theorem getQueue_queueResetEnd_of_ne {n m : Nat} (other : m ≠ n) (s : State) : getQueue (queueResetEnd n s) m = getQueue s m :=
  getQueue_updQueue_of_ne other ..

theorem mem_flights_queueResetEnd {n : Nat} {s : State} {x : Flight} :
    x ∈ (queueResetEnd n s).flights ↔ x ∈ s.flights ∧ x.queue ≠ n := by
  change x ∈ s.flights.filter _ ↔ _
  rw [List.mem_filter, bne_iff_ne]

/-- Settles O39: each row is one host access to its queue, which it updates; the end of a reset drops the queue's flights. -/
theorem queueLifeRows : Obligations.QueueLifeRows := by
  intro s f q n reach live place
  have access (act : Nat → State → State) : (.next (onQueue f q act s) : Res) = .next (act n s) :=
    congrArg _ (onQueue_of_reachable reach live place act)
  refine ⟨fun disabled rings => ?enable, fun disabled rings => ?badRings, fun idle => ?disable, fun running => ?reset,
    fun resetting drained => ?done⟩
  case enable =>
    refine ⟨_, (access _).trans (congrArg _ (enableQueue_of_ringsOk disabled rings)), updQueue_eq_set .., ?_⟩
    rw [getQueue_updQueue_same]
    exact ⟨rfl, rfl, rfl, rfl, rfl, rfl, rfl⟩
  case badRings => exact (access _).trans (congrArg _ (enableQueue_of_bad_rings disabled rings))
  case disable => exact (access _).trans (congrArg _ (disableQueue_of_idle idle))
  case reset => exact (access _).trans (congrArg _ (startQueueReset_of_not_resetting running))
  case done =>
    refine ⟨_, queueResetDone_of_drained resetting drained, ?_⟩
    dsimp only [queueResetEnd]
    rw [getQueue_updQueue_same]
    exact ⟨rfl, rfl, rfl, rfl, rfl, rfl, rfl, rfl, rfl, rfl, rfl, fun m other => getQueue_queueResetEnd_of_ne other s,
      fun x running => mem_flights_queueResetEnd.1 running⟩

/-! ### Counting errors leaves the clock alone (08 R217, R218) -/

@[simp] theorem fillSlots_clock (s : State) : (fillSlots s).clock = s.clock := by
  obtain ⟨_, _, _, filled⟩ := (fillSlots_filled s).only
  rw [filled]

@[simp] theorem mapoutTry_clock (c : Nat) (force : Bool) (s : State) : (mapoutTry c force s).clock = s.clock := by
  unfold mapoutTry
  dsimp only
  split
  · simp only [mapoutBegin, apply_ite State.clock, fillSlots_clock, updStack_clock, ite_self]
  · simp only [apply_ite State.clock, faultPut_clock, updStack_clock, ite_self]

@[simp] theorem noteCorrected_clock (c : Nat) (s : State) : (noteCorrected c s).clock = s.clock := by
  unfold noteCorrected
  dsimp only
  repeat' split
  all_goals simp only [mapoutTry_clock, emit_clock, updChan_clock]

@[simp] theorem countUes_clock (pas : List Nat) (s : State) : (countUes pas s).clock = s.clock :=
  List.foldlRecOn _ _ (motive := fun u : State => u.clock = s.clock) rfl fun _ h _ _ => h

@[simp] theorem countErrors_clock (a : Acc) (s : State) : (countErrors a s).clock = s.clock :=
  List.foldlRecOn _ _ (motive := fun u : State => u.clock = s.clock) (countUes_clock ..)
    fun _ h _ _ => (noteCorrected_clock ..).trans h

theorem now_countErrors (a : Acc) (s : State) : now (countErrors a s) = now s := congrArg Clock.tsc (countErrors_clock a s)

/-! ### Fetching (R269 to R271) -/

/-- The queue after the first read of its next slot at `t`: a valid slot is taken, and a stale one is to be read again. -/
def afterFirstRead (b : List Byte) (t : Nat) (w : Queue) : Queue :=
  if slotValid w b then takeSlotCmd b t w else { w with rereads := some (0, t) }

/-- The queue after re-read number `k` of its next slot at `t`, which parks it at the eighth stale one. -/
def afterReread (k : Nat) (b : List Byte) (t : Nat) (w : Queue) : Queue :=
  if slotValid w b then takeSlotCmd b t w
  else if k + 1 < 8 then { w with rereads := some (k + 1, t) }
  else { w with
    rereads := none
    parked := true
    parks := satAdd 16 w.parks 1 }

theorem afterFirstRead_of_valid {w : Queue} {b : List Byte} (valid : slotValid w b = true) (t : Nat) :
    afterFirstRead b t w = takeSlotCmd b t w := if_pos valid

theorem afterFirstRead_of_stale {w : Queue} {b : List Byte} (stale : slotValid w b = false) (t : Nat) :
    afterFirstRead b t w = { w with rereads := some (0, t) } := if_neg (by simp [stale])

theorem afterReread_of_valid {w : Queue} {b : List Byte} (valid : slotValid w b = true) (k t : Nat) :
    afterReread k b t w = takeSlotCmd b t w := if_pos valid

theorem afterReread_of_stale {w : Queue} {b : List Byte} (stale : slotValid w b = false) (k t : Nat) : afterReread k b t w =
    if k + 1 < 8 then { w with rereads := some (k + 1, t) }
    else { w with
      rereads := none
      parked := true
      parks := satAdd 16 w.parks 1 } := if_neg (by simp [stale])

section Read
variable {s : State} {q : Nat}

/-- From host memory the slot is what the host answers; only the request leaves a trace. -/
theorem readSlot_of_host (host : (getQueue s q).sqHost = true) (b : List Byte) (act : List Byte → State → State) :
    ∃ out, readSlot q b act s = act (slice b 0 256) { s with out := out } :=
  ⟨_, if_pos host⟩

theorem readSlot_of_device (device : (getQueue s q).sqHost = false) (b : List Byte) (act : List Byte → State → State) :
    readSlot q b act s =
      afterSnoops false (slotSegs s q) (fun u => act (slotAcc u q).data (countErrors (slotAcc u q) u)) s :=
  if_neg (by simp [device])

theorem slotFetch_reads (may : mayFetch s q = true) (unparked : (getQueue s q).parked = false)
    (first : (getQueue s q).rereads = none) (b : List Byte) :
    exec (.slotFetch q b) s = .next (readSlot q b (fun b u => updQueue q (afterFirstRead b (now u)) u) s) := by
  change execSlotFetch q b s = _
  rw [execSlotFetch, may, unparked, first]
  rfl

theorem slotFetch_of_host (may : mayFetch s q = true) (host : (getQueue s q).sqHost = true) (unparked : (getQueue s q).parked = false)
    (first : (getQueue s q).rereads = none) {b : List Byte} (whole : slice b 0 256 = b) :
    Runs (.slotFetch q b) s fun t => getQueue t q = afterFirstRead b (now s) (getQueue s q) ∧
      t.mem = s.mem ∧ t.tiles = s.tiles ∧ t.flights = s.flights := by
  obtain ⟨out, read⟩ := readSlot_of_host host b (fun b u => updQueue q (afterFirstRead b (now u)) u)
  rw [whole] at read
  exact ⟨_, (slotFetch_reads may unparked first b).trans (congrArg _ read), getQueue_updQueue_same .., rfl, rfl, rfl⟩

/-- A read of device memory may count errors, which takes no time. -/
theorem slotFetch_of_device (may : mayFetch s q = true) (device : (getQueue s q).sqHost = false)
    (unparked : (getQueue s q).parked = false) (first : (getQueue s q).rereads = none) (b : List Byte) :
    exec (.slotFetch q b) s = .next (afterSnoops false (slotSegs s q) (fun u =>
      updQueue q (afterFirstRead (slotAcc u q).data (now u)) (countErrors (slotAcc u q) u)) s) := by
  rw [slotFetch_reads may unparked first, readSlot_of_device device]
  simp only [now_countErrors]

/-- A re-read comes 250 ns after the last read. -/
theorem slotReread_of_host (may : mayFetch s q = true) (host : (getQueue s q).sqHost = true) {k u : Nat}
    (last : (getQueue s q).rereads = some (k, u)) {b : List Byte} (whole : slice b 0 256 = b) :
    Runs (.slotReread q b) s fun t => u + 250 ≤ now t ∧ getQueue t q = afterReread k b (now t) (getQueue s q) := by
  have row : exec (.slotReread q b) s =
      .next (readSlot q b (fun b u => updQueue q (afterReread k b (now u)) u) (advance (u + 250) s)) := by
    change execSlotReread q b s = _
    simp only [execSlotReread, last, may, Bool.not_true, Bool.false_eq_true, if_false]
    rfl
  obtain ⟨out, read⟩ := readSlot_of_host (s := advance (u + 250) s) host b (fun b u => updQueue q (afterReread k b (now u)) u)
  rw [whole] at read
  exact ⟨_, row.trans (congrArg _ read), Nat.le_max_right _ _, getQueue_updQueue_same ..⟩

theorem fetchOn_of_mayFetch (may : mayFetch s q = true) : fetchOn s = true := by
  simp only [mayFetch, Bool.and_eq_true] at may
  exact may.1.1.1

theorem doorbellSweep_sweeps (on : fetchOn s = true) (d : List (Nat × List Byte)) : exec (.doorbellSweep d) s =
    .next ((smKeys s.queues).foldl (fun s q => sweepQueue d q s) (advance (nextMultiple 100000 s) s)) := by
  change execDoorbellSweep d s = _
  rw [execDoorbellSweep, on]
  rfl

end Read

/-- Settles O40: a read changes the queue alone, by whether the slot is valid. -/
theorem fetchRows : Obligations.FetchRows := by
  refine ⟨fun s q b may device unparked first => slotFetch_of_device may device unparked first b,
    fun s q b may host whole => ⟨?taken, ?stale, ?again, ?retaken, doorbellSweep_sweeps (fetchOn_of_mayFetch may)⟩⟩
  case taken =>
    intro unparked first valid
    obtain ⟨t, row, own, mem, tiles, flights⟩ := slotFetch_of_host may host unparked first whole
    rw [afterFirstRead_of_valid valid] at own
    exact ⟨t, row, congrArg Queue.sqHead own, ⟨_, congrArg Queue.fetched own, rfl, rfl, rfl⟩, mem, tiles, flights⟩
  case stale =>
    intro unparked first stale
    obtain ⟨t, row, own, mem, -⟩ := slotFetch_of_host may host unparked first whole
    rw [afterFirstRead_of_stale stale] at own
    exact ⟨t, row, by rw [own], by rw [own], by rw [own], mem⟩
  case again =>
    intro k u last stale
    obtain ⟨t, row, later, own⟩ := slotReread_of_host may host last whole
    rw [afterReread_of_stale stale] at own
    by_cases more : k + 1 < 8
    · rw [if_pos more] at own
      exact ⟨t, row, later, by rw [own], fun _ => by rw [own], fun eighth => absurd more (Nat.not_lt.2 eighth)⟩
    · rw [if_neg more] at own
      exact ⟨t, row, later, by rw [own], fun less => absurd less more,
        fun _ => ⟨by rw [own], by rw [own], congrArg Queue.parks own⟩⟩
  case retaken =>
    intro k u last valid
    obtain ⟨t, row, -, own⟩ := slotReread_of_host may host last whole
    rw [afterReread_of_valid valid] at own
    exact ⟨t, row, congrArg Queue.sqHead own, congrArg Queue.rereads own, _, congrArg Queue.fetched own, rfl⟩

/-! ### Timers (R288 to R290, R297) -/

section Timers
variable {s : State} {q : Nat} {c : Cmd} {l : List Cmd}

theorem fenceCheckTick_checks (working : Working s) : exec .fenceCheckTick s =
    .next (breakCycles (waitNodes (timeouts (advance (nextMultiple 1000000 s) s))).length
      (timeouts (advance (nextMultiple 1000000 s) s))) := by
  change execFenceCheckTick s = _
  rw [execFenceCheckTick, cpOn_of_working working]
  rfl

theorem headExpiry_of_waiting {w : Queue} (head : w.fetched = c :: l) {u : Nat} (waiting : w.waitFence = some u) :
    headExpiry w = some (u + hTimeoutNs c.bytes) := by
  simp only [headExpiry, waiting, head]

theorem mapExpiry_of_waiting {w : Queue} (head : w.fetched = c :: l) {u : Nat} (waiting : w.waitMap = some u) :
    mapExpiry w = some (u + hTimeoutNs c.bytes) := by
  simp only [mapExpiry, waiting, head]

theorem fenceTimeout_checks_head (head : (getQueue s q).fetched = c :: l) {u : Nat} (waiting : (getQueue s q).waitFence = some u)
    (unmet : headUnmet s q = true) : exec (.fenceTimeout q (hReady c.bytes)) s =
      .next (timeoutHead q (advance (checkAt (u + hTimeoutNs c.bytes)) s)) := by
  change execFenceTimeout q (hReady c.bytes) s = _
  simp only [execFenceTimeout, headExpiry_of_waiting head waiting, head, unmet, decide_true, Bool.and_true, if_true]

theorem waitMapTimeout_fails_head (head : (getQueue s q).fetched = c :: l) {u : Nat} (waiting : (getQueue s q).waitMap = some u) :
    exec (.waitMapTimeout q) s = .next (failUnmapped q (advance (checkAt (u + hTimeoutNs c.bytes)) s)) := by
  change execWaitMapTimeout q s = _
  simp only [execWaitMapTimeout, mapExpiry_of_waiting head waiting]

theorem deadlineExpiry_fails_head (head : (getQueue s q).fetched = c :: l) (enabled : (getQueue s q).life = .enabled)
    (deadline : hDeadline c.bytes ≠ 0) (lock : s.clock.lock ≠ .unlocked)
    (waits : ∀ y, (getQueue s q).ready = some y → y.admitted = false) :
    exec (.deadlineExpiry q) s = .next (failHeadNow q stDeadlineExpired (advance (hDeadline c.bytes + 1) s)) := by
  change execDeadlineExpiry q s = _
  cases ready : (getQueue s q).ready with
  | none => simp [execDeadlineExpiry, head, enabled, deadline, lock, ready]
  | some y => simp [execDeadlineExpiry, head, enabled, deadline, lock, ready, waits y ready]

end Timers

/-- Settles O41: each timer moves the clock to its instant and then fails what is due; a completion looks at every wait first. -/
theorem timerRows : Obligations.TimerRows := fun _ =>
  ⟨fun working => ⟨_, rfl, fenceCheckTick_checks working⟩,
    fun _ _ _ _ head waiting unmet => fenceTimeout_checks_head head waiting unmet,
    fun _ _ _ _ head waiting => waitMapTimeout_fails_head head waiting,
    fun _ _ _ head enabled deadline lock waits => deadlineExpiry_fails_head head enabled deadline lock waits,
    fun _ _ _ => rfl⟩

/-! ### The state a dispatch leaves (R272, R302) -/

theorem getQueue_popHead_same (q : Nat) (s : State) : getQueue (popHead q s) q = { getQueue s q with
    fetched := (getQueue s q).fetched.drop 1, ready := none, waitMap := none, waitFence := none, reissue := false } :=
  getQueue_updQueue_same ..

theorem getQueue_popHead_of_ne {q m : Nat} (other : m ≠ q) (s : State) : getQueue (popHead q s) m = getQueue s m :=
  getQueue_updQueue_of_ne other ..

theorem getQueue_dispatched (s : State) (q : Nat) (c : Cmd) (y : Ready) (m : Nat) :
    getQueue (dispatched s q c y) m = getQueue (popHead q s) m := rfl

/-- Settles O42: the head's flight takes the number that was next, and only the queue, the flights and that number change. -/
theorem dispatchedState : Obligations.DispatchedState := by
  rintro s q op c y ⟨-, opcode, -⟩
  dsimp only
  rw [getQueue_dispatched, getQueue_popHead_same]
  exact ⟨rfl, rfl, rfl, fun m other => (getQueue_dispatched ..).trans (getQueue_popHead_of_ne other s), rfl,
    ⟨_, rfl, rfl, rfl, opcode, rfl, rfl, rfl, rfl⟩, rfl, rfl, rfl, rfl, rfl, rfl⟩

end Sys2Proof.Machine

/-! PROOFS. Submitted commands whose head is ready and admitted: tables, memory, configuration, monitors, groups and security
(O44, O45, O46), and what goes on without a queue (O48). -/

namespace Sys2Proof.Machine

/-! ### Checks that all pass (R300) -/

theorem need_of_true {c : Bool} (h : c = true) (st : Nat) : need c st = .ok := if_pos h

theorem firstBad_cons_of_ok {v : Verdict} (h : v = .ok) (l : List Verdict) : firstBad (v :: l) = firstBad l := by
  rw [h, firstBad]

theorem firstBad_pair_of_ok {v w : Verdict} (hv : v = .ok) (hw : w = .ok) : firstBad [v, w] = .ok := by
  rw [firstBad_cons_of_ok hv, firstBad_cons_of_ok hw, firstBad]

/-! ### Dispatch of a head that is ready and admitted (R272, R302) -/

/-- The request a ready head is dispatched with passes the deadline's and the context's check, so its own check decides. -/
theorem dispatchReady_of_checks {s : State} {q : Nat} {c : Cmd} {y : Ready} (ready : (getQueue s q).ready = some y)
    (deadline : deadlinePast s y.slot = .ok) (context : (usesCtx (hOpcode c.bytes) y.slot && retiringCtx s (hContext y.slot)) = false)
    {own : State → Req → Verdict} (passes : own s (readyReq s q c y) = .ok) (start : Req → Nat → State → State) :
    dispatchReady q c own start s = start (readyReq s q c y) s.nextFlight (dispatched s q c y) := by
  have kept := need_of_true (congrArg not context) stContextRetired
  have checks := (firstBad_cons_of_ok deadline _).trans (firstBad_pair_of_ok kept passes)
  simp only [dispatchReady, ready]
  split
  · rfl
  · next failed => exact absurd checks failed

theorem isOp_self (op : Nat) : isOp op op = true := beq_self_eq_true op

theorem dispatch_of_headReady {s : State} {q op : Nat} {c : Cmd} {y : Ready} (head : HeadReady s q op c y) {m : Nat → Bool}
    (row : m op = true) {own : State → Req → Verdict} (passes : own s (readyReq s q c y) = .ok) (charge : State → Req → Nat)
    (start : Req → Nat → State → State) :
    dispatch q m charge own start s = start (readyReq s q c y) s.nextFlight (dispatched s q c y) := by
  obtain ⟨first, rfl, may, ready, admitted, running, deadline, context⟩ := head
  obtain ⟨l, fetched⟩ := List.head?_eq_some_iff.1 first
  have runs := dispatchReady_of_checks ready deadline context passes start
  simp only [dispatch, fetched, row, may, ready, admitted, running, runs, Bool.not_true, Bool.or_false, Bool.false_eq_true,
    if_false, if_true, Option.isSome_some]

section
variable {s : State} {q op : Nat} {c : Cmd} {y : Ready}

/-- A row with an opcode and a check of its own. -/
theorem row_runs {own : State → Req → Verdict} {charge : State → Req → Nat} {start : Req → Nat → State → State}
    (head : HeadReady s q op c y) (passes : own s (readyReq s q c y) = .ok) :
    (.next (dispatch q (isOp op) charge own start s) : Res) =
      .next (start (readyReq s q c y) s.nextFlight (dispatched s q c y)) :=
  congrArg _ (dispatch_of_headReady head (isOp_self op) passes charge start)

/-- A row that writes an item into a set: the set is free, and the item passes its check (R313). -/
theorem stage_runs {set : Req → Nat} {item : State → Req → Item} {echo : State → Req → Nat} {check : State → Req → Verdict}
    (head : HeadReady s q op c y) (free : setFree s (set (readyReq s q c y)) = .ok)
    (passes : check s (readyReq s q c y) = .ok) :
    stage set item echo check q op s = .next (startNow (fun r u => updSet (set r) (putItem (item u r)) u) echo
      (readyReq s q c y) s.nextFlight (dispatched s q c y)) :=
  row_runs head (own := fun u r => firstBad [setFree u (set r), check u r]) (firstBad_pair_of_ok free passes)

end

/-- Settles O44: each row is a dispatch of its queue's head, and the beat a prepare is armed for is the same once the head has
left. -/
theorem tableDispatchRows : Obligations.TableDispatchRows := by
  rintro s q c y _ rfl
  exact ⟨row_runs, fun _ => row_runs, row_runs, row_runs, row_runs, row_runs, row_runs, fun head => row_runs head rfl, row_runs,
    fun head => row_runs head rfl⟩

/-- Settles O45: the rows that stage an item find its set free, and each other row is a dispatch with its own check. -/
theorem configDispatchRows : Obligations.ConfigDispatchRows := by
  rintro s q c y _ rfl
  exact ⟨row_runs, row_runs, fun head free passes => stage_runs head free passes,
    fun head free passes => stage_runs head free passes, fun head free => stage_runs head free rfl,
    fun head free => stage_runs head free rfl, fun head free => stage_runs head free rfl,
    fun head free => stage_runs head free rfl, row_runs, row_runs, row_runs, row_runs, row_runs,
    fun head => row_runs head rfl, row_runs⟩

/-- Settles O46: a member may leave, a domain that does not exist is created, and one that no extent names is erased. -/
theorem securityDispatchRows : Obligations.SecurityDispatchRows := by
  rintro s q c y _ rfl
  refine ⟨row_runs, fun head member => ?leave, fun u head passes same => ?state, row_runs,
    fun head absent => ?create, fun head present unused => ?erase, row_runs⟩
  case leave => exact row_runs head (need_of_true member _)
  case state =>
    subst same
    exact row_runs head passes
  case create => exact row_runs head (need_of_true (decide_eq_true absent) _)
  case erase =>
    have created := need_of_true (bne_iff_ne.2 present) stKeyDomainInvalid
    have free := need_of_true (congrArg not unused) stKeyDomainInUse
    exact row_runs head (firstBad_pair_of_ok created free)

/-! ### Graph nodes, context retirement, gather batches and version queries (R308, R251, R423, R475) -/

theorem graphNodeDispatch_runs {s : State} {fl node : Nat} {g : Flight} {w : Graph} {x : NodeForm}
    (flight : findFlight s fl = some g) (graph : g.work = .graph w) (unfinished : g.done = none) (running : s.beat.paused = false)
    (form : x = parseNode node (readVa s g.context (w.addr + 64 * node) 64).data) (ready : nodeReady w node x = true)
    (free : nodeMustWait s g x.kind = false) (ss : List StreamDesc) :
    exec (.graphNodeDispatch fl node ss) s = .next (runNode g node x ss s) := by
  change execGraphNodeDispatch fl node ss s = _
  subst form
  simp only [execGraphNodeDispatch, flight, graph, unfinished, ready, free, running, Option.isNone_none, Bool.not_false,
    Bool.and_self, if_true]

theorem retireContextDrained_ends {s : State} {c : Nat} (retiring : retiringCtx s c = true)
    (empty : drained s c ((s.mem.retiring.filter fun r => r.context = c).filterMap (·.flight)).head? = true) :
    exec (.retireContextDrained c) s = .next (retireEnd c s) := by
  change execRetireContextDrained c s = _
  simp only [execRetireContextDrained, retiring, empty, Bool.and_self, doWhen_true]

section
variable {s : State} {fl die : Nat} (running : yarrowRunning s fl die = true)
include running

theorem yarrowBatchDone_ends : exec (.yarrowBatchDone fl die false) s = .next (yarrowDone fl die s) := by
  change execYarrowBatchDone fl die false s = _
  simp only [execYarrowBatchDone, running, Bool.not_true, Bool.not_false, Bool.false_eq_true, if_false, if_true]

theorem yarrowProgress_advances (n : Nat) : exec (.yarrowProgress fl die n) s = .next (yarrowProgress fl die n s) := by
  change execYarrowProgress fl die n s = _
  rw [execYarrowProgress, running, doWhen_true]

/-- A batch that breaks a summary invariant runs again once; a second time is a module fault (R423). -/
theorem yarrowBatchDone_violated {f : Flight} {g : Gather} (flight : findFlight s fl = some f) (gather : f.work = .gather g) :
    exec (.yarrowBatchDone fl die true) s = .next (if g.reran.contains die then moduleFault 3 (srcYarrow die) s
      else updFlight fl (fun w => { w with work := .gather { g with reran := g.reran ++ [die] } }) s) := by
  change execYarrowBatchDone fl die true s = _
  simp only [execYarrowBatchDone, running, flight, gather, Bool.not_true, Bool.false_eq_true, if_false]

end

theorem versionReplyTimeout_diverges {s : State} {q : Nat × List Nat × List Nat × Nat}
    (query : s.net.group.queries.find? (fun x => x.1 = q.1) = some q) (waits : q.2.1 ≠ []) (late : q.2.2.2 + 2 ≤ s.beat.edges) :
    exec (.versionReplyTimeout q.1) s = .next (updGroup (fun g => { g with
      diverged := true
      queries := g.queries.filter fun x => x.1 != q.1 }) s) := by
  have due : ¬ (q.2.1.isEmpty || decide (s.beat.edges < q.2.2.2 + 2)) = true := by simp [waits, late]
  change execVersionReplyTimeout q.1 s = _
  simp only [execVersionReplyTimeout, query, if_neg due]

/-- Settles O48: each row runs where its guard holds; a violated batch by whether it has run again already. -/
theorem continuationRows : Obligations.ContinuationRows := by
  intro s
  refine ⟨fun _ _ ss _ _ _ flight graph unfinished running form ready free =>
      graphNodeDispatch_runs flight graph unfinished running form ready free ss,
    ?retire, fun _ _ running => ⟨yarrowBatchDone_ends running, yarrowProgress_advances running⟩, ?again, ?rerun,
    fun _ query waits late => versionReplyTimeout_diverges query waits late⟩
  case retire =>
    rintro c _ retiring rfl empty
    exact retireContextDrained_ends retiring empty
  case again =>
    intro fl die f g running flight gather reran
    rw [yarrowBatchDone_violated running flight gather, if_pos reran]
  case rerun =>
    intro fl die f g running flight gather reran
    rw [yarrowBatchDone_violated running flight gather, if_neg (Bool.eq_false_iff.1 reran)]
    rfl

end Sys2Proof.Machine

/-! PROOFS. PERST# (O29), and the eviction from a full set of the snoop filter (O32). -/

namespace Sys2Proof.Machine

/-! ### PERST# (13 R362) -/

theorem perstAssert_acts {s : State} (rails : s.power.rails = .on) (awake : s.power.state ≠ .s3) : exec .perstAssert s =
    .next (if s.link.perstMode then (if s.link.up then linkLost 2 s else s) else warmReset 2 true s) := by
  have heard : (s.power.rails == .on && s.power.state != .s3) = true := by simp [rails, awake]
  change execPerstAssert s = _
  rw [execPerstAssert, heard, doWhen_true]

/-- Settles O29: PERST# is heard outside S3 with good rails, and PERST_MODE and the link choose what it does. -/
theorem perstRule : Obligations.PerstRule := by
  intro s rails awake
  rw [perstAssert_acts rails awake]
  exact ⟨fun module => by simp [module], fun mode up => by simp [mode, up], fun mode lost => by simp [mode, lost]⟩

/-! ### A full set (13 R354) -/

/-- The way `v` is snooped out for a host request, which waits for the answer; the pointer of the request's set advances. -/
def snoopOut (line : Nat) (ex : Bool) (data : Option (List Byte)) (v : Nat × Bool) (s : State) : State :=
  updLink (fun n => { n with
    snoopPtr := smSet n.snoopPtr (snoopSet line) ((smGet s.link.snoopPtr 0 (snoopSet line) + 1) % 16)
    biWaits := n.biWaits ++ [{ line := v.1, inv := true, since := now s, host := some (line, ex, data) }] })
    (updOut (fun o => { o with snoops := o.snoops ++ [(v.1, true)] }) s)

theorem cxlRequest_of_full {s : State} {line : Nat} {v : Nat × Bool} (absent : snoopFind s line = none)
    (full : (snoopWays s line).length = 16) (victim : (snoopWays s line)[smGet s.link.snoopPtr 0 (snoopSet line)]? = some v)
    (quiet : (s.link.biWaits.any fun b => b.line == v.1) = false) (ex : Bool) (data : Option (List Byte)) :
    cxlRequest line ex data s = snoopOut line ex data v s := by
  have evicts : ¬ ((snoopFind s line).isSome || decide ((snoopWays s line).length < 16)) = true := by simp [absent, full]
  simp only [cxlRequest, if_neg evicts, victim, quiet, Bool.false_eq_true, if_false]
  rfl

theorem snoopPtr_snoopOut (line : Nat) (ex : Bool) (data : Option (List Byte)) (v : Nat × Bool) (s : State) :
    smGet (snoopOut line ex data v s).link.snoopPtr 0 (snoopSet line) = (smGet s.link.snoopPtr 0 (snoopSet line) + 1) % 16 := by
  simp only [snoopOut, updLink_link, smGet_smSet, if_true]

/-- What `snoopOut` appends is found under the victim's line, where nothing waited before. -/
theorem find_biWaits_snoopOut {s : State} {v : Nat × Bool} (quiet : s.link.biWaits.find? (fun b => b.line = v.1) = none)
    (line : Nat) (ex : Bool) (data : Option (List Byte)) :
    (snoopOut line ex data v s).link.biWaits.find? (fun b => b.line = v.1) =
      some { line := v.1, inv := true, since := now s, host := some (line, ex, data) } := by
  change (s.link.biWaits ++ [_]).find? _ = _
  simp only [List.find?_append, quiet, Option.none_or, List.find?_singleton, decide_true, if_true]

/-- An invalidation answered without data frees the line's way, and the host request that waited for it proceeds. -/
theorem birsp_resumes {s : State} {line : Nat} {b : BiWait} {l : Nat} {ex : Bool} {data : Option (List Byte)}
    (waits : s.link.biWaits.find? (fun b => b.line = line) = some b) (inv : b.inv = true) (host : b.host = some (l, ex, data)) :
    exec (.birsp line none) s = .next (cxlRequest l ex data (filterDel line { s with link := { s.link with
      biWaits := s.link.biWaits.filter fun x => x.line != line } })) := by
  change execBirsp line none s = _
  simp only [execBirsp, waits, inv, host, Option.isSome_none, Bool.false_and, Bool.false_eq_true, if_false, if_true]
  rfl

/-- Settles O32: in a full set the request snoops out the way at the pointer, and the answer lets it proceed. -/
theorem fullSetEvicts : Obligations.FullSetEvicts := by
  intro s line ex data v absent full victim quiet t
  have evicted : t = snoopOut line ex data v s := cxlRequest_of_full absent full victim quiet ex data
  clear_value t
  subst evicted
  exact ⟨rfl, snoopPtr_snoopOut .., rfl, rfl, rfl,
    fun unasked => birsp_resumes (find_biWaits_snoopOut unasked line ex data) rfl rfl⟩

end Sys2Proof.Machine

/-! PROOFS. Functions: their reset, IDE streams, the TDISP states and the unmasking of a vector (O33). -/

namespace Sys2Proof.Machine

theorem getFunc_updFunc_same (i : Nat) (f : Func → Func) (s : State) : getFunc (updFunc i f s) i = f (getFunc s i) := by
  rw [getFunc_updFunc, if_pos rfl]

/-! ### Function-level reset (18 R474) -/

theorem functionLevelReset_virtual {s : State} (reach : Reachable s) {f : Nat} (virtual : f ≠ 0) (bound : f < 256) :
    exec (.functionLevelReset f) s = .next (resetFunc f s) := by
  change Host.Outcome.next (hostAccess _ s) = _
  rw [hostAccess_of_reachable reach, if_neg (by omega), if_pos (by simpa using virtual)]

theorem functionLevelReset_physical {s : State} (reach : Reachable s) : exec (.functionLevelReset 0) s =
    .next ((List.range 256).foldl (fun s f => resetFunc f s) (updLink (fun k => { k with vfEnable := false }) s)) := by
  change Host.Outcome.next (hostAccess _ s) = _
  rw [hostAccess_of_reachable reach]
  rfl

/-- A function's reset leaves its MSI-X table clear, its aperture 0 and its TDI unlocked, whatever its queues' resets did. -/
theorem getFunc_resetFunc (f : Nat) (s : State) : ∃ x, getFunc (resetFunc f s) f = { clearMsix false x with
    aperture := 0
    tdi := .unlocked } :=
  ⟨_, getFunc_updFunc_same ..⟩

/-! ### IDE (13 R359) -/

theorem ideIntegrityFail_selective {s : State} {f : Nat} (secure : (getFunc s f).ideSecure = true) :
    exec (.ideIntegrityFail (some f)) s =
      .next (if (lockedFuncs (updFunc f (fun x => { x with ideSecure := false }) s)).contains f
        then tdiError f (updFunc f (fun x => { x with ideSecure := false }) s)
        else updFunc f (fun x => { x with ideSecure := false }) s) := by
  change execIdeIntegrityFail (some f) s = _
  simp only [execIdeIntegrityFail, secure, Bool.not_true, Bool.false_eq_true, if_false]

theorem ideIntegrityFail_link {s : State} (secure : s.link.linkIde = true) : exec (.ideIntegrityFail none) s =
    .next ((lockedFuncs (updLink (fun k => { k with linkIde := false }) s)).foldl (fun s f => tdiError f s)
      (updLink (fun k => { k with linkIde := false }) s)) := by
  change execIdeIntegrityFail none s = _
  simp only [execIdeIntegrityFail, secure, Bool.not_true, Bool.false_eq_true, if_false]

theorem ideKm_link {s : State} (session : sessionUp s = true) :
    exec (.ideKm none) s = .next (answer 0x40 [] (updLink (fun k => { k with linkIde := true }) s)) := by
  change execIdeKm none s = _
  simp only [execIdeKm, session, Bool.not_true, Bool.false_eq_true, if_false]

theorem ideKm_selective {s : State} (session : sessionUp s = true) (f : Nat) :
    exec (.ideKm (some f)) s = .next (answer 0x40 [] (updFunc f (fun x => { x with
      ideSecure := true
      ideKeySet := x.ideKeySet + 1 }) s)) := by
  change execIdeKm (some f) s = _
  simp only [execIdeKm, session, Bool.not_true, Bool.false_eq_true, if_false]

/-! ### TDISP (13 R360) -/

@[simp] theorem getFunc_answer (code : Nat) (data : List Byte) (s : State) (f : Nat) :
    getFunc (answer code data s) f = getFunc s f := rfl
@[simp] theorem getFunc_clearHdm (p : Nat) (s : State) (f : Nat) : getFunc (clearHdm p s) f = getFunc s f := rfl

/-- The HDM bits of the function's partition are held at 0, where it has one (09 R246). -/
def holdHdm (f : Nat) (s : State) : State := match funcPart s f with
  | some p => clearHdm p s
  | none => s

@[simp] theorem getFunc_holdHdm (f : Nat) (s : State) (g : Nat) : getFunc (holdHdm f s) g = getFunc s g := by
  unfold holdHdm
  cases funcPart s f with
  | some p => exact getFunc_clearHdm p s g
  | none => rfl

section Tdisp
variable {s : State} {f : Nat} (virtual : 0 < f) (bound : f < 256)
include virtual bound

theorem tdispRequest_addressed : (decide (f = 0) || decide (255 < f)) = false := by
  simp only [Bool.or_eq_false_iff, decide_eq_false_iff_not]
  omega

theorem tdispRequest_lock (unlocked : (getFunc s f).tdi = .unlocked) : exec (.tdispRequest f 0x83) s =
    .next (answer 0x83 [] (holdHdm f (updFunc f (fun x => { x with tdi := .locked }) s))) := by
  change execTdispRequest f 0x83 s = _
  simp only [execTdispRequest, tdispRequest_addressed virtual bound, Bool.false_eq_true, if_false, if_true, unlocked, beq_self_eq_true]
  rfl

theorem tdispRequest_start (locked : (getFunc s f).tdi = .locked) : exec (.tdispRequest f 0x86) s =
    .next (answer 0x86 [] (updFunc f (fun x => { x with tdi := .run }) s)) := by
  change execTdispRequest f 0x86 s = _
  simp [execTdispRequest, tdispRequest_addressed virtual bound, locked]

theorem tdispRequest_start_refused (notLocked : (getFunc s f).tdi ≠ .locked) :
    exec (.tdispRequest f 0x86) s = .next (answer ansError [] s) := by
  change execTdispRequest f 0x86 s = _
  simp [execTdispRequest, tdispRequest_addressed virtual bound, notLocked]

theorem tdispRequest_stop : exec (.tdispRequest f 0x87) s =
    .next (answer 0x87 [] (updFunc f (fun x => { x with tdi := .unlocked }) s)) := by
  change execTdispRequest f 0x87 s = _
  simp [execTdispRequest, tdispRequest_addressed virtual bound]

end Tdisp

/-! ### Unmasking a vector (13 R350) -/

/-- The vector's entry unmasked and no longer pending, with MSI-X of its function enabled. -/
def vectorOpened (f v : Nat) (s : State) : State :=
  updFunc f (fun g => { g with
    msixEnable := true
    msix := smSet g.msix v { smGet (getFunc s f).msix {} v with
      masked := false
      pending := false } }) s

theorem entry_vectorOpened (f v : Nat) (s : State) : smGet (getFunc (vectorOpened f v s) f).msix {} v =
    { smGet (getFunc s f).msix {} v with
      masked := false
      pending := false } := by
  rw [vectorOpened, getFunc_updFunc_same, smGet_smSet, if_pos rfl]

/-- An opened vector's message goes out. -/
theorem msix_vectorOpened (f v : Nat) (s : State) : msix f v (vectorOpened f v s) =
    updOut (fun o => { o with msix := o.msix ++ [(f, v, now s)] }) (vectorOpened f v s) := by
  have enabled : (getFunc (vectorOpened f v s) f).msixEnable = true := by rw [vectorOpened, getFunc_updFunc_same]
  simp only [msix, enabled, entry_vectorOpened, Bool.not_false, Bool.and_self, if_true]
  rfl

theorem msixUnmask_opens {s : State} (reach : Reachable s) {f v : Nat} (defined : v < vecCount f)
    (bound : barUnbound s f = false) : exec (.msixUnmask f v) s = .next
      (if (smGet (getFunc s f).msix {} v).pending then msix f v (vectorOpened f v s) else vectorOpened f v s) := by
  have answers : ¬ (decide (vecCount f ≤ v) || barUnbound s f) = true := by simp [defined, bound]
  change Host.Outcome.next (hostAccess _ s) = _
  rw [hostAccess_of_reachable reach, msixUnmask, if_neg answers]
  rfl

/-- Settles O33: each row runs where its guard holds; an unmasked vector by whether a message was pending. -/
theorem functionRows : Obligations.FunctionRows := by
  intro s
  refine ⟨fun reach _ virtual bound => functionLevelReset_virtual reach virtual bound,
    fun reach => ⟨updLink (fun k => { k with vfEnable := false }) s, rfl, rfl, functionLevelReset_physical reach⟩, ?reset,
    fun _ secure => ⟨_, rfl, ideIntegrityFail_selective secure⟩, fun secure => ⟨_, rfl, ideIntegrityFail_link secure⟩,
    fun session => ⟨⟨_, ideKm_link session, rfl⟩, ideKm_selective session⟩, ?tdisp, ?unmask⟩
  case reset =>
    intro f
    obtain ⟨x, reset⟩ := getFunc_resetFunc f s
    rw [reset]
    exact ⟨rfl, rfl⟩
  case tdisp =>
    intro f virtual bound
    refine ⟨fun unlocked => ⟨_, tdispRequest_lock virtual bound unlocked, ?_⟩,
      fun locked => ⟨_, tdispRequest_start virtual bound locked, ?_⟩, ⟨_, tdispRequest_stop virtual bound, ?_⟩,
      fun notLocked => ⟨_, tdispRequest_start_refused virtual bound notLocked, rfl, rfl⟩⟩
    all_goals simp only [getFunc_answer, getFunc_holdHdm, getFunc_updFunc_same]
  case unmask =>
    intro reach f v defined bound
    have runs := msixUnmask_opens reach defined bound
    have entry := entry_vectorOpened f v s
    by_cases pending : (smGet (getFunc s f).msix {} v).pending = true
    · rw [if_pos pending, msix_vectorOpened] at runs
      rw [if_pos pending]
      exact ⟨_, runs, congrArg Vector_.masked entry, congrArg Vector_.pending entry, rfl, rfl, rfl⟩
    · rw [if_neg pending] at runs
      rw [if_neg pending, List.append_nil]
      exact ⟨_, runs, congrArg Vector_.masked entry, congrArg Vector_.pending entry, rfl, rfl, rfl⟩

end Sys2Proof.Machine

/-! PROOFS. The ports of the network: packets, acknowledgements, frames and links (O51). -/

namespace Sys2Proof.Machine

/-! ### Transmission (R391) -/

section Transmit
variable {s : State} {sub : Nat} {x : Nat × TxMsg} (up : subUp s sub = true)
include up

theorem packetTransmit_control (control : pickFlow s sub 0 = some x) :
    exec (.packetTransmit sub) s = .next (transmit sub 0 x s) := by
  change execPacketTransmit sub s = _
  simp only [execPacketTransmit, up, Bool.not_true, Bool.false_eq_true, if_false, control]

theorem packetTransmit_latencyCritical (control : pickFlow s sub 0 = none) (critical : pickFlow s sub 1 = some x) :
    exec (.packetTransmit sub) s = .next (transmit sub 1 x s) := by
  change execPacketTransmit sub s = _
  simp only [execPacketTransmit, up, Bool.not_true, Bool.false_eq_true, if_false, control, critical]

theorem packetTransmit_bestEffort (control : pickFlow s sub 0 = none) (critical : pickFlow s sub 1 = none)
    (best : pickFlow s sub 2 = some x) : exec (.packetTransmit sub) s = .next (transmit sub 2 x s) := by
  change execPacketTransmit sub s = _
  simp only [execPacketTransmit, up, Bool.not_true, Bool.false_eq_true, if_false, control, critical, best]

end Transmit

/-! ### Retransmission and acknowledgement timers (R386, R388) -/

section FlowTimers
variable {s : State} {peer psn : Nat} {f : Flow} {k : TxPkt} (flow : findFlow s peer = some f)
include flow

theorem rtoExpiry_givesUp (packet : f.pkts.find? (fun q => q.psn = psn) = some k) (spent : s.net.retryMax ≤ k.tries) :
    exec (.rtoExpiry peer psn) s = .next (giveUp peer psn (advance k.due s)) := by
  have kept : (advance k.due s).net = s.net := rfl
  change execRtoExpiry peer psn s = _
  simp only [execRtoExpiry, flow, packet, kept, spent, if_true]

theorem rtoExpiry_resends (packet : f.pkts.find? (fun q => q.psn = psn) = some k) (left : k.tries < s.net.retryMax) :
    exec (.rtoExpiry peer psn) s = .next (updFlow peer (fun f => { f with
      pkts := f.pkts.map fun x => if x.psn = psn then { x with
        tries := k.tries + 1
        due := now (advance k.due s) + rtoNs (advance k.due s) * min (2 ^ (k.tries + 1)) 8 } else x })
      (resend true peer k (advance k.due s))) := by
  have kept : (advance k.due s).net = s.net := rfl
  change execRtoExpiry peer psn s = _
  simp only [execRtoExpiry, flow, packet, kept, Nat.not_le.2 left, if_false]

theorem ackTimer_sends {n due : Nat} (awaited : f.ackDue = some (n, due)) :
    exec (.ackTimer peer) s = .next (sendAck peer (advance due s)) := by
  change execAckTimer peer s = _
  simp only [execAckTimer, flow, awaited]

end FlowTimers

/-! ### Congestion control (R390) -/

theorem ccTick_updates {s : State} (on : portsOn s = true) : exec .ccTick s =
    .next (updNet (fun n => { n with flows := smMap n.flows fun _ f => ccTickFlow (advance (nextMultiple 10000 s) s) f })
      (advance (nextMultiple 10000 s) s)) := by
  change execCcTick s = _
  simp only [execCcTick, on, Bool.not_true, Bool.false_eq_true, if_false]

/-! ### A message refused for the configuration (R387; log 47) -/

/-- The message as it goes again: under the flow's next number, with this device's present epoch and digest. -/
def renumbered (s : State) (peer q : Nat) (m : TxMsg) : TxMsg :=
  { m with
    mseq := q
    header := patch (patch m.header 4 (le 2 (srcPeer s) ++ le 2 (dstPeer s peer) ++ le 4 s.net.group.epoch ++
      le 4 s.net.group.digest)) 36 (le 4 q)
    sent := 0
    resendAt := none }

/-- The flow with message `m` replaced by `n`, which took the number `q`. -/
def requeue (m n : TxMsg) (q : Nat) (f : Flow) : Flow :=
  { f with
    nextMsg := (q + 1) % 2 ^ 32
    txMsgs := f.txMsgs.filter (fun x => !(x == m)) ++ [n] }

/-- A commit that awaits the peer's answer to `mseq` awaits the one to `q` instead. -/
def awaitRenumbered (peer mseq q : Nat) (g : Group) : Group :=
  { g with syncs := g.syncs.map fun x => (x.1, x.2.1.map (fun y => if y = (peer, mseq) then (peer, q) else y), x.2.2) }

section ConfigNack
variable {s : State} {peer mseq at_ : Nat} {f : Flow} {m : TxMsg} (flow : findFlow s peer = some f)
  (waiting : (f.txMsgs.find? fun m => m.mseq = mseq && m.resendAt.isSome) = some m) (due : m.resendAt = some at_)
include flow waiting due

theorem configNackResend_fails (late : m.nackCfg.getD s.beat.edges + 2 ≤ s.beat.edges) :
    exec (.configNackResend peer mseq) s = .next (msgFailed peer m stNetConfigMismatch nkConfig 0 (advance at_ s)) := by
  have kept : (advance at_ s).beat = s.beat := rfl
  change execConfigNackResend peer mseq s = _
  simp only [execConfigNackResend, flow, waiting, due, Option.getD_some, kept, late, if_true]

theorem configNackResend_requeues (early : s.beat.edges < m.nackCfg.getD s.beat.edges + 2) :
    exec (.configNackResend peer mseq) s =
      .next (updFlow peer (requeue m (renumbered (advance at_ s) peer f.nextMsg m) f.nextMsg)
        (updGroup (awaitRenumbered peer mseq f.nextMsg) (advance at_ s))) := by
  have kept : (advance at_ s).beat = s.beat := rfl
  change execConfigNackResend peer mseq s = _
  simp only [execConfigNackResend, flow, waiting, due, Option.getD_some, kept, Nat.not_le.2 early, if_false]
  rfl

end ConfigNack

/-! ### Address resolution (R365) -/

theorem arpRequest_answers {s : State} {sub : Nat} (up : subUp s sub = true) (ipv4 : subIpv4 s sub = true) :
    exec (.arpRequest sub ((getSub s sub).ip.toNat % 2 ^ 32)) s = .next (putFrame sub 1
      (le 6 ((getSub s sub).mac.toNat % 2 ^ 48) ++ le 4 ((getSub s sub).ip.toNat % 2 ^ 32)) s) := by
  change execArpRequest sub _ s = _
  simp only [execArpRequest, up, ipv4, beq_self_eq_true, Bool.and_self, doWhen_true]

theorem neighbourSolicitation_answers {s : State} {sub : Nat} (up : subUp s sub = true) (ipv6 : subIpv4 s sub = false) :
    exec (.neighbourSolicitation sub (getSub s sub).ip.toNat) s = .next (putFrame sub 2
      (le 6 ((getSub s sub).mac.toNat % 2 ^ 48) ++ le 16 (getSub s sub).ip.toNat) s) := by
  change execNeighbourSolicitation sub _ s = _
  simp only [execNeighbourSolicitation, up, ipv6, Bool.not_false, beq_self_eq_true, Bool.and_self, doWhen_true]

/-! ### Pauses, links and modes (R366, R369, R370) -/

/-- The priorities that a received PFC frame pauses: those of the port's mask that it names. -/
def pausedBy (v : Nat) (p : Port) : List Nat := (List.range 8).filter fun i => bit v i && bit p.pfcMask i

theorem mem_pausedBy {v i : Nat} {p : Port} : i ∈ pausedBy v p ↔ i < 8 ∧ bit v i = true ∧ bit p.pfcMask i = true := by
  simp only [pausedBy, List.mem_filter, List.mem_range, Bool.and_eq_true]

theorem pfcFrame_pauses {s : State} {k v : Nat} (port : k < 4) (on : portsOn s = true) (pfc : (getPort s k).pfcEn = true) :
    exec (.pfcFrame k v) s = .next (updPort k (fun p => { p with paused := pausedBy v p }) s) := by
  change execPfcFrame k v s = _
  simp only [execPfcFrame, port, on, pfc, decide_true, Bool.and_self, doWhen_true]
  rfl

section LinkChange
variable {s : State} {sub : Nat} {up locked : Bool} (bound : sub < 16) (on : portsOn s = true)

theorem portLinkChange_inLoopback (held : loopback s (sub / 4) = true) : exec (.portLinkChange sub up locked) s = .next s := by
  change execPortLinkChange sub up locked s = _
  simp only [execPortLinkChange, held, Bool.not_true, Bool.and_false, doWhen_false]

include bound on in
theorem portLinkChange_sets (free : loopback s (sub / 4) = false) :
    exec (.portLinkChange sub up locked) s = .next (setLinkState sub up locked s) := by
  change execPortLinkChange sub up locked s = _
  simp only [execPortLinkChange, bound, on, free, decide_true, Bool.not_false, Bool.and_self, doWhen_true]

end LinkChange

@[simp] theorem getSub_emit (src code part : Nat) (fields : List (Nat × Nat × Nat)) (s : State) (k : Nat) :
    getSub (emit src code part fields s) k = getSub s k := rfl

theorem setLinkState_changed {s : State} {sub : Nat} {up locked : Bool}
    (changed : (getSub s sub).linkUp ≠ up ∨ (getSub s sub).pcs ≠ locked) : setLinkState sub up locked s =
      emit (srcPort sub) evLinkState devPart [(20, 1, b2n up), (21, 1, b2n locked)] (updSub sub (fun w => { w with
        linkUp := up
        pcs := locked }) s) := by
  refine if_neg fun same => ?_
  obtain ⟨sameUp, sameLock⟩ := Bool.and_eq_true_iff.1 same
  exact changed.elim (· (beq_iff_eq.1 sameUp)) (· (beq_iff_eq.1 sameLock))

theorem portModeWrite_writes {s : State} (reach : Reachable s) {k : Nat} (port : k < 4) (v : BitVec 32) :
    exec (.portModeWrite k v) s = .next (updPort k (portCtrl v.toNat) s) := by
  change Host.Outcome.next (hostAccess _ s) = _
  rw [hostAccess_of_reachable reach, if_pos port]

/-! ### Received frames (R365, R367, R369) -/

section Frames
variable {s : State} {f : Frame} (on : portsOn s = true) (bound : f.sub < 16)
include on bound

/-- The guard of the row: working ports, and a sub-port that exists. -/
theorem frameReceive_guard : (!portsOn s || decide (16 ≤ f.sub)) = false := by
  rw [on, decide_eq_false (Nat.not_le.2 bound)]
  rfl

theorem frameReceive_rejected (rejected : frameAccepted s f = false) :
    exec (.frameReceive f) s = .next (countDrop f.sub s) := by
  change execFrameReceive f s = _
  simp only [execFrameReceive, frameReceive_guard on bound, rejected, Bool.not_false, Bool.false_eq_true, if_false, if_true]

theorem frameReceive_other (accepted : frameAccepted s f = true) (other : f.kind ≠ 2) :
    exec (.frameReceive f) s = .next s := by
  change execFrameReceive f s = _
  simp only [execFrameReceive, frameReceive_guard on bound, accepted, bne_iff_ne.2 other, Bool.not_true, Bool.false_eq_true,
    if_false, if_true]

theorem frameReceive_noRoom (accepted : frameAccepted s f = true) (udp : f.kind = 2)
    (noPfc : (getPort s (f.sub / 4)).pfcEn = false) (full : rxBufferBytes < rxHeld (getPort s (f.sub / 4)) + f.bytes) :
    exec (.frameReceive f) s = .next (countDrop f.sub s) := by
  change execFrameReceive f s = _
  simp only [execFrameReceive, frameReceive_guard on bound, accepted, udp, noPfc, decide_eq_true full, bne_self_eq_false,
    Bool.not_true, Bool.not_false, Bool.and_self, Bool.false_eq_true, if_false, if_true]

theorem frameReceive_held (accepted : frameAccepted s f = true) (udp : f.kind = 2)
    (room : (getPort s (f.sub / 4)).pfcEn = true ∨ rxHeld (getPort s (f.sub / 4)) + f.bytes ≤ rxBufferBytes) :
    exec (.frameReceive f) s = .next (pfcCheck f.sub (updPort (f.sub / 4) (fun p => { p with
      rxBytes := smSet p.rxBytes (f.pcp % 8) (smGet p.rxBytes 0 (f.pcp % 8) + f.bytes) }) s)) := by
  have fits : (!(getPort s (f.sub / 4)).pfcEn &&
      decide (rxBufferBytes < rxHeld (getPort s (f.sub / 4)) + f.bytes)) = false := by
    rcases room with pfc | room
    · rw [pfc, Bool.not_true, Bool.false_and]
    · rw [decide_eq_false (Nat.not_lt.2 room), Bool.and_false]
  change execFrameReceive f s = _
  simp only [execFrameReceive, frameReceive_guard on bound, accepted, udp, fits, bne_self_eq_false, Bool.not_true,
    Bool.false_eq_true, if_false]

end Frames

/-- Settles O51: each row runs where its guards hold; a message refused for the configuration stands anew at the end of its
flow, and a link that changes adds one event. -/
theorem networkRows : Obligations.NetworkRows := by
  refine ⟨fun s => ⟨fun sub x => packetTransmit_control, fun sub x => packetTransmit_latencyCritical,
    fun sub x => packetTransmit_bestEffort, ?timer, fun peer f n due flow awaited => ackTimer_sends flow awaited,
    fun on => ⟨_, rfl, ccTick_updates on⟩,
    fun peer mseq f m at_ => configNackResend_fails, ?resend, fun sub => arpRequest_answers,
    fun sub => neighbourSolicitation_answers, ?pause, fun sub up locked _ _ => portLinkChange_inLoopback, ?link,
    fun k v reach port => portModeWrite_writes reach port v⟩,
    fun s f on bound => ⟨frameReceive_rejected on bound, frameReceive_other on bound, frameReceive_noRoom on bound,
      frameReceive_held on bound⟩⟩
  case timer =>
    rintro peer psn f k u flow packet rfl
    exact ⟨rtoExpiry_givesUp flow packet, rtoExpiry_resends flow packet⟩
  case resend =>
    intro peer mseq f m at_ flow waiting due early
    refine ⟨_, configNackResend_requeues flow waiting due early, ?_⟩
    have found : findFlow (updGroup (awaitRenumbered peer mseq f.nextMsg) (advance at_ s)) peer = some f := flow
    simp only [now, updFlow_clock, updFlow_mem, updFlow_queues, updFlow_flights, findFlow_updFlow, if_true, found, Option.map_some]
    exact ⟨Nat.le_max_right _ _, rfl, rfl, rfl, _, _, rfl, rfl, List.mem_append_right _ (List.mem_singleton_self _), rfl, rfl, rfl⟩
  case pause =>
    intro k v port on pfc
    refine ⟨_, pfcFrame_pauses port on pfc, fun i => ?_, fun j other => ?_, rfl, rfl, rfl⟩
    · rw [getPort_updPort, if_pos rfl]
      exact mem_pausedBy
    · rw [getPort_updPort, if_neg other]
  case link =>
    intro sub up locked bound on free changed
    refine ⟨_, portLinkChange_sets bound on free, ?_⟩
    rw [setLinkState_changed changed]
    refine ⟨?_, ⟨_, rfl, rfl⟩, rfl, rfl, rfl⟩
    rw [getSub_emit, getSub_updSub, if_pos rfl]

end Sys2Proof.Machine

/-! PROOFS. The step: a command at the front, or a tick (O1, O2, O3), and the state after reset (O5). -/

namespace Sys2Proof.Machine

theorem step_of_empty {s : State} (empty : s.pending = []) : step s = .next (tick s) := by
  simp only [step, empty]

theorem step_of_front {c : Instr} {rest : List Instr} {s : State} (front : s.pending = c :: rest) :
    step s = exec c { s with pending := rest } := by
  simp only [step, front]

/-- Settles O3: a tick leaves the empty queue alone, and no command touches the queue's rest it runs on. -/
theorem queueIsFirstInFirstOut : Obligations.QueueIsFirstInFirstOut := by
  intro s t stepped
  cases queue : s.pending with
  | nil =>
    rw [step_of_empty queue] at stepped
    obtain rfl := Host.Outcome.next.inj stepped
    obtain ⟨untouched, -⟩ := tick_keeps (Keeps.refl s)
    rw [untouched, queue, List.tail_nil]
  | cons c rest =>
    rw [step_of_front queue] at stepped
    obtain ⟨untouched, -⟩ := keeps_of_exec stepped
    rw [untouched, List.tail_cons]

/-- Settles O1: the branch of a step with a command at the front. -/
theorem stepRunsFrontCommand : Obligations.StepRunsFrontCommand := fun _ _ _ => step_of_front

theorem tick_changes (s : State) : ∃ c, tick s = { s with clock := c } := by
  unfold tick
  split
  · exact ⟨s.clock, rfl⟩
  · exact ⟨_, rfl⟩

theorem tick_of_no_power {s : State} (off : s.power.rails = .none_) : tick s = s := by
  rw [tick, off, beq_self_eq_true, if_pos rfl]

/-- Settles O2: a step on an empty queue is a tick, which Clover's supply gates. -/
theorem emptyQueueOnlyTicks : Obligations.EmptyQueueOnlyTicks := by
  intro s empty
  obtain ⟨c, ticked⟩ := tick_changes s
  rw [step_of_empty empty]
  exact ⟨⟨c, congrArg _ ticked⟩, fun off => congrArg _ (tick_of_no_power off)⟩

/-- Settles O5: the reset state lists no cell and no command. -/
theorem resetIsCanonical : Obligations.ResetIsCanonical := ⟨reset_mem_wf, rfl, rfl⟩

end Sys2Proof.Machine

/-! PROOFS. Faults that a detector reports, and the module fault (O53). -/

namespace Sys2Proof.Machine

/-! ### What leaves the power registers alone -/

@[simp] theorem emit_power (src code part : Nat) (fields : List (Nat × Nat × Nat)) (s : State) :
    (emit src code part fields s).power = s.power := rfl

@[simp] theorem msix_power (f v : Nat) (s : State) : (msix f v s).power = s.power := by
  simp only [msix, apply_ite State.power, updOut_power, updFunc_power, ite_self]

@[simp] theorem sendAll_power (ps : List Nat) (m : Msg) (s : State) : (sendAll ps m s).power = s.power := by
  refine List.foldlRecOn _ _ (motive := fun u : State => u.power = s.power) rfl fun u kept p _ => ?_
  unfold sendMsg
  split
  · exact kept
  · simpa using kept

@[simp] theorem leaveNow_power (s : State) : (leaveNow s).power = s.power := by
  simp only [leaveNow, groupChange, emit_power, updGroup_power, sendAll_power]

theorem writePiece_power (mode : Nat) (ok : Nat → Bool) (pa0 : Nat) (bs : List Byte) (x : State × Acc) (p : Nat × Nat) :
    (writePiece mode ok pa0 bs x p).1.power = x.1.power := by
  simp only [writePiece, apply_ite Prod.fst, apply_ite State.power, updMem_power, ite_self]

theorem putVa_power (c va : Nat) (bs : List Byte) (s : State) : (putVa c va bs s).power = s.power :=
  List.foldlRecOn _ _ (motive := fun y : State × Acc => y.1.power = s.power) rfl fun _ kept _ _ =>
    List.foldlRecOn _ _ (motive := fun z : State × Acc => z.1.power = s.power) kept fun _ kept _ _ =>
      (writePiece_power ..).trans kept

theorem placeFault_power (f : Flight) (r : FaultRec) (s : State) : (placeFault f r s).power = s.power := by
  simp only [placeFault, faultPut, setFaultq, apply_ite State.power, msix_power, updMem_power, putVa_power, ite_self]

theorem placeAccess_power (f : Flight) (s : State) : (placeAccess f s).power = s.power := by
  unfold placeAccess
  cases f.denied <;> cases f.uncorr <;> simp [placeFault_power]

theorem placeStatus_power (f : Flight) (st : Nat) (s : State) : (placeStatus f st s).power = s.power := by
  simp only [placeStatus, apply_ite State.power, placeFault_power, ite_self]

theorem trySignal_power (n : Nat) (s : State) : (trySignal n s).power = s.power := by
  unfold trySignal
  cases findFlight s n with
  | none => rfl
  | some f => simp only [fenceRaise, apply_ite State.power, updFlight_power, ite_self]

theorem finishTop_power (n st : Nat) (s : State) : (finishTop n st s).power = s.power := by
  unfold finishTop
  cases findFlight s n with
  | none => rfl
  | some f => simp only [apply_ite State.power, trySignal_power, haltQueue, updQueue_power, placeStatus_power, placeAccess_power,
      dropStages_power, updFlight_power, ite_self]

theorem stopFlight_power (n : Nat) (s : State) : (stopFlight n s).power = s.power :=
  List.foldlRecOn _ _ (motive := fun u : State => u.power = s.power) rfl fun _ kept _ _ => kept

theorem retractFlight_power (n : Nat) (s : State) : (retractFlight n s).power = s.power := by
  unfold retractFlight
  cases findFlight s n with
  | none => rfl
  | some f =>
    have dropped (l : List Nat) : (l.foldl (fun s k => dropFlight k s) (stopFlight n s)).power = s.power :=
      List.foldlRecOn _ _ (motive := fun u : State => u.power = s.power) (stopFlight_power n s) fun _ kept _ _ => kept
    simp only [apply_ite State.power, finishTop_power, updFlight_power, dropped, ite_self]

theorem retractAll_power (s : State) : (retractAll s).power = s.power :=
  List.foldlRecOn _ _ (motive := fun u : State => u.power = s.power) rfl fun _ kept _ _ => (retractFlight_power ..).trans kept

/-! ### The module fault (R424) -/

theorem moduleFault_of_faulted {s : State} (faulted : s.power.moduleFault ≠ none) (c u : Nat) : moduleFault c u s = s :=
  if_pos (Option.isSome_iff_ne_none.2 faulted)

/-- The RETRACT messages for the checks that were pending. -/
theorem retractsSent_power (pend : List (Nat × Nat)) (s : State) : (pend.foldl (fun s c =>
    sendAll (otherMembers s) (retractMsg c.1 c.2) (sendAll (otherMembers s) (retractMsg c.1 c.2) s)) s).power = s.power :=
  List.foldlRecOn _ _ (motive := fun u : State => u.power = s.power) rfl fun _ kept _ _ => by simpa using kept

/-- The first fault sets its cause; what it aborts and sends leaves the power registers alone. -/
theorem moduleFault_power {s : State} (first : s.power.moduleFault = none) (c u : Nat) :
    (moduleFault c u s).power = { s.power with moduleFault := some c } := by
  simp [moduleFault, first, apply_ite State.power, retractsSent_power, retractAll_power]

theorem moduleFault_faulted (c u : Nat) (s : State) : (moduleFault c u s).power.moduleFault.isSome = true := by
  cases cause : s.power.moduleFault with
  | none => rw [moduleFault_power cause]; rfl
  | some d => rw [moduleFault_of_faulted (by simp [cause]), cause]; rfl

theorem mayDispatch_of_admissionStopped {s : State} (stopped : admissionStopped s = true) (q : Nat) (b : List Byte) :
    mayDispatch s q b = false := by
  simp only [mayDispatch, stopped, Bool.not_true, Bool.and_false, Bool.false_and]

theorem admissionStopped_of_faulted {s : State} (faulted : s.power.moduleFault.isSome = true) : admissionStopped s = true := by
  simp only [admissionStopped, faulted, Bool.true_or]

/-! ### Detectors (R423, 01 R21, 16 R440) -/

section Detectors
variable (s : State)

theorem scratchpadEccError_acts {t : Nat} (tile : t < 128) (double : Bool) :
    exec (.scratchpadEccError t double) s = .next (if double then quarantine t s else s) := by
  change execScratchpadEccError t double s = _
  rw [execScratchpadEccError, decide_eq_true tile, Bool.and_true, doWhen]

/-- The flit's failed replays counted. -/
def flitCounted (l n : Nat) : State := { s with integ := { s.integ with flitFails := smSet s.integ.flitFails l n } }

theorem flitCrcError_replayed (l : Nat) : exec (.flitCrcError l true) s =
    .next (if 3 ≤ smGet s.integ.flitFails 0 l + 1 then moduleFault 1 srcCmd (flitCounted s l (smGet s.integ.flitFails 0 l + 1))
      else flitCounted s l (smGet s.integ.flitFails 0 l + 1)) := rfl

variable {s}

theorem trngHealthFail_first (healthy : s.sec.trngFails = 0) : exec .trngHealthFail s = .next { s with
    freeCtr := s.freeCtr + 1
    sec := { s.sec with
      trngFails := 1
      trng := 1 } } := by
  change execTrngHealthFail s = _
  simp only [execTrngHealthFail, healthy, updSec]
  rfl

theorem trngHealthFail_again (failed : 1 ≤ s.sec.trngFails) : exec .trngHealthFail s = .next (moduleFault 4 srcCmd { s with
    freeCtr := s.freeCtr + 1
    sec := { s.sec with
      trngFails := s.sec.trngFails + 1
      trng := 2 } }) := by
  have twice : 2 ≤ s.sec.trngFails + 1 := Nat.succ_le_succ failed
  change execTrngHealthFail s = _
  simp only [execTrngHealthFail, if_pos twice, updSec]

end Detectors

/-- Settles O53: the detectors by the cases of their counts; a module fault keeps its cause, and admission stops while there is one. -/
theorem detectorRows : Obligations.DetectorRows := by
  refine ⟨fun s => ⟨rfl, rfl, rfl, ?scratchpad, fun _ => rfl, ?few, ?third, trngHealthFail_first, trngHealthFail_again⟩,
    fun s c u => ⟨?first, fun faulted => moduleFault_of_faulted faulted c u,
      mayDispatch_of_admissionStopped (admissionStopped_of_faulted (moduleFault_faulted c u s))⟩⟩
  case scratchpad => exact fun t tile => ⟨scratchpadEccError_acts s tile true, scratchpadEccError_acts s tile false⟩
  case few => exact fun l few => (flitCrcError_replayed s l).trans (congrArg _ (if_neg (by omega)))
  case third => exact fun l many => (flitCrcError_replayed s l).trans (congrArg _ (if_pos (by omega)))
  case first => exact fun first => congrArg Power.moduleFault (moduleFault_power first c u)

end Sys2Proof.Machine

/-! PROOFS. Timers of the integrity checks, and the tests of tiles and other units (O54). -/

namespace Sys2Proof.Machine

/-! ### Timers (R409) -/

theorem checkAgeExpiry_forces (s : State) {t : Nat} (tile : t < 128) : exec (.checkAgeExpiry t) s =
    .next { advance ((getTile s t).ageStart + 12000000) s with
      tiles := smSet s.tiles t { getTile s t with forced := true } } := by
  change execCheckAgeExpiry t s = _
  rw [execCheckAgeExpiry, decide_eq_true tile, doWhen_true]
  rfl

/-! ### Tests (R413, R426 to R428) -/

section Tests
variable {s : State} {t : Nat}

theorem quarantineTestDone_ends (tile : t < 128) (quarantined : (getTile s t).withdrawn = some .quarantine)
    (waiting : (getTile s t).returning = false) (unchanged : (getTile s t).widthNext = none) (r : TestResult) :
    exec (.quarantineTestDone t r) s = .next (quarantineDone t r s) := by
  change execQuarantineTestDone t r s = _
  rw [execQuarantineTestDone, decide_eq_true tile, quarantined, waiting, unchanged]
  rfl

theorem testSlotStart_withdraws {w : Withdrawn} (may : slotMayStart s t = true) (use : slotFor s t = some w) :
    exec (.testSlotStart t) s = .next { s with tiles := smSet s.tiles t { getTile s t with withdrawn := some w } } := by
  change execTestSlotStart t s = _
  simp only [execTestSlotStart, may, use, Bool.not_true, Bool.false_eq_true, if_false]
  rfl

theorem testSlotEnd_tile (tile : t < 128) (r : TestResult) : exec (.testSlotEnd t r) s = .next (slotEnd t r s) :=
  congrArg _ (if_pos tile)

theorem testSlotEnd_unit (unit : 128 ≤ t) (r : TestResult) : exec (.testSlotEnd t r) s = .next (unitEnd t r s) :=
  congrArg _ (if_neg (Nat.not_lt.2 unit))

/-- A self-test without a fault gives the tile back, its check age begun anew. -/
theorem slotEnd_of_selfTest {r : TestResult} (selfTest : (getTile s t).withdrawn = some .selfTest) (clean : r.fault = false) :
    slotEnd t r s = updTile t (fun x => { x with
      ageStart := now s
      lastPass := now s
      forced := false }) (updTile t (fun x => { x with withdrawn := none }) s) := by
  simp only [slotEnd, selfTest, clean, Bool.false_eq_true, if_false]
  rfl

end Tests

/-! ### Calibration (R429) -/

/-- The tiles of a die that wait for calibration once the timer has queued those that work and do not wait yet. -/
def calibQueue (s : State) (d : Nat) : List Nat := smGet s.integ.calib [] d ++
  (List.range 32).filter fun i => !(getTile s (d * 32 + i)).retired && !(smGet s.integ.calib [] d).contains i

theorem calibrationTimer_queues (s : State) : exec .calibrationTimer s = .next { advance s.integ.calAt s with
    integ := { s.integ with
      calAt := s.integ.calAt + 60000000000
      calib := (List.range 4).map fun d => (d, calibQueue s d) } } := rfl

/-- A map that lists the four dies gives each its own. -/
theorem smGet_dies {α : Type} (f : Nat → α) (x : α) {d : Nat} (die : d < 4) :
    smGet ((List.range 4).map fun d => (d, f d)) x d = f d :=
  match d, die with
  | 0, _ | 1, _ | 2, _ | 3, _ => rfl

theorem mem_calibQueue {s : State} {d i : Nat} (tile : i < 32) (working : (getTile s (d * 32 + i)).retired = false) :
    i ∈ calibQueue s d := by
  by_cases waits : i ∈ smGet s.integ.calib [] d
  · exact List.mem_append_left _ waits
  · exact List.mem_append_right _ (List.mem_filter.2 ⟨List.mem_range.2 tile, by simp [working, waits]⟩)

/-- Settles O54: each row is its shared operation where the tile's state allows it; a clean self-test writes one tile twice; the
timer queues every tile of a die that works. -/
theorem testRows : Obligations.TestRows := by
  intro s
  refine ⟨fun t => checkAgeExpiry_forces s, rfl, rfl, fun t r tile quarantined waiting unchanged =>
    quarantineTestDone_ends tile quarantined waiting unchanged r, fun t w => testSlotStart_withdraws, fun t r tile =>
    testSlotEnd_tile tile r, fun t r unit => testSlotEnd_unit unit r, ?selfTest, ?calibration⟩
  case selfTest =>
    intro t r tile selfTest clean
    refine ⟨_, testSlotEnd_tile tile r, ?_⟩
    rw [slotEnd_of_selfTest selfTest clean]
    dsimp only
    rw [getTile_updTile_same, getTile_updTile_same]
    refine ⟨rfl, rfl, rfl, rfl, rfl, fun j other => ?_⟩
    rw [getTile_updTile, if_neg other, getTile_updTile, if_neg other]
  case calibration =>
    refine ⟨_, calibrationTimer_queues s, Nat.le_max_right _ _, rfl, rfl, rfl, fun d i die tile working => ?_⟩
    rw [smGet_dies _ _ die]
    exact mem_calibQueue tile working

end Sys2Proof.Machine

/-! PROOFS. Commands of the sideband: SPDM (O34), MCTP control and PLDM (O35), and what none of them changes (O36). -/

namespace Sys2Proof.Machine

/-! ### SPDM: the stage of a connection (16 R444) -/

section Spdm
variable {s : State} {tr : Nat} (heard : spdmHeard s tr = true)
include heard

theorem spdm_refused (refused : spdmRefused s = true) (stage : Nat) (act : State → State) :
    spdm tr stage act s = .next (answer ansError [] s) := by
  simp only [spdm, heard, refused, Bool.not_true, Bool.false_eq_true, if_false, if_true]

variable (answers : spdmRefused s = false)
include answers

theorem spdm_reached {stage : Nat} (reached : stage ≤ spdmStage s tr) (act : State → State) : spdm tr stage act s = .next (act s) := by
  simp only [spdm, heard, answers, reached, Bool.not_true, Bool.false_eq_true, if_false, if_true]

theorem spdm_early {stage : Nat} (early : spdmStage s tr < stage) (act : State → State) :
    spdm tr stage act s = .next (answer ansError [] s) := by
  simp only [spdm, heard, answers, Nat.not_le.2 early, Bool.not_true, Bool.false_eq_true, if_false]

end Spdm

/-! ### SPDM: measurements, reports and sessions (16 R444) -/

section Connected
variable {s : State} {tr : Nat} (heard : spdmHeard s tr = true) (answers : spdmRefused s = false) (connected : 3 ≤ spdmStage s tr)
include heard answers connected

theorem getMeasurements_one {i : Nat} {b : List Byte} (notCount : i ≠ 0) (notAll : i ≠ 0xFF) (block : measurement s i = some b)
    (nonce : List Byte) : exec (.getMeasurements tr i nonce) s =
      .next (answer 0x60 (le 1 i ++ b ++ aliasSign s (le 1 i ++ b ++ nonce)) s) := by
  change execGetMeasurements tr i nonce s = _
  refine (spdm_reached heard answers connected _).trans ?_
  simp only [notCount, notAll, block, if_false]

theorem vendorDefinedRequest_report {f p : Nat} (part : funcPart s f = some p) (nonce : List Byte) :
    exec (.vendorDefinedRequest tr 1 f nonce) s = .next (answer 0x7E (report s (some p) f nonce) s) := by
  change execVendorDefinedRequest tr 1 f nonce s = _
  refine (spdm_reached heard answers connected _).trans ?_
  simp only [part, if_true]

theorem keyExchange_opens {i : Nat} (free : freeSession (sessionsOf s tr) = some i) (k : List Byte) : exec (.keyExchange tr k) s =
    .next (answer 0x64 (le 2 i ++ (fresh32 s).1 ++
      aliasSign (setSessions tr (sessionsOf s tr ++ [(i, false, 0)]) (fresh32 s).2) (k ++ (fresh32 s).1))
      (setSessions tr (sessionsOf s tr ++ [(i, false, 0)]) (fresh32 s).2)) := by
  change execKeyExchange tr k s = _
  refine (spdm_reached heard answers connected _).trans ?_
  simp only [free]

theorem finish_opened {i : Nat} (opened : hasSession s tr i false = true) (ok : Bool) : exec (.finish tr i ok) s =
    .next (if ok then answer 0x65 []
      (setSessions tr ((sessionsOf s tr).map fun x => if x.1 = i then (x.1, true, x.2.2) else x) s)
    else answer ansError [] (setSessions tr ((sessionsOf s tr).filter fun x => x.1 != i) s)) := by
  change execFinish tr i ok s = _
  refine (spdm_reached heard answers connected _).trans ?_
  simp only [opened, Bool.not_true, Bool.false_eq_true, if_false]

section Established
variable {i : Nat} (established : hasSession s tr i true = true)
include established

theorem heartbeat_established : exec (.heartbeat tr i) s = .next (answer 0x68 [] s) := by
  change execHeartbeat tr i s = _
  exact (spdm_reached heard answers connected _).trans (congrArg _ (if_pos established))

theorem keyUpdate_established : exec (.keyUpdate tr i) s = .next (answer 0x69 []
    (setSessions tr ((sessionsOf s tr).map fun x => if x.1 = i then (x.1, x.2.1, x.2.2 + 1) else x) s)) := by
  change execKeyUpdate tr i s = _
  refine (spdm_reached heard answers connected _).trans ?_
  simp only [established, Bool.not_true, Bool.false_eq_true, if_false]

theorem endSession_established : exec (.endSession tr i) s = .next (answer 0x6C []
    (setSessions tr ((sessionsOf s tr).filter fun x => x.1 != i) s)) := by
  change execEndSession tr i s = _
  refine (spdm_reached heard answers connected _).trans ?_
  simp only [established, Bool.not_true, Bool.false_eq_true, if_false]

end Established

end Connected

theorem sessionsOf_setSessions (tr : Nat) (l : List (Nat × Bool × Nat)) (s : State) : sessionsOf (setSessions tr l s) tr = l := by
  rw [sessionsOf, setSessions, updSec_sec, smGet_smSet, if_pos rfl]

/-- Settles O34: `spdm` by the connection's stage, then each request by its own guard; sessions are what was last set. -/
theorem spdmRows : Obligations.SpdmRows := by
  refine ⟨fun s tr heard refused => ?refused, fun s tr heard answers => ⟨?version, ?capabilities, ?algorithms,
    fun connected => ⟨?digests, ?certificate, ?challenge, ?measurements, ?vendor⟩, fun early => ⟨?earlyDigests, ?earlyKey⟩⟩,
    fun s tr heard answers connected => ⟨?keyExchange, ?finish, ?established⟩⟩
  case refused =>
    change execGetVersion tr s = _
    exact spdm_refused heard refused 0 _
  case version =>
    change execGetVersion tr s = _
    exact spdm_reached heard answers (Nat.zero_le _) _
  case capabilities =>
    intro reached
    change execGetCapabilities tr s = _
    exact spdm_reached heard answers reached _
  case algorithms =>
    intro reached
    change execNegotiateAlgorithms tr true s = _ ∧ execNegotiateAlgorithms tr false s = _
    exact ⟨spdm_reached heard answers reached _, spdm_reached heard answers reached _⟩
  case digests =>
    change execGetDigests tr s = _
    exact spdm_reached heard answers connected _
  case certificate =>
    intro off n
    change execGetCertificate tr 0 off n s = _
    exact spdm_reached heard answers connected _
  case challenge =>
    intro nonce
    change ∃ n, execChallenge tr nonce s = _
    exact ⟨_, spdm_reached heard answers connected _⟩
  case measurements => exact fun i b nonce notCount notAll block =>
    getMeasurements_one heard answers connected notCount notAll block nonce
  case vendor => exact fun f p nonce part => vendorDefinedRequest_report heard answers connected part nonce
  case earlyDigests =>
    change execGetDigests tr s = _
    exact spdm_early heard answers early _
  case earlyKey =>
    intro k
    change execKeyExchange tr k s = _
    exact spdm_early heard answers early _
  case keyExchange =>
    exact fun k i free => ⟨_, keyExchange_opens heard answers connected free k, sessionsOf_setSessions .., rfl, rfl⟩
  case finish => exact fun i opened => ⟨⟨_, finish_opened heard answers connected opened true, sessionsOf_setSessions ..⟩,
    ⟨_, finish_opened heard answers connected opened false, sessionsOf_setSessions ..⟩⟩
  case established => exact fun i established => ⟨heartbeat_established heard answers connected established,
    ⟨_, keyUpdate_established heard answers connected established, sessionsOf_setSessions ..⟩,
    ⟨_, endSession_established heard answers connected established, sessionsOf_setSessions ..⟩⟩

/-! ### PLDM monitoring (17 R463) -/

/-- The ID of a defined sensor is one of PLDM's. -/
theorem sensorId_defined {i : Nat} (defined : sensorDefined i = true) :
    (decide (0x1000 + i < 0x1000) || !sensorDefined i) = false := by
  rw [defined, decide_eq_false (Nat.not_lt.2 (Nat.le_add_right _ _))]
  rfl

section Pldm
variable {s : State} (on : sideOn s = true) (normal : s.sec.recovery = false)
include on normal

theorem pldm_runs (act : State → State) : pldm act s = .next (act s) := by
  simp only [pldm, on, normal, Bool.not_true, Bool.false_eq_true, if_false]

theorem getPdr_listed {h i : Nat} (handle : h ≠ 0) (listed : sensorList[h - 1]? = some i) : exec (.getPdr h) s =
    .next (answer 0x51 (le 4 h ++ le 2 (0x1000 + i) ++ le 1 (sensorUnit i) ++ le 1 (unsignedOf 8 (-3))) s) := by
  change execGetPdr h s = _
  rw [execGetPdr, pldm_runs on normal, if_neg handle, listed]

section Sensor
variable {i : Nat} (defined : sensorDefined i = true)
include defined

theorem getSensorReading_defined : exec (.getSensorReading (0x1000 + i)) s = .next (if sensorReads s i then
    answer 0x11 (0x00 :: (le 1 (smGet s.tele.threshState 0 i) ++ le 4 (unsignedOf 32 (smGet s.tele.sensors 0 i)))) s
    else answer 0x11 [0x01] s) := by
  change execGetSensorReading (0x1000 + i) s = _
  simp only [execGetSensorReading, pldm_runs on normal, sensorId_defined defined, Nat.add_sub_cancel_left,
    Bool.false_eq_true, if_false, Bool.not_eq_true', ← Bool.not_eq_true, ite_not]

theorem getSensorThresholds_defined : exec (.getSensorThresholds (0x1000 + i)) s = .next (answer 0x13
    (optBytes (thresholdsOf s i).1 ++ optBytes (thresholdsOf s i).2.1 ++ optBytes (thresholdsOf s i).2.2) s) := by
  change execGetSensorThresholds (0x1000 + i) s = _
  simp only [execGetSensorThresholds, pldm_runs on normal, sensorId_defined defined, Nat.add_sub_cancel_left,
    Bool.false_eq_true, if_false]

theorem setSensorThresholds_defined (a b c : Option Int) : exec (.setSensorThresholds (0x1000 + i) a b c) s =
    .next (answer 0x12 [] { s with tele := { s.tele with thresholds := smSet s.tele.thresholds i (a, b, c) } }) := by
  change execSetSensorThresholds (0x1000 + i) a b c s = _
  simp only [execSetSensorThresholds, pldm_runs on normal, sensorId_defined defined, Nat.add_sub_cancel_left,
    Bool.false_eq_true, if_false]
  rfl

end Sensor

end Pldm

/-! ### MCTP control and firmware update (16 R436, 19 R489) -/

section Mctp
variable {s : State} (on : sideOn s = true)
include on

theorem mctpControl_runs (code eid : Nat) : exec (.mctpControl code eid) s = .next (
    if code = 1 then answer 1 (le 1 (eid % 256)) { s with sec := { s.sec with mctpEid := eid % 256 } }
    else if code = 2 then answer 2 (le 1 s.sec.mctpEid) s
    else if code = 5 then answer 5 [3, 0, 1, 5] s
    else answer ansError [] s) := by
  change execMctpControl code eid s = _
  rw [execMctpControl, on, Bool.not_true, if_neg Bool.false_ne_true]
  rfl

theorem pldmFirmwareUpdate_runs (awake : s.power.state ≠ .s3) (img : List Byte) : exec (.pldmFirmwareUpdate img) s =
    .next (answer 0x05 [] { s with sec := { s.sec with
      images := smSet s.sec.images (if s.sec.recovery then s.sec.failedSlot.getD 1 else 1 - s.sec.slot) img } }) := by
  change execPldmFirmwareUpdate img s = _
  rw [execPldmFirmwareUpdate, on, Bool.not_true, if_neg Bool.false_ne_true, if_neg (mt beq_iff_eq.1 awake)]
  rfl

end Mctp

/-- Settles O35: PLDM runs outside recovery, and a defined sensor's ID is one of its own; an image goes to the slot by recovery. -/
theorem pldmRows : Obligations.PldmRows := by
  intro s on
  refine ⟨mctpControl_runs on 1, mctpControl_runs on 2, fun img awake normal => ?other, fun img awake recovery => ?failed,
    fun normal => ⟨fun h i => getPdr_listed on normal, ?info, ?reads, ?unavailable, fun i => getSensorThresholds_defined on normal,
      ?set, ?receiver⟩⟩
  case other => rw [pldmFirmwareUpdate_runs on awake, normal, if_neg Bool.false_ne_true]
  case failed => rw [pldmFirmwareUpdate_runs on awake, recovery, if_pos rfl]
  case info =>
    change execGetPdrRepositoryInfo s = _
    rw [execGetPdrRepositoryInfo, pldm_runs on normal]
  case reads => exact fun i defined reads => (getSensorReading_defined on normal defined).trans (congrArg _ (if_pos reads))
  case unavailable =>
    exact fun i defined dark => (getSensorReading_defined on normal defined).trans (congrArg _ (if_neg (by simp [dark])))
  case set =>
    intro i a b c defined
    refine ⟨_, setSensorThresholds_defined on normal defined a b c, rfl, ?_⟩
    exact (smGet_smSet s.tele.thresholds _ i i (a, b, c)).trans (if_pos rfl)
  case receiver =>
    intro r
    change execSetEventReceiver r s = _
    rw [execSetEventReceiver, pldm_runs on normal]
    rfl

/-! ### What a sideband command leaves alone -/

/-- `t` is `s` but for security, telemetry, what goes out and the count of draws. -/
abbrev SidebandOnly (s t : State) : Prop := ∃ sec tele out fc, t = { s with
  sec := sec
  tele := tele
  out := out
  freeCtr := fc }

section Frame
variable {s : State}

theorem SidebandOnly.refl (s : State) : SidebandOnly s s := ⟨_, _, _, _, rfl⟩

theorem SidebandOnly.ite {a b : State} {c : Prop} [Decidable c] (ha : SidebandOnly s a) (hb : SidebandOnly s b) :
    SidebandOnly s (if c then a else b) := by split <;> assumption

theorem SidebandOnly.updSec {t : State} (f : Sec → Sec) : SidebandOnly s t → SidebandOnly s (updSec f t) := by
  rintro ⟨_, _, _, _, rfl⟩; exact ⟨_, _, _, _, rfl⟩

theorem SidebandOnly.updTele {t : State} (f : Tele → Tele) : SidebandOnly s t → SidebandOnly s (updTele f t) := by
  rintro ⟨_, _, _, _, rfl⟩; exact ⟨_, _, _, _, rfl⟩

theorem SidebandOnly.answer {t : State} (code : Nat) (data : List Byte) : SidebandOnly s t → SidebandOnly s (answer code data t) := by
  rintro ⟨_, _, _, _, rfl⟩; exact ⟨_, _, _, _, rfl⟩

theorem answer_sideband (code : Nat) (data : List Byte) : SidebandOnly s (answer code data s) := (SidebandOnly.refl s).answer code data

theorem setStage_sideband (tr n : Nat) : SidebandOnly s (setStage tr n s) := (SidebandOnly.refl s).updSec _

theorem setSessions_sideband (tr : Nat) (l : List (Nat × Bool × Nat)) : SidebandOnly s (setSessions tr l s) :=
  (SidebandOnly.refl s).updSec _

theorem fresh32_sideband : SidebandOnly s (fresh32 s).2 := ⟨_, _, _, _, rfl⟩

/-- The row answers, and changes what the sideband may. -/
abbrev SidebandRow (s : State) (r : Res) : Prop := ∃ t, r = .next t ∧ SidebandOnly s t

theorem spdm_sideband {tr stage : Nat} {act : State → State} (acts : SidebandOnly s (act s)) : SidebandRow s (spdm tr stage act s) :=
  ⟨_, rfl, .ite (.refl s) (.ite (answer_sideband ..) (.ite acts (answer_sideband ..)))⟩

theorem pldm_sideband {act : State → State} (acts : SidebandOnly s (act s)) : SidebandRow s (pldm act s) :=
  ⟨_, rfl, .ite (.refl s) (.ite (answer_sideband ..) acts)⟩

/-! #### SPDM -/

variable (s) (tr : Nat)

theorem getVersion_sideband : SidebandRow s (execGetVersion tr s) := spdm_sideband ((setStage_sideband tr 1).answer ..)

theorem getCapabilities_sideband : SidebandRow s (execGetCapabilities tr s) := spdm_sideband ((setStage_sideband tr _).answer ..)

theorem negotiateAlgorithms_sideband (b : Bool) : SidebandRow s (execNegotiateAlgorithms tr b s) :=
  spdm_sideband (.ite ((setStage_sideband tr 3).answer ..) (answer_sideband ..))

theorem getDigests_sideband : SidebandRow s (execGetDigests tr s) := spdm_sideband (answer_sideband ..)

theorem getCertificate_sideband (slot off n : Nat) : SidebandRow s (execGetCertificate tr slot off n s) :=
  spdm_sideband (.ite (answer_sideband ..) (answer_sideband ..))

theorem challenge_sideband (nonce : List Byte) : SidebandRow s (execChallenge tr nonce s) :=
  spdm_sideband (fresh32_sideband.answer ..)

theorem getMeasurements_sideband (i : Nat) (nonce : List Byte) : SidebandRow s (execGetMeasurements tr i nonce s) := by
  refine spdm_sideband ?_
  refine .ite (answer_sideband ..) (.ite (answer_sideband ..) ?_)
  cases measurement s i <;> exact answer_sideband ..

theorem keyExchange_sideband (k : List Byte) : SidebandRow s (execKeyExchange tr k s) := by
  refine spdm_sideband ?_
  cases freeSession (sessionsOf s tr) with
  | none => exact answer_sideband ..
  | some i => exact (fresh32_sideband.updSec _).answer ..

theorem finish_sideband (i : Nat) (ok : Bool) : SidebandRow s (execFinish tr i ok s) :=
  spdm_sideband (.ite (answer_sideband ..) (.ite ((setSessions_sideband tr _).answer ..) ((setSessions_sideband tr _).answer ..)))

theorem heartbeat_sideband (i : Nat) : SidebandRow s (execHeartbeat tr i s) :=
  spdm_sideband (.ite (answer_sideband ..) (answer_sideband ..))

theorem keyUpdate_sideband (i : Nat) : SidebandRow s (execKeyUpdate tr i s) :=
  spdm_sideband (.ite (answer_sideband ..) ((setSessions_sideband tr _).answer ..))

theorem endSession_sideband (i : Nat) : SidebandRow s (execEndSession tr i s) :=
  spdm_sideband (.ite (answer_sideband ..) ((setSessions_sideband tr _).answer ..))

theorem vendorDefinedRequest_sideband (code f : Nat) (nonce : List Byte) : SidebandRow s (execVendorDefinedRequest tr code f nonce s) := by
  refine spdm_sideband ?_
  cases funcPart s f with
  | none => exact answer_sideband ..
  | some p => exact .ite (answer_sideband ..) (answer_sideband ..)

/-! #### MCTP control and PLDM -/

theorem mctpControl_sideband (code eid : Nat) : SidebandRow s (execMctpControl code eid s) :=
  ⟨_, rfl, .ite (.refl s) (.ite (((SidebandOnly.refl s).updSec _).answer ..) (.ite (answer_sideband ..)
    (.ite (answer_sideband ..) (answer_sideband ..))))⟩

theorem getPdr_sideband (h : Nat) : SidebandRow s (execGetPdr h s) := by
  refine pldm_sideband ?_
  split <;> exact answer_sideband ..

theorem getPdrRepositoryInfo_sideband : SidebandRow s (execGetPdrRepositoryInfo s) := pldm_sideband (answer_sideband ..)

theorem getSensorReading_sideband (i : Nat) : SidebandRow s (execGetSensorReading i s) :=
  pldm_sideband (.ite (answer_sideband ..) (.ite (answer_sideband ..) (answer_sideband ..)))

theorem getSensorThresholds_sideband (i : Nat) : SidebandRow s (execGetSensorThresholds i s) :=
  pldm_sideband (.ite (answer_sideband ..) (answer_sideband ..))

theorem setSensorThresholds_sideband (i : Nat) (a b c : Option Int) : SidebandRow s (execSetSensorThresholds i a b c s) :=
  pldm_sideband (.ite (answer_sideband ..) (((SidebandOnly.refl s).updTele _).answer ..))

theorem setEventReceiver_sideband (r : Nat) : SidebandRow s (execSetEventReceiver r s) :=
  pldm_sideband (((SidebandOnly.refl s).updTele _).answer ..)

theorem pldmFirmwareUpdate_sideband (img : List Byte) : SidebandRow s (execPldmFirmwareUpdate img s) :=
  ⟨_, rfl, .ite (.refl s) (.ite (answer_sideband ..) (((SidebandOnly.refl s).updSec _).answer ..))⟩

end Frame

/-- Settles O36: every command of the list is such a row. -/
theorem sidebandFrame : Obligations.SidebandFrame := by
  intro s i listed
  have row : SidebandRow s (exec i s) := by
    rcases listed with ⟨tr, spdm⟩ | pldm
    · rcases spdm with rfl | rfl | ⟨b, rfl⟩ | rfl | ⟨a, b, c, rfl⟩ | ⟨n, rfl⟩ | ⟨a, n, rfl⟩ | ⟨k, rfl⟩ | ⟨a, b, rfl⟩ | ⟨a, rfl⟩ |
        ⟨a, rfl⟩ | ⟨a, rfl⟩ | ⟨a, b, n, rfl⟩
      · exact getVersion_sideband s tr
      · exact getCapabilities_sideband s tr
      · exact negotiateAlgorithms_sideband s tr b
      · exact getDigests_sideband s tr
      · exact getCertificate_sideband s tr a b c
      · exact challenge_sideband s tr n
      · exact getMeasurements_sideband s tr a n
      · exact keyExchange_sideband s tr k
      · exact finish_sideband s tr a b
      · exact heartbeat_sideband s tr a
      · exact keyUpdate_sideband s tr a
      · exact endSession_sideband s tr a
      · exact vendorDefinedRequest_sideband s tr a b n
    · rcases pldm with ⟨a, b, rfl⟩ | ⟨h, rfl⟩ | rfl | ⟨a, rfl⟩ | ⟨a, rfl⟩ | ⟨a, b, c, d, rfl⟩ | ⟨r, rfl⟩ | ⟨m, rfl⟩
      · exact mctpControl_sideband s a b
      · exact getPdr_sideband s h
      · exact getPdrRepositoryInfo_sideband s
      · exact getSensorReading_sideband s a
      · exact getSensorThresholds_sideband s a
      · exact setSensorThresholds_sideband s a b c d
      · exact setEventReceiver_sideband s r
      · exact pldmFirmwareUpdate_sideband s m
  obtain ⟨_, answers, sec, tele, out, fc, rfl⟩ := row
  exact ⟨sec, tele, out, fc, answers⟩

end Sys2Proof.Machine

/-! PROOFS. Events, samples of the level sensors, and the ages of the dies (O55). -/

namespace Sys2Proof.Machine

/-! ### The recorder (17 R455, R460) -/

theorem recordEvent_of_unarmed {s : State} (unarmed : s.tele.armed = false) (e : Event) (waiting : Nat) : recordEvent e waiting s = s := by
  simp only [recordEvent, unarmed, Bool.not_false, Bool.true_or, if_true]

theorem eventArrival_takes {s : State} {e : Event} {l : List Event} (first : s.tele.events = e :: l) : exec .eventArrival s =
    .next (recordEvent e l.length (if bootEvent e.code then bootPut (eventBytes e 0 0xB0) { s with tele := { s.tele with events := l } }
      else { s with tele := { s.tele with events := l } })) := by
  change execEventArrival s = _
  simp only [execEventArrival, first]
  rfl

/-! ### Samples (17 R463) -/

theorem sensorSample_of_reading {s : State} {l : List (Nat × Int)} (reading : ∀ x ∈ l, sensorReads s x.1 = true) :
    exec (.sensorSample l) s = .next (l.foldl (fun s x => takeSample x s) s) := by
  change execSensorSample l s = _
  rw [execSensorSample, List.filter_eq_self.2 reading]

theorem sensorSample_of_dark {s : State} {l : List (Nat × Int)} (dark : ∀ x ∈ l, sensorReads s x.1 = false) :
    exec (.sensorSample l) s = .next s := by
  have dropped : (l.filter fun x => sensorReads s x.1) = [] := List.filter_eq_nil_iff.2 fun x mem => by simp [dark x mem]
  change execSensorSample l s = _
  rw [execSensorSample, dropped, List.foldl_nil]

/-- `t` is `s` but for power, telemetry and what goes out, with the reading of a sensor kept. -/
abbrev Sampled (i : Nat) (v : Int) (s t : State) : Prop := ∃ p te o, t = { s with
  power := p
  tele := te
  out := o } ∧ te.sensors = smSet s.tele.sensors i v

section Sample
variable {i : Nat} {v : Int} {s t : State}

theorem Sampled.ite {a b : State} {c : Prop} [Decidable c] (ha : Sampled i v s a) (hb : Sampled i v s b) :
    Sampled i v s (if c then a else b) := by split <;> assumption

theorem Sampled.updPower (f : Power → Power) : Sampled i v s t → Sampled i v s (updPower f t) := by
  rintro ⟨_, _, _, rfl, kept⟩; exact ⟨_, _, _, rfl, kept⟩

theorem Sampled.updTele {f : Tele → Tele} (keeps : ∀ te, (f te).sensors = te.sensors) :
    Sampled i v s t → Sampled i v s (updTele f t) := by
  rintro ⟨_, _, _, rfl, kept⟩; exact ⟨_, _, _, rfl, (keeps _).trans kept⟩

theorem Sampled.counted (h : Sampled i v s t) (kind index n : Nat) : Sampled i v s (monSample kind index n t) :=
  h.updTele fun _ => rfl

theorem Sampled.answer (code : Nat) (data : List Byte) : Sampled i v s t → Sampled i v s (answer code data t) := by
  rintro ⟨_, _, _, rfl, kept⟩; exact ⟨_, _, _, rfl, kept⟩

/-- The reading kept, as the hottest of its die and as the supply's input too, and counted by its monitors. -/
def sampleKept (i : Nat) (v : Int) (s : State) : State :=
  let s := updTele (fun t => { t with
    sensors := smSet t.sensors i v
    hot := if i < 256 then smSet t.hot (i / 64) (max v (smGet t.hot v (i / 64))) else t.hot }) s
  monSample 3 i v.toNat (if i = 0x102 then updPower (fun p => { p with input := min 255 (v.toNat / 250) }) s else s)

/-- The reading compared with its thresholds; a crossing goes to the event receiver. -/
def sampleCompared (i : Nat) (v : Int) (s : State) : State :=
  let st := threshOf (thresholdsOf s i) v
  if st = smGet s.tele.threshState 0 i then s else
  match s.tele.receiver with
  | some r => answer 0x0A (le 2 r ++ le 2 (0x1000 + i) ++ le 1 st ++ le 4 (unsignedOf 32 v))
      (updTele (fun t => { t with threshState := smSet t.threshState i st }) s)
  | none => updTele (fun t => { t with threshState := smSet t.threshState i st }) s

theorem takeSample_eq (defined : sensorDefined i = true) (v : Int) (s : State) :
    takeSample (i, v) s = sampleCompared i v (sampleKept i v s) := by
  unfold takeSample
  rw [defined, Bool.not_true, if_neg Bool.false_ne_true]
  rfl

theorem sampleKept_sampled (i : Nat) (v : Int) (s : State) : Sampled i v s (sampleKept i v s) := by
  have kept (hot : Tele → SMap Int) : Sampled i v s (updTele (fun t => { t with
    sensors := smSet t.sensors i v
    hot := hot t }) s) := ⟨_, _, _, rfl, rfl⟩
  exact .counted (.ite ((kept _).updPower _) (kept _)) ..

theorem Sampled.compared (h : Sampled i v s t) : Sampled i v s (sampleCompared i v t) := by
  have noted := h.updTele (f := fun te => { te with threshState := smSet te.threshState i (threshOf (thresholdsOf t i) v) }) fun _ => rfl
  refine .ite h ?_
  cases t.tele.receiver with
  | none => exact noted
  | some r => exact noted.answer ..

theorem takeSample_sampled (defined : sensorDefined i = true) (v : Int) (s : State) : Sampled i v s (takeSample (i, v) s) := by
  rw [takeSample_eq defined]
  exact (sampleKept_sampled i v s).compared

end Sample

/-! ### Aging (17 R461) -/

/-- The summary of one die: its stress is kept and its event written. -/
def summarizeDie (s : State) (d : Nat) : State :=
  emit srcPower evAgingSummary devPart [(20, 1, d), (24, 4, (dieStress s d).1), (28, 4, (dieStress s d).2)]
    (updTele (fun t => { t with aging := smSet t.aging d (dieStress s d) }) s)

theorem agingSummary_summarizes (s : State) : exec .agingSummary s =
    .next ((List.range 4).foldl summarizeDie (advance ((now s / dayNs + 1) * dayNs) s)) := rfl

theorem summarizeDies_changes (ds : List Nat) (s : State) : ∃ t l, ds.foldl summarizeDie s = { s with tele := t } ∧
    t.events = s.tele.events ++ l ∧ l.length = ds.length ∧ ∀ e ∈ l, e.code = evAgingSummary := by
  induction ds generalizing s with
  | nil => exact ⟨s.tele, [], rfl, (List.append_nil _).symm, rfl, nofun⟩
  | cons d ds ih =>
    obtain ⟨t, l, rest, events, length, codes⟩ := ih (summarizeDie s d)
    refine ⟨t, _ :: l, rest, events.trans (List.append_assoc ..), congrArg _ length, List.forall_mem_cons.2 ⟨rfl, codes⟩⟩

/-- The day's end is ahead. -/
theorem le_nextDay (n : Nat) : n ≤ (n / dayNs + 1) * dayNs := by
  unfold dayNs
  omega

/-- Settles O55: the oldest event goes to the recorder, the sensors that read are sampled, and a day ends with four events. -/
theorem telemetryRows : Obligations.TelemetryRows := by
  intro s
  refine ⟨?unarmed, ?arrival, fun l => sensorSample_of_reading, fun l => sensorSample_of_dark, ?sample, ?aging⟩
  case unarmed =>
    intro e l first other unarmed
    rw [eventArrival_takes first, other, if_neg Bool.false_ne_true]
    exact congrArg _ (recordEvent_of_unarmed (s := { s with tele := { s.tele with events := l } }) unarmed e l.length)
  case arrival =>
    rintro e l u first rfl
    exact eventArrival_takes first
  case sample =>
    intro i v defined
    obtain ⟨p, t, o, taken, sensors⟩ := takeSample_sampled defined v s
    rw [taken, sensors, smGet_smSet, if_pos rfl]
    exact ⟨rfl, rfl, rfl⟩
  case aging =>
    obtain ⟨t, l, changes, events, length, codes⟩ := summarizeDies_changes (List.range 4) (advance ((now s / dayNs + 1) * dayNs) s)
    refine ⟨_, (agingSummary_summarizes s).trans (congrArg _ changes), ?_, rfl, rfl, l, events, length, codes⟩
    exact (now_advance _ s).trans (Nat.max_eq_right (le_nextDay (now s)))

end Sys2Proof.Machine

/-! PROOFS. What a cold reset keeps (O57); resets, power on and the boot (O56). -/

namespace Sys2Proof.Machine

/-! ### Cold reset (18 R471) -/

theorem width_coldReset (code : Nat) (s : State) (k : Nat) : (getTile (coldReset code s) k).width = (getTile s k).width :=
  smGet_smMap s.tiles (fun _ t => flashTile t) {} k Tile.width fun _ _ => rfl

theorem out_coldReset (code : Nat) (s : State) (k : Nat) : (getStack (coldReset code s) k).out = (getStack s k).out :=
  smGet_smMap s.mem.hbm (fun _ x => flashStack x) {} k Stack.out fun _ _ => rfl

/-- Settles O57: what flash keeps of a tile and of a stack is kept entry by entry; the rest is read off. -/
theorem coldResetKeeps : Obligations.ColdResetKeeps := fun s code =>
  ⟨rfl, rfl, rfl, rfl, rfl, rfl, rfl, rfl, rfl, rfl, rfl, rfl, rfl, rfl, rfl, rfl, width_coldReset code s, out_coldReset code s⟩

/-! ### Resets that the host writes (18 R471, R472) -/

theorem warmReset_of_reachable {s : State} (reach : Reachable s) (hubIntact : Bool) :
    exec (.warmReset hubIntact) s = .next (warmReset 3 hubIntact s) := congrArg _ (hostAccess_of_reachable reach _)

theorem coldReset_of_reachable {s : State} (reach : Reachable s) : exec .coldReset s = .next (coldReset 1 s) :=
  congrArg _ (hostAccess_of_reachable reach _)

/-! ### Power on (19 R478, R481) -/

theorem powerOn_of_no_power {s : State} (off : s.power.rails = .none_) (k : Nat) : exec (.powerOn k) s =
    .next (updPower (fun p => { p with
      rails := .on
      strap := k % 4 }) (powerLost s)) := by
  change execPowerOn k s = _
  rw [execPowerOn, off, beq_self_eq_true, Bool.true_or, doWhen_true]

/-! ### The boot's tests (18 R470) -/

/-- A tile passes the boot's self-test. -/
def passTile (s : State) (t : Nat) : State := updTile t (fun w => { w with
  ageStart := now s
  lastPass := now s }) s

theorem bootTests_of_warm {s : State} (warm : s.power.lastReset = 2 ∨ s.power.lastReset = 3) : bootTests s = s := by
  rcases warm with warm | warm <;> simp [bootTests, warm]

theorem bootTests_of_cold {s : State} (other : s.power.lastReset ≠ 2) (other' : s.power.lastReset ≠ 3) :
    bootTests s = (List.range 128).foldl passTile s := by
  simp only [bootTests, beq_false_of_ne other, beq_false_of_ne other', Bool.or_self, Bool.false_eq_true, if_false]
  rfl

theorem bootTests_changes (s : State) : ∃ ti, bootTests s = { s with tiles := ti } := by
  unfold bootTests
  split
  · exact ⟨s.tiles, rfl⟩
  · refine List.foldlRecOn _ _ (motive := fun u : State => ∃ ti, u = { s with tiles := ti }) ⟨s.tiles, rfl⟩ ?_
    rintro _ ⟨ti, rfl⟩ t -
    exact ⟨_, rfl⟩

theorem lastPass_passTile (s : State) (t k : Nat) :
    (getTile (passTile s t) k).lastPass = if k = t then now s else (getTile s k).lastPass := by
  rw [passTile, getTile_updTile]
  split <;> rfl

theorem lastPass_passTiles (l : List Nat) (s : State) (k : Nat) :
    (getTile (l.foldl passTile s) k).lastPass = if k ∈ l then now s else (getTile s k).lastPass := by
  induction l generalizing s with
  | nil => rfl
  | cons t l ih =>
    have sameTime : now (passTile s t) = now s := rfl
    rw [List.foldl_cons, ih, sameTime, lastPass_passTile]
    by_cases later : k ∈ l
    · rw [if_pos later, if_pos (List.mem_cons_of_mem t later)]
    · simp only [later, List.mem_cons, or_false, if_false]

/-! ### The boot (16 R434 to R437) -/

/-- The state in which a slot's image runs, before the boot's tests and its event. -/
def bootLoaded (x : ImageSlot) (failed : Option Nat) (digest : List Byte) (components : List (List Byte)) (s : State) : State :=
  { s with
    freeCtr := s.freeCtr + 4
    power := { s.power with ready := true }
    sec := { s.sec with
      slot := x.no
      recovery := false
      svn := x.svn
      manifestMinSvn := x.min
      fwDigest := slice digest 0 32
      components := components.take 16
      fwStart := some (now s)
      svnTried := false
      failedSlot := if failed.isSome then failed else s.sec.failedSlot
      trng := 0
      trngFails := 0
      unlockNonce := some s.freeCtr } }

theorem bootInto_changes (x : ImageSlot) (failed : Option Nat) (digest : List Byte) (components : List (List Byte)) (s : State) :
    ∃ te, bootInto x failed digest components s = { bootLoaded x failed digest components s with
      tiles := (bootTests (bootLoaded x failed digest components s)).tiles
      tele := te } := by
  obtain ⟨ti, tested⟩ := bootTests_changes (bootLoaded x failed digest components s)
  change ∃ te, emit srcCmd evBoot devPart _ (bootTests (bootLoaded x failed digest components s)) = _
  rw [tested]
  exact ⟨_, rfl⟩

/-- The two image slots as the mask ROM finds them. -/
abbrev slotA (ok : Bool) (svn min : Nat) : ImageSlot := { no := 0, ok, svn, min }
abbrev slotB (ok : Bool) (svn min : Nat) : ImageSlot := { no := 1, ok, svn, min }

section Boot
variable {s : State} (unready : s.power.ready = false) (normal : s.sec.recovery = false) (rails : s.power.rails = .on)
  (awake : s.power.state = .s0)
include unready normal rails awake

theorem bootReady_found {okA okB : Bool} {vA vB mA mB : Nat} {region : Bool} {x : ImageSlot}
    (found : (bootOrder s (slotA okA vA mA) (slotB okB vB mB)).find? (bootable s region) = some x) (d : List Byte)
    (c : List (List Byte)) : exec (.bootReady okA okB vA vB mA mB d c region) s = .next (bootInto x
      (((bootOrder s (slotA okA vA mA) (slotB okB vB mB)).head?.map (·.no)).filter (· != x.no)) d c s) := by
  change execBootReady okA okB vA vB mA mB d c region s = _
  simp only [execBootReady, unready, normal, rails, awake, doWhen, Bool.not_false, Bool.true_and, beq_self_eq_true, if_true, found]

theorem bootReady_none {okA okB : Bool} {vA vB mA mB : Nat} {region : Bool}
    (absent : (bootOrder s (slotA okA vA mA) (slotB okB vB mB)).find? (bootable s region) = none) (d : List Byte)
    (c : List (List Byte)) : exec (.bootReady okA okB vA vB mA mB d c region) s = .next (updSec (fun k => { k with
      recovery := true
      failedSlot := (bootOrder s (slotA okA vA mA) (slotB okB vB mB)).getLast?.map (·.no) }) s) := by
  change execBootReady okA okB vA vB mA mB d c region s = _
  simp only [execBootReady, unready, normal, rails, awake, doWhen, Bool.not_false, Bool.true_and, beq_self_eq_true, if_true, absent]

section Preferred
variable (preferA : s.sec.preferred ≠ 1) {vA vB : Nat}
include preferA

theorem bootReady_first (recent : s.sec.minSvn ≤ vA) (okB : Bool) (vB mA mB : Nat) (d : List Byte) (c : List (List Byte)) :
    exec (.bootReady true okB vA vB mA mB d c true) s = .next (bootInto (slotA true vA mA) none d c s) := by
  have boots : bootable s true (slotA true vA mA) = true := by simp [bootable, recent]
  have order : bootOrder s (slotA true vA mA) (slotB okB vB mB) = [slotA true vA mA, slotB okB vB mB] := if_neg preferA
  rw [bootReady_found unready normal rails awake (order ▸ List.find?_cons_of_pos boots), order]
  rfl

theorem bootReady_second (recent : s.sec.minSvn ≤ vB) (vA mA mB : Nat) (d : List Byte) (c : List (List Byte)) :
    exec (.bootReady false true vA vB mA mB d c true) s = .next (bootInto (slotB true vB mB) (some 0) d c s) := by
  have fails : ¬ bootable s true (slotA false vA mA) = true := by simp [bootable]
  have boots : bootable s true (slotB true vB mB) = true := by simp [bootable, recent]
  have order : bootOrder s (slotA false vA mA) (slotB true vB mB) = [slotA false vA mA, slotB true vB mB] := if_neg preferA
  have found : [slotA false vA mA, slotB true vB mB].find? (bootable s true) = some (slotB true vB mB) := by
    rw [List.find?_cons_of_neg fails, List.find?_cons_of_pos boots]
  rw [bootReady_found unready normal rails awake (order ▸ found), order]
  rfl

end Preferred

/-- Where neither image verifies, firmware does not run, whichever slot is preferred. -/
theorem bootReady_neither (vA vB mA mB : Nat) (d : List Byte) (c : List (List Byte)) (region : Bool) :
    ∃ slot, exec (.bootReady false false vA vB mA mB d c region) s = .next { s with sec := { s.sec with
      recovery := true
      failedSlot := slot } } := by
  have fails : (bootOrder s (slotA false vA mA) (slotB false vB mB)).find? (bootable s region) = none := by
    unfold bootOrder
    split <;> simp [bootable]
  exact ⟨_, bootReady_none unready normal rails awake fails d c⟩

end Boot

/-! ### MIN_SVN and the test port (16 R437, R438) -/

section MinSvn
variable {s : State} {t0 : Nat} (start : s.sec.fwStart = some t0) (ready : s.power.ready = true)
  (sound : s.power.moduleFault = none) (untried : s.sec.svnTried = false) (newer : s.sec.minSvn < s.sec.manifestMinSvn)
include start ready sound untried newer

/-- The update is tried once, 60 s after firmware began to run. -/
theorem minSvnUpdate_tries (ok : Bool) : exec (.minSvnUpdate ok) s = .next (
    if ok then updSec (fun c => { c with minSvn := c.manifestMinSvn })
      (updSec (fun c => { c with svnTried := true }) (advance (t0 + 60 * secNs) s))
    else emit srcCmd evRollbackUpdateFailed devPart [(20, 4, s.sec.manifestMinSvn)]
      (updSec (fun c => { c with svnTried := true }) (advance (t0 + 60 * secNs) s))) := by
  change execMinSvnUpdate ok s = _
  simp only [execMinSvnUpdate, start, ready, sound, untried, newer, Option.isNone_none, Bool.not_false, decide_true,
    Bool.and_self, doWhen_true]
  rfl

end MinSvn

theorem testUnlock_opens {s : State} {v n : Nat} (recent : s.sec.unlockMinSvn ≤ v) (running : s.sec.fwStart.isSome = true)
    (nonce : s.sec.unlockNonce = some n) : exec (.testUnlock true v [] (unlockBytes n)) s = .next { s with sec := { s.sec with
      keyDomains := []
      testPort := true
      portOpen := true } } := by
  have unbound : allZero [] = true := rfl
  change execTestUnlock true v [] (unlockBytes n) s = _
  rw [execTestUnlock, decide_eq_true recent, running, nonce, unbound]
  simp only [beq_self_eq_true, Bool.true_or, Bool.and_self, doWhen_true]
  rfl

/-- Settles O56: host resets are host accesses; power on starts from what flash keeps; the boot runs the first image that
verifies, tests the tiles unless the reset was warm, and records the MIN_SVN once. -/
theorem resetRows : Obligations.ResetRows := by
  intro s
  refine ⟨warmReset_of_reachable, coldReset_of_reachable, ?powerOn, fun unready normal rails awake => ⟨?first, ?second, ?neither⟩,
    ?minSvn, fun v n => testUnlock_opens⟩
  case powerOn =>
    exact fun off k => ⟨_, powerOn_of_no_power off k, rfl, rfl, rfl, rfl, rfl, rfl, rfl, rfl, rfl, rfl⟩
  case first =>
    intro vA vB mA mB d c okB preferA recent
    obtain ⟨te, boots⟩ := bootInto_changes (slotA true vA mA) none d c s
    refine ⟨_, (bootReady_first unready normal rails awake preferA recent okB vB mA mB d c).trans (congrArg _ boots),
      rfl, rfl, rfl, rfl, rfl, rfl, rfl, fun warm => ?_, fun other other' k bound => ?_⟩
    · exact (congrArg State.tiles (bootTests_of_warm (s := bootLoaded (slotA true vA mA) none d c s) warm) :)
    · refine (congrArg (fun u => (getTile u k).lastPass) (bootTests_of_cold (s := bootLoaded _ none d c s) other other')).trans ?_
      rw [lastPass_passTiles, if_pos (List.mem_range.2 bound)]
      rfl
  case second =>
    intro vA vB mA mB d c preferA recent
    obtain ⟨te, boots⟩ := bootInto_changes (slotB true vB mB) (some 0) d c s
    exact ⟨_, (bootReady_second unready normal rails awake preferA recent vA mA mB d c).trans (congrArg _ boots),
      rfl, rfl, rfl, rfl⟩
  case neither =>
    intro vA vB mA mB d c region
    obtain ⟨slot, runs⟩ := bootReady_neither unready normal rails awake vA vB mA mB d c region
    exact ⟨_, runs, unready, rfl, rfl⟩
  case minSvn =>
    intro t0 start ready sound untried newer
    exact ⟨⟨_, minSvnUpdate_tries start ready sound untried newer true, rfl, Nat.le_max_right _ _, rfl⟩,
      ⟨_, minSvnUpdate_tries start ready sound untried newer false, rfl, rfl, _, rfl, rfl⟩⟩

end Sys2Proof.Machine

/-! PROOFS. The power states (O58); the trips of supply and heat (O59). -/

namespace Sys2Proof.Machine

/-! ### S0 and S1 (18 R465, R466) -/

theorem pwrTargetS0_of_hostReach {s : State} (reach : hostReach s = true) : exec .pwrTargetS0 s = .next (targetS0 s) := by
  change execPwrTargetS0 s = _
  rw [execPwrTargetS0, reach, doWhen_true]

/-- TARGET 0 wakes the module from S1. -/
theorem targetS0_of_s1 {s : State} (s1 : s.power.state = .s1) : targetS0 s = { s with power := { s.power with
    target := .s0
    state := .s0
    lastWake := 7 } } := by
  simp only [targetS0, wake, updPower, s1]

theorem pwrTargetS1_of_reachable {s : State} (reach : Reachable s) : exec .pwrTargetS1 s = .next (
    if s.power.state == .s0 && moduleIdle s then
      enterS1 (updPower (fun p => { p with
        target := .s1
        entering := false }) s)
    else updPower (fun p => { p with
      target := .s1
      entering := false }) s) := congrArg _ (hostAccess_of_reachable reach _)

theorem idleTimeout_enters {s : State} (working : Working s) (s0 : s.power.state = .s0) (settled : s.power.entering = false)
    (idle : moduleIdle s = true) (wanted : s.power.autoS1 = true ∨ s.power.target = .s1) : exec .idleTimeout s =
      .next (enterS1 (if s.power.target == .s1 then s else advance (now s + 1000 * s.power.idleUs) s)) := by
  have asked : (s.power.autoS1 || s.power.target == .s1) = true := by simpa using wanted
  change execIdleTimeout s = _
  rw [execIdleTimeout, cpOn_of_working working, s0, settled, idle, asked]
  rfl

/-! ### The entry to S2 and S3 (R467, R469) -/

theorem startEntry_power (p : PState) (s : State) : (startEntry p s).power = { s.power with
    target := p
    state := .s0
    entering := true } := by
  simp only [startEntry, apply_ite State.power, updGroup_power, updPower_power, ite_self]

theorem admissionStopped_of_entering {s : State} (entering : s.power.entering = true) : admissionStopped s = true := by
  simp only [admissionStopped, entering, Bool.or_true, Bool.true_or]

theorem portsDown_changes (s : State) : ∃ n te, portsDown s = { s with
    net := n
    tele := te } := by
  refine List.foldlRecOn _ _ (motive := fun u : State => ∃ n te, u = { s with
    net := n
    tele := te }) ⟨_, _, rfl⟩ ?_
  rintro _ ⟨n, te, rfl⟩ x -
  unfold setLinkState
  dsimp only
  split <;> exact ⟨_, _, rfl⟩

section Drained
variable {s : State} (s0 : s.power.state = .s0) (drained : entryDrained s = true)
include s0 drained

theorem powerEntryDrained_s2 (target : s.power.target = .s2) : exec .powerEntryDrained s =
    .next (updPower (fun p => { p with
      state := .s2
      entering := false }) (portsDown s)) := by
  change execPowerEntryDrained s = _
  rw [execPowerEntryDrained, s0, drained, target]
  rfl

theorem powerEntryDrained_s3 (target : s.power.target = .s3) : exec .powerEntryDrained s =
    .next (updPower (fun p => { p with
      state := .s3
      target := .s3 }) (coldState (portsDown s))) := by
  change execPowerEntryDrained s = _
  rw [execPowerEntryDrained, s0, drained, target]
  rfl

end Drained

/-! ### The wake from S2 (R468) -/

theorem wakeComplete_wakes {s : State} (s2 : s.power.state = .s2) (waking : s.power.waking = true) : exec .wakeComplete s =
    .next { s with
      tiles := smMap s.tiles fun _ t => s2Tile t
      beat := { s.beat with
        paused := true
        inHead := false }
      power := { s.power with
        state := .s0
        target := .s0
        waking := false } } := by
  change execWakeComplete s = _
  rw [execWakeComplete, s2, waking]
  rfl

theorem spad_s2Tiles (m : SMap Tile) (k : Nat) : (smGet (smMap m fun _ t => s2Tile t) {} k).spad = [] := by
  rw [smGet, smFind_smMap]
  cases smFind m k <;> rfl

/-- Settles O58: each write of TARGET is a host access; an entry stops admission and ends with the ports down, in S2 with the
state kept; a wake from S2 loses what a tile keeps in SRAM. -/
theorem powerStateRows : Obligations.PowerStateRows := by
  intro s
  refine ⟨pwrTargetS0_of_hostReach, ?wakeS1, ?enterS1, ?waitS1,
    fun reach => ⟨congrArg _ (hostAccess_of_reachable reach _), congrArg _ (hostAccess_of_reachable reach _)⟩, ?entry, ?idle,
    ?drainS2, ?drainS3, ?wakeS2⟩
  case wakeS1 =>
    exact fun s1 reach => ⟨_, (pwrTargetS0_of_hostReach reach).trans (congrArg _ (targetS0_of_s1 s1)), rfl, rfl, rfl⟩
  case enterS1 =>
    intro reach s0 idle
    have enters : (s.power.state == .s0 && moduleIdle s) = true := by rw [s0, idle]; rfl
    exact ⟨_, (pwrTargetS1_of_reachable reach).trans (congrArg _ (if_pos enters)), rfl, rfl, rfl, rfl, rfl⟩
  case waitS1 =>
    intro reach busy
    have stays : ¬ (s.power.state == .s0 && moduleIdle s) = true := by
      rcases busy with other | busy
      · simp [other]
      · simp [busy]
    exact ⟨_, (pwrTargetS1_of_reachable reach).trans (congrArg _ (if_neg stays)), rfl, rfl, rfl⟩
  case entry =>
    intro p
    have entering : (startEntry p s).power.entering = true := by rw [startEntry_power]
    refine ⟨entering, by rw [startEntry_power], ?_⟩
    exact mayDispatch_of_admissionStopped (admissionStopped_of_entering entering)
  case idle =>
    intro working s0 settled idle wanted
    refine ⟨_, idleTimeout_enters working s0 settled idle wanted, rfl, ?_, ?_, fun other => ?_⟩
    · split <;> rfl
    · split <;> rfl
    · rw [if_neg (mt beq_iff_eq.1 other)]
      exact Nat.max_eq_right (Nat.le_add_right _ _)
  case drainS2 =>
    intro s0 drained target
    obtain ⟨n, te, down⟩ := portsDown_changes s
    refine ⟨_, powerEntryDrained_s2 s0 drained target, ?_⟩
    rw [down]
    exact ⟨rfl, rfl, rfl, rfl, rfl⟩
  case drainS3 =>
    intro s0 drained target
    obtain ⟨n, te, down⟩ := portsDown_changes s
    refine ⟨_, powerEntryDrained_s3 s0 drained target, ?_⟩
    rw [down]
    exact ⟨rfl, rfl, rfl, rfl, rfl⟩
  case wakeS2 =>
    intro s2 waking
    exact ⟨_, wakeComplete_wakes s2 waking, rfl, rfl, rfl, rfl, rfl, fun k => ⟨spad_s2Tiles s.tiles k,
      smGet_smMap s.tiles (fun _ t => s2Tile t) {} k Tile.vreg fun _ _ => rfl⟩⟩

/-! ### The supply and the hub's trip (19 R481, R487) -/

theorem supplyUndervoltage_trips {s : State} (rails : s.power.rails = .on) {v : Nat} (outside : v < 176 ∨ 228 < v) :
    exec (.supplyUndervoltage v) s = .next (updPower (fun p => { p with
      uvTrip := true
      input := min 255 v }) (railsOff .uvOff s)) := by
  have trips : (decide (v < 176) || decide (228 < v)) = true := by simpa using outside
  change execSupplyUndervoltage v s = _
  rw [execSupplyUndervoltage, rails, trips]
  rfl

theorem supplyRecovery_resets {s : State} (off : s.power.rails = .uvOff) {v : Nat} (enough : 188 ≤ v) :
    exec (.supplyRecovery v) s = .next (updPower (fun p => { p with input := min 255 v }) (coldReset 1 s)) := by
  change execSupplyRecovery v s = _
  rw [execSupplyRecovery, off, decide_eq_true enough]
  rfl

theorem hubTrip_trips {s : State} (rails : s.power.rails = .on) {m : Int} (hot : 110000 ≤ m) : exec (.hubTrip m) s =
    .next (updPower (fun p => { p with hubTrip := true }) (railsOff .hubOff s)) := by
  change execHubTrip m s = _
  rw [execHubTrip, rails, decide_eq_true hot]
  rfl

theorem hubTripRecovery_resets {s : State} (off : s.power.rails = .hubOff) {m : Int} (cool : m < 85000) :
    exec (.hubTripRecovery m) s = .next (coldReset 1 s) := by
  change execHubTripRecovery m s = _
  rw [execHubTripRecovery, off, decide_eq_true cool]
  rfl

/-! ### Heat of a die (19 R485 to R487) -/

section Heat
variable {s : State} {d : Nat} {m : Int}

/-- The event of a die at a limit, with the reading. -/
def heatEvent (d : Nat) (m : Int) (s : State) : State :=
  emit srcPower evThermalProtect devPart [(20, 1, d), (21, 1, 1), (24, 4, unsignedOf 32 m)] s

theorem thermalProtectEntry_protects (working : Working s) (die : d < 4) (hot : 95000 ≤ m) (unprotected : protect s d = false) :
    exec (.thermalProtectEntry d m) s = .next (heatEvent d m
      (updPower (fun p => { p with protect := p.protect ||| BitVec.ofNat 32 (2 ^ d) }) s)) := by
  change execThermalProtectEntry d m s = _
  rw [execThermalProtectEntry, cpOn_of_working working, decide_eq_true die, decide_eq_true hot, unprotected]
  rfl

theorem junctionLimit_reports (working : Working s) (die : d < 5) (hot : 105000 ≤ m) :
    exec (.junctionLimit d m) s = .next (heatEvent d m s) := by
  change execJunctionLimit d m s = _
  rw [execJunctionLimit, cpOn_of_working working, decide_eq_true die, decide_eq_true hot]
  rfl

theorem dieTrip_trips (rails : s.power.rails = .on) (awake : s.power.state ≠ .s3) (die : d < 4) (hot : 110000 ≤ m) :
    exec (.dieTrip d m) s = .next (dieLost d (moduleFault (tripCause d) srcPower
      { s with power := { s.power with dieTrip := s.power.dieTrip ||| BitVec.ofNat 32 (2 ^ d) } })) := by
  change execDieTrip d m s = _
  rw [execDieTrip, rails, decide_eq_true die, decide_eq_true hot, bne_iff_ne.2 awake]
  rfl

end Heat

theorem testBit_or_two_pow_of_ne {e d : Nat} (other : e ≠ d) (bound : d < 32) (x : BitVec 32) :
    (x ||| BitVec.ofNat 32 (2 ^ d)).toNat.testBit e = x.toNat.testBit e := by
  have small : 2 ^ d < 2 ^ 32 := Nat.pow_lt_pow_right (by decide) bound
  rw [BitVec.toNat_or, BitVec.toNat_ofNat, Nat.mod_eq_of_lt small, Nat.testBit_or, Nat.testBit_two_pow_of_ne other.symm,
    Bool.or_false]

/-- Settles O59: the trips take every rail but Clover's, a recovery is a cold reset, and a die at 95 °C sets its own bit alone. -/
theorem supplyAndHeatRows : Obligations.SupplyAndHeatRows := by
  intro s
  refine ⟨?under, ?recovery, ?protects, ?limit, fun d m => dieTrip_trips, ?hub, fun m off cool => hubTripRecovery_resets off cool, ?loss⟩
  case under =>
    exact fun v rails outside => ⟨_, supplyUndervoltage_trips rails outside, rfl, rfl, rfl, rfl, rfl, rfl⟩
  case recovery => exact fun v off enough => ⟨_, supplyRecovery_resets off enough, rfl, rfl, rfl, rfl⟩
  case protects =>
    intro d m working die hot unprotected
    refine ⟨_, thermalProtectEntry_protects working die hot unprotected, testBit_or_two_pow (by omega) s.power.protect, ⟨_, rfl, rfl⟩,
      rfl, rfl, rfl, fun e _ other => testBit_or_two_pow_of_ne other (by omega) s.power.protect⟩
  case limit =>
    exact fun d m working die hot => ⟨_, junctionLimit_reports working die hot, ⟨_, rfl⟩, _, rfl, rfl⟩
  case hub => exact fun m rails hot => ⟨_, hubTrip_trips rails hot, rfl, rfl, rfl, rfl, rfl⟩
  case loss => exact ⟨_, rfl, rfl, rfl, rfl, rfl, rfl⟩

end Sys2Proof.Machine
